-- ==== Sys2Proof/Word.lean ====
section
/-! DEFINITION. The word types of the LX-1536 model and the field extraction that every table of the spec is read with
(bit ranges are written [high:low], bit 0 least significant; multi-byte structures are little-endian: 00_scope). -/
namespace Sys2Proof

abbrev Byte := BitVec 8
abbrev W32 := BitVec 32
abbrev W64 := BitVec 64
/-- Core n lives on die n (R4). -/
abbrev Core := Fin 4
abbrev Die := Fin 4
/-- The two matrix arrays of a core (R4). -/
abbrev Arr := Fin 2
/-- List slots 0 to 15 of a core's sequencer (R44). -/
abbrev Slot := Fin 16
/-- Link ports P00 to P63 (R4). -/
abbrev Port := Fin 64
/-- Queue pairs 0 to 63 (R531). -/
abbrev Queue := Fin 64
/-- Stacks S00 to S31 (R4). -/
abbrev Stack := Fin 32
/-- Pseudo-channels 0 to 31 of a stack (R4). -/
abbrev Pc := Fin 32
/-- Update units U00 to U31 (R257). -/
abbrev UnitId := Fin 32
/-- A job identifier, 0x001 to 0xFFF; 0x000 is the firmware's own (R39). -/
abbrev JobId := BitVec 12
/-- A command packet of 128 bytes (R541), byte i at bits 8i+7 to 8i. -/
abbrev Packet := BitVec 1024
/-- A link packet header of 40 bytes (Table 12.3). -/
abbrev PktHdr := BitVec 320

end Sys2Proof
end

