-- ==== Sys2Proof/Syntax.lean ====
section
/-! DEFINITION. The commands of the LX-1536, one constructor per row of the opcode table, with the operands each row
carries: what a host, a link, a sensor or an engine presents to the block in that event. -/
namespace Sys2Proof

/-- A signature that ML-DSA.Verify of FIPS 204 accepts: the 4,627 bytes `bytes` over `message` under the public key `key` with the
context string `context`. Which byte strings are such signatures is a standard outside the spec, so a command brings one that is
(log entry 88). -/
structure Sig where
  context : List Byte
  key : List Byte
  message : List Byte
  bytes : List Byte
  deriving DecidableEq, Repr

/-- An image as a transfer brings it: its length in bytes, and its bytes by offset, one that is not listed being 0. -/
structure ImageFile where
  len : Nat
  bytes : List (Nat × Byte)
  deriving DecidableEq, Repr

/-- The signatures that an image brings (R624, R631): its own and, in a key record, the co-signature of the operator. -/
structure ImageAuth where
  image : Sig
  cosig : Sig
  deriving DecidableEq, Repr

/-- The header fields of a signed image (Table 18.3); `reservedZero` says rule 1 of R624 holds for the reserved bytes. -/
structure ImageHdr where
  magicOk : Bool
  type : Nat
  reservedZero : Bool
  version : W32
  svn : Nat
  bodyLen : Nat
  deriving DecidableEq, Repr

/-- How a DMA read of host memory failed (R530): event 0x9002 byte 10 is 1 to 4. -/
inductive DmaError where
  | ur | ca | poisoned | noCompletion
  deriving DecidableEq, Repr

/-- The blocks with a CNT_CTRL register. -/
inductive CntBlk where
  | arr (c : Core) (a : Arr)
  | vec (c : Core)
  | syn (c : Core)
  | pan (c : Core)
  | upd | cel | res | atc | lnk | col | pwr
  deriving DecidableEq, Repr

/-- What an engine measured while a descriptor ran: stage counts that depend on timing the spec leaves to the part
(R72 to R74, R216, R255), bytes the Pantry of the core, each Pantry (to a COLL) and each
stack of the Cellar granted, and the stages each update unit was active and waited. -/
structure Stats where
  active : Nat := 0
  underruns : Nat := 0
  underrunStages : Nat := 0
  loadWait : Nat := 0
  seedWait : Nat := 0
  xposeWait : Nat := 0
  replayStages : Nat := 0
  readWait : Nat := 0
  writeWait : Nat := 0
  anyWait : Nat := 0
  waitStages : Nat := 0
  panBytes : Nat := 0
  panDefer : Nat := 0
  pans : List (Nat × Nat) := []
  celBytes : List (Nat × Nat) := []
  units : List (Nat × Nat × Nat) := []
  deriving DecidableEq, Repr

/-- What a localisation test reports (R119): a physical row, the column's path, or nothing. -/
inductive LocResult where
  | row (r : Fin 1040)
  | column
  | nothing
  deriving DecidableEq, Repr

/-- Why a port went DOWN (R421, event 0x7002). -/
inductive DownCause where
  | dark | retrainsFailed | retrainTooLong
  deriving DecidableEq, Repr

/-- A flit as it stands on the link (Table 12.2): link header, the 244 payload bytes as a little-endian number, CRC. -/
structure Flit where
  hdr : W64
  body : Nat
  crc : W32
  deriving DecidableEq, Repr

/-- A BEACON body (Table 12.7); stamps in ticks and 1/256 ns. -/
structure BeaconBody where
  txTime : W64
  txFrac : Byte
  tbState : Byte
  gm : BitVec 20
  hops : Byte
  gmSeq : W64
  epoch : W64
  echoTx : W64
  echoTxF : Byte
  echoRx : W64
  echoRxF : Byte
  deriving DecidableEq, Repr

/-- A BEACON flit as it arrives: its link header (R422) and its body. -/
structure BeaconFlit where
  hdr : W64
  body : BeaconBody
  deriving DecidableEq, Repr

/-- A HELLO body (Table 12.21); `rsvZero` says its reserved bytes are zero. -/
structure HelloBody where
  chip : BitVec 20
  port : Port
  bundle : Fin 32
  member : Bool
  epoch : W64
  verify : Byte
  rsvZero : Bool
  deriving DecidableEq, Repr

/-- A HELLO flit as it arrives: its link header (R422) and its body. -/
structure HelloFlit where
  hdr : W64
  body : HelloBody
  deriving DecidableEq, Repr

/-- What R518 takes from the sender's command and layer beside the SNAPSHOT packet's own fields: the layer's MASTER_FMT and
bytes, the sync object that the command names. -/
structure SnapSrc where
  fmt : Nat := 0
  bytes : Nat := 0
  core : Core := 0
  obj : Fin 64 := 0
  deriving DecidableEq, Repr

/-- The regulator alerts of R575. -/
inductive AlertKind where
  | inputLow | overCurrent | hot
  deriving DecidableEq, Repr

/-- A regulator alert as its row names it: its kind, and the die at which it stands (no matter for the input's). -/
structure AlertAt where
  kind : AlertKind
  die : Die
  deriving DecidableEq, Repr

/-- A Strongbox mailbox frame (R668). -/
structure MetFrame where
  energy : W64
  frame : W64
  fwver : W32
  pcnt : W32
  tamper : Bool
  nvmFault : Bool
  power : Nat
  deriving DecidableEq, Repr

/-- The Strongbox's sealed parameters (R664): calibration gains and offsets of voltage and current, the shunt's temperature
coefficient, and the starting threshold of Table 20.1 in watts. -/
structure SealedParams where
  vGain : Nat := 0
  vOffset : Nat := 0
  iGain : Nat := 0
  iOffset : Nat := 0
  shuntTc : Nat := 0
  startW : Nat := 6
  deriving DecidableEq, Repr

/-- The metrology authority's transfers (R664 to R666). -/
inductive MetOp where
  | params (p : SealedParams)
  | firmware (version : W32)
  | clearTamper
  | clearNvmFault
  deriving DecidableEq, Repr

/-- The group of an array whose residue check fails, of the pass in flight numbered `pass` (R110, R114). -/
structure PassGroup where
  pass : Nat
  group : Fin 32
  deriving DecidableEq, Repr

/-- What the work of MEM_INIT found (R123, R128, R318, R332, R385). -/
structure MemInitReport where
  calibFail : List (Nat × Nat)
  bankFail : List (Nat × Nat)
  atticCode : Nat
  recordsReadable : Bool
  deriving DecidableEq, Repr

/-- The SPDM transports of R637. -/
inductive Transport where
  | attest | mctp | doe
  deriving DecidableEq, Repr

/-- The commands and events of the block: one constructor per row of the opcode table. -/
inductive Instr where
  /-- DEV_QUERY (R541). -/
  | devQuery (q : Queue) (p : Packet)
  /-- DEV_CONFIG (R540). -/
  | devConfig (q : Queue) (p : Packet)
  /-- JOB_OPEN (R548). -/
  | jobOpen (q : Queue) (p : Packet)
  /-- JOB_CLOSE (R339). -/
  | jobClose (q : Queue) (p : Packet)
  /-- OBJ_CREATE (R337). -/
  | objCreate (q : Queue) (p : Packet)
  /-- OBJ_FREE (R339). -/
  | objFree (q : Queue) (p : Packet)
  /-- OBJ_HINT (R365). -/
  | objHint (q : Queue) (p : Packet)
  /-- OBJ_WRITE (R559). -/
  | objWrite (q : Queue) (p : Packet)
  /-- OBJ_READ (R559). -/
  | objRead (q : Queue) (p : Packet)
  /-- TASK_LOAD (R561). -/
  | taskLoad (q : Queue) (p : Packet)
  /-- STEP_RUN (R550). -/
  | stepRun (q : Queue) (p : Packet)
  /-- STEP_ABORT (R554). -/
  | stepAbort (q : Queue) (p : Packet)
  /-- LAYER_SET (R560). -/
  | layerSet (q : Queue) (p : Packet)
  /-- SCHED_SET (R287). -/
  | schedSet (q : Queue) (p : Packet)
  /-- CKPT_WRITE (R557). -/
  | ckptWrite (q : Queue) (p : Packet)
  /-- CKPT_RESTORE (R558). -/
  | ckptRestore (q : Queue) (p : Packet)
  /-- SNAPSHOT_EXPORT (R514). -/
  | snapshotExport (q : Queue) (p : Packet)
  /-- TOPO_SET (R437). -/
  | topoSet (q : Queue) (p : Packet)
  /-- TIME_JOIN (R459). -/
  | timeJoin (q : Queue) (p : Packet)
  /-- OP_SET (R569). -/
  | opSet (q : Queue) (p : Packet)
  /-- POWER_CAP (R579). -/
  | powerCap (q : Queue) (p : Packet)
  /-- CORE_FENCE (R596). -/
  | coreFence (q : Queue) (p : Packet)
  /-- CORE_UNFENCE (R597). -/
  | coreUnfence (q : Queue) (p : Packet)
  /-- EVR_READ (R650). -/
  | evrRead (q : Queue) (p : Packet)
  /-- EVR_FREEZE (R651). -/
  | evrFreeze (q : Queue) (p : Packet)
  /-- EVR_THAW (R651). -/
  | evrThaw (q : Queue) (p : Packet)
  /-- EVR_CLEAR (R653). -/
  | evrClear (q : Queue) (p : Packet) (g : Sig)
  /-- FW_STAGE (R626). -/
  | fwStage (q : Queue) (p : Packet)
  /-- FW_ACTIVATE (R627). -/
  | fwActivate (q : Queue) (p : Packet) (g : Sig) (a : ImageAuth)
  /-- ATTEST (R637). -/
  | attest (q : Queue) (p : Packet)
  /-- DEBUG_UNLOCK (R639). -/
  | debugUnlock (q : Queue) (p : Packet) (g : Sig)
  /-- SYNC_FORCE (R413). -/
  | syncForce (q : Queue) (p : Packet)
  /-- MET_READ (R671). -/
  | metRead (q : Queue) (p : Packet)
  /-- SQ_TAIL_DOORBELL (R532). -/
  | sqTailDoorbell (q : Queue) (v : W32)
  /-- CQ_HEAD_DOORBELL (R533). -/
  | cqHeadDoorbell (q : Queue) (v : W32)
  /-- QUEUE_ENABLE (R531). -/
  | queueEnable (v : W32)
  /-- QUEUE_DISABLE (R537). -/
  | queueDisable (v : W32)
  /-- COMMAND_START (R534). -/
  | commandStart
  /-- HOST_DMA_ERROR (R530). -/
  | hostDmaError (q : Queue) (fetch : Bool) (addr : W64) (kind : DmaError)
  /-- INTERRUPT_COALESCE_TIMEOUT (R538). -/
  | interruptCoalesceTimeout (q : Queue)
  /-- DEBUG_APERTURE_ACCESS (R529). -/
  | debugApertureAccess (off : W32) (size : Nat) (w : Option Nat)
  /-- FLR (R617). -/
  | flr
  /-- PCIE_AER_ERROR (R562). -/
  | pcieAerError (correctable : Bool) (status : W32)
  /-- PCIE_DEGRADED (R562). -/
  | pcieDegraded (width : Nat) (rate : Nat)
  /-- IDE_ERROR (R562). -/
  | ideError (status : W32)
  /-- CNT_CLEAR (R99). -/
  | cntClear (b : CntBlk) (freeze : Bool)
  /-- CNT_FREEZE (R99). -/
  | cntFreeze (b : CntBlk) (freeze : Bool)
  /-- HISTOGRAM_SNAPSHOT_SELECT (R202). -/
  | histogramSnapshotSelect (v : W32)
  /-- HISTOGRAM_SNAPSHOT_DONE (R202). -/
  | histogramSnapshotDone
  /-- CEL_GANG_WRITE (R299). -/
  | celGangWrite (v : W32)
  /-- CEL_REG_WRITE (R307). -/
  | celRegWrite (c : Fin 5) (v : W32)
  /-- REGULATOR_CHANGE_EFFECT (R307). -/
  | regulatorChangeEffect (st : Stack) (c : Fin 5)
  /-- PAN_FLOOR_WRITE (R330). -/
  | panFloorWrite (c : Core) (v : W32)
  /-- DEBUG_LOCK_WRITE (R640). -/
  | debugLockWrite (v : W32)
  /-- MET_ENERGY_READ (R670). -/
  | metEnergyRead
  /-- REGISTER_WRITE (R10). -/
  | registerWrite (bar2 : Bool) (off : W32) (wide : Bool) (v : W64)
  /-- PHASE_DISPATCH (R30). -/
  | phaseDispatch (job : JobId)
  /-- LOOKAHEAD (R50). -/
  | lookahead (c : Core) (k : Slot)
  /-- ARR_PASS (R56). -/
  | arrPass (c : Core) (k : Slot)
  /-- ARR_LOAD (R84). -/
  | arrLoad (c : Core) (k : Slot)
  /-- VEC_STREAM (R249). -/
  | vecStream (c : Core) (k : Slot)
  /-- VEC_REDUCE (R245). -/
  | vecReduce (c : Core) (k : Slot)
  /-- MOVE (R372). -/
  | move (c : Core) (k : Slot)
  /-- PREFETCH (R373). -/
  | prefetch (c : Core) (k : Slot)
  /-- SYNC_WAIT (R398). -/
  | syncWait (c : Core) (k : Slot)
  /-- SYNC_SIGNAL (R396). -/
  | syncSignal (c : Core) (k : Slot)
  /-- BARRIER (R403). -/
  | barrier (c : Core) (k : Slot)
  /-- COLL (R471). -/
  | coll (c : Core) (k : Slot)
  /-- UPD_LAYER (R261). -/
  | updLayer (c : Core) (k : Slot)
  /-- ROOT_REFRESH (R283). -/
  | rootRefresh (c : Core) (k : Slot)
  /-- HIST_MARK (R178). -/
  | histMark (c : Core) (k : Slot)
  /-- END (R49). -/
  | endList (c : Core) (k : Slot)
  /-- DESCRIPTOR_RETIRE (R43). -/
  | descriptorRetire (c : Core) (id : Nat) (st : Stats)
  /-- REMOTE_SIGNAL_ACT (R396). -/
  | remoteSignalAct (src : Core) (dst : Core) (obj : Fin 48)
  /-- SYNC_WAIT_TIMEOUT (R401). -/
  | syncWaitTimeout (c : Core) (k : Slot)
  /-- CORE_BARRIER_RELEASE (R407). -/
  | coreBarrierRelease (c : Core) (bar : Fin 8)
  /-- BARRIER_TIMEOUT (R411). -/
  | barrierTimeout (c : Core) (id : Nat)
  /-- ARR_LOAD_BEGIN (R83). -/
  | arrLoadBegin (c : Core) (a : Arr)
  /-- ARR_PASS_STAGE0 (R68). -/
  | arrPassStage0 (c : Core) (a : Arr)
  /-- RESIDUE_MISMATCH: a check fails in the group of the pass; `phys` is the physical column (R114). -/
  | residueMismatch (c : Core) (a : Arr) (group : PassGroup) (phys : Fin 1040)
  /-- PASS_REPLAY (R115). -/
  | passReplay (c : Core) (a : Arr)
  /-- SUMP_ECC_ERROR (R100). -/
  | sumpEccError (c : Core) (a : Arr) (row : Fin 2048) (col : Fin 1024) (corrected : Bool)
  /-- CHUTE_PARITY (R100). -/
  | chuteParity (c : Core) (a : Arr) (row : Fin 1024) (slot : W32)
  /-- XPOSE_PARITY (R217). -/
  | xposeParity (c : Core) (a : Arr) (stationary : Bool) (band : Fin 16) (id : Nat)
  /-- VEC_LANE_PARITY (R256). -/
  | vecLaneParity (c : Core) (st : Fin 8)
  /-- VEC_RECIPE_PARITY (R256). -/
  | vecRecipeParity (c : Core) (recipe : Byte) (job : JobId)
  /-- SYN_PARITY (R416). -/
  | synParity (c : Fin 5) (obj : Fin 64)
  /-- PAN_ECC_ERROR (R331). -/
  | panEccError (c : Core) (bank : Fin 64) (word : W32) (corrected : Bool)
  /-- UPD_UNIT_FAULT (R280). -/
  | updUnitFault (u : UnitId)
  /-- UPD_BUFFER_ECC_ERROR (R280). -/
  | updBufferEccError (u : UnitId) (word : W32) (corrected : Bool)
  /-- LOCALISATION_TEST (R119). -/
  | localisationTest (c : Core) (a : Arr)
  /-- LOCALISATION_TEST_DONE (R121). -/
  | localisationTestDone (c : Core) (a : Arr) (r : LocResult)
  /-- STEP_END (R119). -/
  | stepEnd (job : JobId)
  /-- DEFERRED_CORE_FENCE (R596). -/
  | deferredCoreFence (c : Core)
  /-- DEFERRED_CORE_UNFENCE (R597). -/
  | deferredCoreUnfence (c : Core) (failing : Option (Fin 64))
  /-- CKPT_CAPTURE (R557). -/
  | ckptCapture (job : JobId)
  /-- CKPT_DURABLE (R371). -/
  | ckptDurable (job : JobId)
  /-- SNAPSHOT_CAPTURE (R514). -/
  | snapshotCapture (job : JobId)
  /-- SNAPSHOT_DONE (R519). -/
  | snapshotDone (job : JobId)
  /-- MOVE_COMMIT (R353). -/
  | moveCommit (obj : BitVec 16) (tile : W32)
  /-- SOURCE_FRAME_RELEASE (R353). -/
  | sourceFrameRelease (obj : BitVec 16) (tile : W32)
  /-- AUTO_POLICY_MOVE (R363). -/
  | autoPolicyMove (obj : BitVec 16) (tile : W32) (dest : Byte)
  /-- TILE_FAULT_TIMEOUT (R359). -/
  | tileFaultTimeout (obj : BitVec 16) (tile : W32)
  /-- ATTIC_GARBAGE_COLLECT (R377). -/
  | atticGarbageCollect (block : Nat)
  /-- ATC_DISTURB (R379). -/
  | atcDisturb (ch : Fin 16) (block : W32)
  /-- ATC_WEAR_MOVE (R380). -/
  | atcWearMove (src : W32) (dst : W32)
  /-- ATC_PAGE_UNCORRECTABLE (R381). -/
  | atcPageUncorrectable (ch : Fin 16) (block : W32) (page : BitVec 16) (rebuilt : Bool) (obj : BitVec 16) (tile : W32)
  /-- ATC_BLOCK_RETIRED (R381). -/
  | atcBlockRetired (ch : Fin 16) (block : W32)
  /-- JOURNAL_FLUSH (R378). -/
  | journalFlush
  /-- STACK_TEMP_READ (R309). -/
  | stackTempRead (st : Stack) (t : Int)
  /-- SCRUB (R317). -/
  | scrub (st : Stack) (corrected : List (Nat × Nat)) (bad : List Nat)
  /-- CELLAR_UNCORRECTABLE (R314). -/
  | cellarUncorrectable (st : Stack) (off : Nat)
  /-- ROW_REPAIRED (R317). -/
  | rowRepaired (st : Stack) (pc : Pc) (row : BitVec 16)
  /-- POISON_CONSUMED (R315). -/
  | poisonConsumed (id : Nat) (sector : Fin 16384) (obj : BitVec 16) (tile : W32)
  /-- CORRECTION_WINDOW_ROLL (R318). -/
  | correctionWindowRoll
  /-- STACK_REHASH (R319). -/
  | stackRehash (st : Stack)
  /-- REHASH_DONE (R319). -/
  | rehashDone (st : Stack)
  /-- FENCE_EVACUATION_DONE (R592). -/
  | fenceEvacuationDone (c : Core) (bad : List (Nat × Nat × Nat))
  /-- REPLAY_BEGIN (R599). -/
  | replayBegin (job : JobId)
  /-- FABRIC_REPLAY_FAILURE (R22). -/
  | fabricReplayFailure (a : Die) (b : Die)
  /-- WATCHDOG_EXPIRY (R28). -/
  | watchdogExpiry (d : Die)
  /-- CP_MEMORY_UNCORRECTABLE (R608). -/
  | cpMemoryUncorrectable (d : Die)
  /-- LANE_FAIL (R420). -/
  | laneFail (p : Port) (lane : Fin 4)
  /-- RETRAIN_DONE (R420). -/
  | retrainDone (p : Port) (ok : Bool)
  /-- PORT_DOWN (R421). -/
  | portDown (p : Port) (cause : DownCause)
  /-- PORT_TRAIN_RETRY (R421). -/
  | portTrainRetry (p : Port)
  /-- PORT_UP (R419). -/
  | portUp (p : Port) (peerLanes : BitVec 4)
  /-- DATA_FLIT_RECEIVE (R424). -/
  | dataFlitReceive (p : Port) (f : Flit)
  /-- LINK_REPLAY_TIMEOUT (R424). -/
  | linkReplayTimeout (p : Port)
  /-- BEACON_SEND (R425). -/
  | beaconSend (p : Port)
  /-- BEACON_RECEIVE (R452). -/
  | beaconReceive (p : Port) (b : BeaconFlit)
  /-- GM_SEQ_ADVANCE (R453). -/
  | gmSeqAdvance
  /-- GM_LIVENESS_TIMEOUT (R454). -/
  | gmLivenessTimeout
  /-- HELLO_SEND (R439). -/
  | helloSend (p : Port)
  /-- HELLO_RECEIVE (R440). -/
  | helloReceive (p : Port) (b : HelloFlit)
  /-- HELLO_TIMEOUT (R442). -/
  | helloTimeout
  /-- CREDIT_INIT (R426). -/
  | creditInit (p : Port) (f : Flit)
  /-- LANE_HEALTH (R426). -/
  | laneHealth (p : Port) (f : Flit)
  /-- RETRAIN (R426). -/
  | retrain (p : Port) (f : Flit)
  /-- CONTROL_REPEAT (R426). -/
  | controlRepeat (p : Port)
  /-- CREDIT_INIT_TIMEOUT (R426). -/
  | creditInitTimeout (p : Port)
  /-- PACKET_FORWARD (R432). -/
  | packetForward (p : Port) (h : PktHdr) (body : Nat)
  /-- EXCHANGE (R494). -/
  | exchange (p : Port) (h : PktHdr) (body : Nat)
  /-- REDUCE (R485). -/
  | reduce (p : Port) (h : PktHdr) (body : Nat) (dupOk : Bool)
  /-- BARRIER_PACKET (R409). -/
  | barrierPacket (p : Port) (h : PktHdr) (body : Nat)
  /-- E2E_ACK (R446). -/
  | e2eAck (p : Port) (h : PktHdr)
  /-- PACE (R524). -/
  | pace (p : Port) (h : PktHdr) (body : Nat)
  /-- SNAPSHOT (R518). -/
  | snapshot (p : Port) (h : PktHdr) (body : Nat) (src : SnapSrc)
  /-- TREE_PACKET_SEND (R469). -/
  | treePacketSend (k : Nat)
  /-- E2E_ACK_TIMER (R446). -/
  | e2eAckTimer (src : BitVec 20) (job : JobId) (vc : Fin 8)
  /-- E2E_RETX (R447). -/
  | e2eRetx (dst : BitVec 20) (job : JobId) (vc : Fin 8)
  /-- COLL_TIMEOUT (R501). -/
  | collTimeout (job : JobId) (collId : BitVec 16)
  /-- THROTTLE_IN_ASSERT (R684). -/
  | throttleInAssert (ns : Nat) (acts : Bool)
  /-- THROTTLE_IN_RELEASE (R684). -/
  | throttleInRelease
  /-- REG_ALERT (R575). -/
  | regAlert (kind : AlertKind) (d : Die) (v : Nat)
  /-- REG_ALERT_CLEAR (R574). -/
  | regAlertClear (kind : AlertAt)
  /-- FORCED_HOLDOFF_END (R574). -/
  | forcedHoldoffEnd
  /-- RAMP_STEP (R573). -/
  | rampStep
  /-- DROOP_SAMPLE (R576). -/
  | droopSample (d : Die) (mv : Nat)
  /-- DROOP_WARN_TIMEOUT (R577). -/
  | droopWarnTimeout (d : Die)
  /-- POWER_SAMPLE (R580). -/
  | powerSample (watts : Nat) (vin : Nat)
  /-- CAP_DECISION (R580). -/
  | capDecision
  /-- JUNCTION_SENSOR_READ (R584). -/
  | junctionSensorRead (d : Die) (r : List (Option Int))
  /-- TRIP_PERIMETER_OFF (R586). -/
  | tripPerimeterOff
  /-- THERM_OP_STEP (R585). -/
  | thermOpStep
  /-- RATE_MONITOR_SAMPLE (R567). -/
  | rateMonitorSample (d : Die) (count : Nat)
  /-- INPUT_LOSS (R383). -/
  | inputLoss
  /-- FLUSH_DONE (R383). -/
  | flushDone
  /-- MOD_PWREN_RISE (R682). -/
  | modPwrenRise
  /-- RAILS_IN_REGULATION (R682). -/
  | railsInRegulation
  /-- MOD_PWREN_FALL (R616). -/
  | modPwrenFall
  /-- RAIL_OUT_OF_REGULATION (R682). -/
  | railOutOfRegulation
  /-- PERST_ASSERT (R616). -/
  | perstAssert
  /-- PERST_DEASSERT (R683). -/
  | perstDeassert
  /-- BOOT_COMPLETE (R618). -/
  | bootComplete
  /-- MEM_INIT_COMPLETE (R618). -/
  | memInitComplete (r : MemInitReport)
  /-- LINK_INIT_COMPLETE (R618). -/
  | linkInitComplete
  /-- STARTUP_FAIL (R621). -/
  | startupFail
  /-- FIRMWARE_IMAGE_TRANSFER (R622). -/
  | firmwareImageTransfer (img : ImageFile) (a : ImageAuth)
  /-- ACTIVATE_FIRMWARE (R622). -/
  | activateFirmware
  /-- DEBUG_RELOCK_EXPIRY (R640). -/
  | debugRelockExpiry
  /-- RATE_WINDOW_CLOSE (R649). -/
  | rateWindowClose
  /-- FREEZE_EXPIRED (R652). -/
  | freezeExpired
  /-- OPSEC_PERSIST (R644). -/
  | opsecPersist
  /-- MAILBOX_FRAME (R669). -/
  | mailboxFrame (f : MetFrame) (crcOk : Bool)
  /-- MAILBOX_TIMEOUT (R669). -/
  | mailboxTimeout
  /-- STRONGBOX_FRAME_SEND (R668). -/
  | strongboxFrameSend (power : Nat)
  /-- ENERGY_ACCUMULATE (R661). -/
  | energyAccumulate (microJ : Nat) (power : Nat)
  /-- ENERGY_NVM_WRITE (R663). -/
  | energyNvmWrite
  /-- BUSBAR_BELOW_40V (R663). -/
  | busbarBelow40v (holdUpOk : Bool)
  /-- METROLOGY_SIGNED_TRANSFER (R664). -/
  | metrologySignedTransfer (sigOk : Bool) (op : MetOp)
  /-- STRONGBOX_PRIVATE_READ (R667). -/
  | strongboxPrivateRead (off : Nat) (len : Nat)
  /-- SEAL_LOOP_OPEN (R688). -/
  | sealLoopOpen
  /-- SET_ENDPOINT_ID (R690). -/
  | setEndpointId (eid : Byte)
  /-- GET_ENDPOINT_ID (R690). -/
  | getEndpointId
  /-- MCTP_DISCOVERY (R690). -/
  | mctpDiscovery (kind : Byte)
  /-- PLDM_DISCOVERY (R690). -/
  | pldmDiscovery
  /-- PLDM_SENSOR_READ (R692). -/
  | pldmSensorRead (sensor : Nat)
  /-- GET_VERSION (R637). -/
  | getVersion (t : Transport)
  /-- GET_CAPABILITIES (R637). -/
  | getCapabilities (t : Transport)
  /-- NEGOTIATE_ALGORITHMS (R637). -/
  | negotiateAlgorithms (t : Transport)
  /-- GET_DIGESTS (R637). -/
  | getDigests (t : Transport)
  /-- GET_CERTIFICATE (R636). -/
  | getCertificate (t : Transport) (slot : Fin 8) (off : Nat) (len : Nat)
  /-- CHALLENGE (R638). -/
  | challenge (t : Transport) (slot : Fin 8)
  /-- GET_MEASUREMENTS (R637). -/
  | getMeasurements (t : Transport) (index : Byte) (sign : Bool)
  /-- CHUNK_SEND (R637). -/
  | chunkSend (t : Transport) (last : Bool)
  /-- CHUNK_GET (R637). -/
  | chunkGet (t : Transport)
  /-- KEY_EXCHANGE (R637). -/
  | keyExchange (t : Transport)
  /-- FINISH (R637). -/
  | finish (t : Transport)
  /-- KEY_UPDATE (R637). -/
  | keyUpdate (t : Transport)
  /-- END_SESSION (R637). -/
  | endSession (t : Transport)
  /-- IDE_KM (R637); `go` is true where the message starts the stream, false where it stops it. -/
  | ideKm (t : Transport) (go : Option Bool)
  /-- IDCODE (R696). -/
  | idcode
  /-- BYPASS (R696). -/
  | bypass (code : Nat)
  /-- TIME_JOIN_TIMEOUT (R459). -/
  | timeJoinTimeout (q : Queue)
  /-- INPUT_APPLIED (R682). -/
  | inputApplied (mv : Nat)
  /-- IDLE_FLIT_RECEIVE (R424). -/
  | idleFlitReceive (p : Port) (f : Flit)
  /-- TRST_ASSERT (R697). -/
  | trstAssert
  /-- DYNAMIC_ADDRESS_ASSIGNMENT (R689). -/
  | dynamicAddressAssignment
  deriving DecidableEq, Repr

end Sys2Proof
end

