-- ==== Sys2Proof/Machine/Tab.lean ====
section
/-! DEFINITION. Tables: a finite map from numbers to values as a list of pairs in one canonical form (keys strictly
rising). `set` with a default keeps no entry equal to what an unlisted key reads as, so equal tables are equal data. -/
namespace Sys2Proof.Machine

abbrev Tab (α : Type) := List (Nat × α)

/-- The value listed at a key. -/
def Tab.find {α : Type} : Tab α → Nat → Option α
  | [], _ => none
  | (a, v) :: t, k => if k = a then some v else Tab.find t k

/-- The value at a key, `d` where none is listed. -/
def Tab.get {α : Type} (d : α) (t : Tab α) (k : Nat) : α := (Tab.find t k).getD d

/-- Removes a key from a table with rising keys. -/
def Tab.del {α : Type} : Tab α → Nat → Tab α
  | [], _ => []
  | (a, v) :: t, k => if k = a then t else if k < a then (a, v) :: t else (a, v) :: Tab.del t k

/-- Lists a value at a key, keeping the keys rising. -/
def Tab.put {α : Type} : Tab α → Nat → α → Tab α
  | [], k, w => [(k, w)]
  | (a, v) :: t, k, w =>
    if k = a then (k, w) :: t else if k < a then (k, w) :: (a, v) :: t else (a, v) :: Tab.put t k w

/-- Sets the value at a key of a table whose unlisted keys read `d`. -/
def Tab.set {α : Type} [DecidableEq α] (d : α) (t : Tab α) (k : Nat) (w : α) : Tab α :=
  if w = d then Tab.del t k else Tab.put t k w

/-- Changes the value at a key of a table whose unlisted keys read `d`. -/
def Tab.upd {α : Type} [DecidableEq α] (d : α) (t : Tab α) (k : Nat) (f : α → α) : Tab α :=
  Tab.set d t k (f (Tab.get d t k))

/-- The keys lie strictly above `lo` and rise strictly. -/
def Tab.risesFrom {α : Type} : Nat → Tab α → Prop
  | _, [] => True
  | lo, (a, _) :: t => lo ≤ a ∧ Tab.risesFrom (a + 1) t

/-- A run of values set from key `k` on. -/
def Tab.setMany {α : Type} [DecidableEq α] (d : α) (t : Tab α) (k : Nat) : List α → Tab α
  | [] => t
  | v :: vs => Tab.setMany d (Tab.set d t k v) (k + 1) vs

/-- Bits [lo+len-1:lo] of a number. -/
def fld (w lo len : Nat) : Nat := (w / 2 ^ lo) % 2 ^ len

/-- Byte-numbered field: `n` bytes from byte `off`, little-endian. -/
def byf (w off n : Nat) : Nat := fld w (8 * off) (8 * n)

/-- One bit of CRC-32C (R423): 0x82F63B78 is the polynomial 0x1EDC6F41 reflected. -/
def crcBit (c : Nat) : Nat := if c % 2 = 1 then c / 2 ^^^ 0x82F63B78 else c / 2
def crcByte (c b : Nat) : Nat := (List.range 8).foldl (fun c _ => crcBit c) (c ^^^ b)
/-- CRC-32C of the `n` bytes of a little-endian number, in order. -/
def crc32c (n x : Nat) : Nat := (List.range n).foldl (fun c i => crcByte c (byf x i 1)) 0xFFFFFFFF ^^^ 0xFFFFFFFF

/-- Bit `i` of a number. -/
def bit (w i : Nat) : Bool := fld w i 1 = 1

/-- Reads `len` bits as a two's-complement number. -/
def sx (len w : Nat) : Int := if w % 2 ^ len < 2 ^ (len - 1) then (w % 2 ^ len : Int) else (w % 2 ^ len : Int) - 2 ^ len

/-- The `n` bytes of a number, lowest first. -/
def leBytes (n w : Nat) : List Byte := (List.range n).map fun i => BitVec.ofNat 8 (w / 2 ^ (8 * i))

/-- The number that bytes spell, lowest first. -/
def ofBytes : List Byte → Nat
  | [] => 0
  | b :: bs => b.toNat + 256 * ofBytes bs

/-- A number built from (byte offset, byte count, value) fields, as the event and reply tables name them. -/
def pack (fs : List (Nat × Nat × Nat)) : Nat :=
  fs.foldl (fun acc f => acc + (f.2.2 % 2 ^ (8 * f.2.1)) * 2 ^ (8 * f.1)) 0

def b2n (b : Bool) : Nat := if b then 1 else 0

end Sys2Proof.Machine
end

