-- ==== Sys2Proof/Machine/Numerics.lean ====
section
/-! DEFINITION. Exact numbers, the formats of Table 4.1, rounding (R158 to R170), ACC56 and the reference order (R152).
Every value of the module is a fraction, an infinity, a signed zero or not a number; a conversion rounds it once. -/
namespace Sys2Proof.Machine

/-! ### Exact fractions -/

/-- An exact fraction in lowest terms with a positive denominator. -/
structure Fr where
  num : Int
  den : Nat
  deriving DecidableEq, Repr

def Fr.norm (n : Int) (d : Nat) : Fr :=
  let g := Nat.gcd n.natAbs d
  if g ≤ 1 then ⟨n, d⟩ else ⟨n / (g : Int), d / g⟩

def Fr.ofInt (n : Int) : Fr := ⟨n, 1⟩
def Fr.add (a b : Fr) : Fr := Fr.norm (a.num * b.den + b.num * a.den) (a.den * b.den)
def Fr.neg (a : Fr) : Fr := ⟨-a.num, a.den⟩
def Fr.sub (a b : Fr) : Fr := a.add b.neg
def Fr.mul (a b : Fr) : Fr := Fr.norm (a.num * b.num) (a.den * b.den)
/-- 1/a; 0 for a = 0, which no caller divides by. -/
def Fr.inv (a : Fr) : Fr :=
  if a.num = 0 then ⟨0, 1⟩ else if a.num < 0 then ⟨-(a.den : Int), a.num.natAbs⟩ else ⟨a.den, a.num.natAbs⟩
def Fr.div (a b : Fr) : Fr := a.mul b.inv
def Fr.abs (a : Fr) : Fr := ⟨a.num.natAbs, a.den⟩
def Fr.lt (a b : Fr) : Bool := a.num * b.den < b.num * a.den
def Fr.le (a b : Fr) : Bool := a.num * b.den ≤ b.num * a.den
def Fr.neg? (a : Fr) : Bool := a.num < 0
def Fr.zero? (a : Fr) : Bool := a.num == 0
/-- The largest integer not above a. -/
def Fr.floor (a : Fr) : Int := a.num / (a.den : Int)
def Fr.pow2 (e : Int) : Fr := if 0 ≤ e then ⟨2 ^ e.toNat, 1⟩ else ⟨1, 2 ^ (-e).toNat⟩
/-- ⌊log2 |a|⌋ of a nonzero fraction. -/
def Fr.log2 (a : Fr) : Int :=
  let e : Int := (Nat.log2 a.num.natAbs : Int) - (Nat.log2 a.den : Int)
  if Fr.le (Fr.pow2 e) a.abs then e else e - 1
/-- The nearest integer to a nonnegative fraction, ties to the even one. -/
def Fr.rne (a : Fr) : Nat :=
  let n := a.num.natAbs
  let q := n / a.den
  let r := n % a.den
  if a.den < 2 * r ∨ (2 * r = a.den ∧ q % 2 = 1) then q + 1 else q

/-! ### Values -/

inductive Val where
  | nan
  | inf (neg : Bool)
  | zero (neg : Bool)
  | fin (q : Fr)
  deriving DecidableEq, Repr

def Val.pos0 : Val := .zero false
/-- The value of a fraction, a zero taking the sign given. -/
def Val.of (q : Fr) (zneg : Bool := false) : Val := if q.zero? then .zero zneg else .fin q
def Val.isNan : Val → Bool | .nan => true | _ => false
def Val.isFinite : Val → Bool | .zero _ => true | .fin _ => true | _ => false
def Val.isZero : Val → Bool | .zero _ => true | _ => false
def Val.sign : Val → Bool | .nan => false | .inf n => n | .zero n => n | .fin q => q.neg?
def Val.neg : Val → Val | .nan => .nan | .inf n => .inf (!n) | .zero n => .zero (!n) | .fin q => .fin q.neg
def Val.abs : Val → Val | .nan => .nan | .inf _ => .inf false | .zero _ => .zero false | .fin q => .fin q.abs
/-- The fraction of a finite value. -/
def Val.fr : Val → Fr | .fin q => q | _ => ⟨0, 1⟩
/-- A value times a nonzero finite factor. -/
def Val.scale (v : Val) (f : Fr) : Val :=
  match v with
  | .nan => .nan
  | .inf n => .inf (n != f.neg?)
  | .zero n => .zero (n != f.neg?)
  | .fin q => .fin (q.mul f)

/-- The product of two values, exact when finite (R147, Table 4.4). -/
def Val.mul (a b : Val) : Val :=
  match a, b with
  | .nan, _ => .nan
  | _, .nan => .nan
  | .inf _, .zero _ => .nan
  | .zero _, .inf _ => .nan
  | .inf n, b => .inf (n != b.sign)
  | a, .inf n => .inf (a.sign != n)
  | .zero n, b => .zero (n != b.sign)
  | a, .zero n => .zero (a.sign != n)
  | .fin p, .fin q => .fin (p.mul q)

/-- The exact sum; opposite infinities give NaN, an exact zero sum gives +0 unless both terms are −0 (IEEE 754). -/
def Val.add (a b : Val) : Val :=
  match a, b with
  | .nan, _ => .nan
  | _, .nan => .nan
  | .inf m, .inf n => if m = n then .inf m else .nan
  | .inf m, _ => .inf m
  | _, .inf n => .inf n
  | .zero m, .zero n => .zero (m && n)
  | .zero _, b => b
  | a, .zero _ => a
  | .fin p, .fin q => .of (p.add q)

def Val.sub (a b : Val) : Val := a.add b.neg

/-- a < b; false when either is NaN. -/
def Val.lt (a b : Val) : Bool :=
  match a, b with
  | .nan, _ => false
  | _, .nan => false
  | .inf m, .inf n => m && !n
  | .inf m, _ => m
  | _, .inf n => !n
  | a, b => a.fr.lt b.fr

def Val.le (a b : Val) : Bool := !a.isNan && !b.isNan && !b.lt a
def Val.eq (a b : Val) : Bool := a.le b && b.le a

/-! ### Floating-point formats (Table 4.2) -/

/-- A format: exponent and fraction widths, bias, the code of the largest finite magnitude, whether it has an infinity
(at code maxFin + 1), and the code of NaN that conversions write (R161). -/
structure Fmt where
  e : Nat
  f : Nat
  bias : Int
  maxFin : Nat
  hasInf : Bool
  nan : Option Nat
  deriving DecidableEq, Repr

def Fmt.fp32 : Fmt := ⟨8, 23, 127, 0x7F7FFFFF, true, some 0x7FC00000⟩
def Fmt.bf16 : Fmt := ⟨8, 7, 127, 0x7F7F, true, some 0x7FC0⟩
def Fmt.fp16 : Fmt := ⟨5, 10, 15, 0x7BFF, true, some 0x7E00⟩
def Fmt.e4m3 : Fmt := ⟨4, 3, 7, 0x7E, false, some 0x7F⟩
def Fmt.e5m2 : Fmt := ⟨5, 2, 15, 0x7B, true, some 0x7E⟩
def Fmt.e3m2 : Fmt := ⟨3, 2, 3, 0x1F, false, none⟩
def Fmt.e2m3 : Fmt := ⟨2, 3, 1, 0x1F, false, none⟩
def Fmt.e2m1 : Fmt := ⟨2, 1, 1, 0x7, false, none⟩

/-- The floating-point format of a code 0 to 7 of Table 4.1. -/
def fmtOf : Nat → Fmt
  | 0 => .fp32 | 1 => .bf16 | 2 => .fp16 | 3 => .e4m3 | 4 => .e5m2 | 5 => .e3m2 | 6 => .e2m3 | _ => .e2m1

/-- Bits per element (Table 4.1); ACC56 is stored in 64. -/
def fmtBits : Nat → Nat
  | 0 => 32 | 1 => 16 | 2 => 16 | 3 => 8 | 4 => 8 | 5 => 6 | 6 => 6 | 7 => 4 | 8 => 8 | 9 => 64 | 10 => 64 | 11 => 128 | _ => 0

/-- An E4M3 or E5M2 code. -/
def fmtFp8 (c : Nat) : Bool := c = 3 || c = 4
/-- A block-scaled code. -/
def fmtBlock (c : Nat) : Bool := decide (5 ≤ c ∧ c ≤ 7)

/-- The value of an element code of a floating-point format (R132). -/
def Fmt.decode (t : Fmt) (w : Nat) : Val :=
  let neg := bit w (t.e + t.f)
  let mag := w % 2 ^ (t.e + t.f)
  let ex := mag / 2 ^ t.f
  let fr := mag % 2 ^ t.f
  if mag = 0 then .zero neg
  else if mag ≤ t.maxFin then
    let q := if ex = 0 then (Fr.ofInt fr).mul (Fr.pow2 (1 - t.bias - t.f))
      else (Fr.ofInt (fr + 2 ^ t.f)).mul (Fr.pow2 ((ex : Int) - t.bias - t.f))
    .fin (if neg then q.neg else q)
  else if t.hasInf ∧ mag = t.maxFin + 1 then .inf neg
  else .nan

/-! ### ACC56 (R142, R143, R150) -/

def acc56Nan : Nat := 0x7FFF8000000000

def acc56Decode (w : Nat) : Val :=
  let neg := bit w 55
  let e := fld w 40 15
  let f := fld w 0 40
  if e = 0 then .zero neg
  else if e = 0x7FFF then (if f = 0 then .inf neg else .nan)
  else
    let q := (Fr.ofInt (f + 2 ^ 40)).mul (Fr.pow2 ((e : Int) - 16383 - 40))
    .fin (if neg then q.neg else q)

/-- The ACC56 of q's sign and binade and a significand of 41 bits, or of the next binade where rounding reached it. -/
def acc56Code (q : Fr) (k : Nat) : Nat :=
  let e := if k = 2 ^ 41 then q.log2 + 1 else q.log2
  let k := if k = 2 ^ 41 then 2 ^ 40 else k
  b2n q.neg? * 2 ^ 55 + (e + 16383).toNat * 2 ^ 40 + (k - 2 ^ 40)

/-- Rounds to ACC56 to nearest-even: 41 significant bits (R150); zero is written as +0 (R143). -/
def acc56Encode (v : Val) : Nat :=
  match v with
  | .nan => acc56Nan
  | .inf n => b2n n * 2 ^ 55 + 0x7FFF * 2 ^ 40
  | .zero _ => 0
  | .fin q =>
    acc56Code q (q.abs.mul (Fr.pow2 (40 - q.log2))).rne

/-- One addition into the accumulator (R151): exact sum, rounded; an exact zero gives +0. -/
def acc56Add (a g : Nat) : Nat := acc56Encode ((acc56Decode a).add (acc56Decode g))

/-! ### Element values -/

/-- The value of a block scale code (R135): 0xFF marks not a number. -/
def blockFactor (c : Nat) : Option Fr := if c = 0xFF then none else some (Fr.pow2 ((c : Int) - 127))

/-- The value of an element code of any format of Table 4.1, no scale applied (R132, R141, R142). -/
def elemVal (fmt w : Nat) : Val :=
  if fmt ≤ 7 then (fmtOf fmt).decode w
  else if fmt = 8 then .of (Fr.ofInt (sx 8 w))
  else if fmt = 9 then acc56Decode (w % 2 ^ 56)
  else .of (Fr.ofInt (sx (fmtBits fmt) w))

/-- FP32 codes and values. -/
def f32 (w : Nat) : Val := Fmt.fp32.decode w

/-! ### Stochastic words (R167, R168) -/

def mix64 (x : BitVec 64) : BitVec 64 :=
  let x := x ^^^ (x >>> 32)
  let x := x * 0xE7A53C916B2D48F3#64
  let x := x ^^^ (x >>> 29)
  let x := x * 0xB4D28E19C7635A0D#64
  x ^^^ (x >>> 32)

def srWord (seed step layer index : Nat) : Nat :=
  let h := mix64 (BitVec.ofNat 64 seed ^^^ 0x2C6BF1A40E93D758#64)
  let h := mix64 (h ^^^ BitVec.ofNat 64 step)
  let h := mix64 (h ^^^ BitVec.ofNat 64 layer)
  (mix64 (h ^^^ BitVec.ofNat 64 index)).toNat

/-! ### Conversion (R158 to R166) -/

/-- Round-to-nearest-even, or stochastic with the element's word (R158, R169). -/
inductive Rnd where
  | rne
  | sr (word : Nat)
  deriving DecidableEq, Repr

/-- The grid index of a nonnegative fraction in units of the grid step (R159, R169). -/
def Rnd.index (r : Rnd) (x : Fr) : Nat :=
  match r with
  | .rne => x.rne
  | .sr w =>
    let a := x.num.natAbs / x.den
    let d := (x.num.natAbs % x.den) * 2 ^ 32 / x.den
    if w / 2 ^ 32 < d then a + 1 else a

/-- The magnitude code nearest to |q| with no upper limit (R159): the formats' codes count the grid's points. -/
def Fmt.gridCode (t : Fmt) (r : Rnd) (q : Fr) : Nat :=
  let e := max q.log2 (1 - t.bias)
  let k := r.index (q.abs.mul (Fr.pow2 (t.f - e)))
  (e + t.bias - 1).toNat * 2 ^ t.f + k

/-- Converts a value to a floating-point format (R159 to R161). Block-scaled formats have no NaN of their own: a block
with a non-finite element is written by `convBlock`. -/
def Fmt.encode (t : Fmt) (r : Rnd) (v : Val) : Nat :=
  let sgn := fun (n : Bool) => b2n n * 2 ^ (t.e + t.f)
  match v with
  | .nan => t.nan.getD 0
  | .inf n => sgn n + (if t.hasInf then t.maxFin + 1 else t.maxFin)
  | .zero n => sgn n
  | .fin q =>
    let k := t.gridCode r q
    sgn q.neg? + (if k ≤ t.maxFin then k else if t.hasInf then t.maxFin + 1 else t.maxFin)

/-- Converts to INT8 (R162, Table 4.7). -/
def int8Encode (r : Rnd) (v : Val) : Nat :=
  match v with
  | .nan => 0
  | .inf n => if n then 0x80 else 0x7F
  | .zero _ => 0
  | .fin q =>
    let k := r.index q.abs
    if q.neg? then 256 - min k 128 - (if min k 128 = 0 then 256 else 0) else min k 127

/-- Converts to ACC56 by the mode requested (R158, R169). -/
def acc56Convert (r : Rnd) (v : Val) : Nat :=
  match r, v with
  | .sr w, .fin q => acc56Code q (Rnd.index (.sr w) (q.abs.mul (Fr.pow2 (40 - q.log2))))
  | _, v => acc56Encode v

/-- Converts a value to a format of Table 4.1 other than the block-scaled ones and the wire lanes. -/
def convert (fmt : Nat) (r : Rnd) (v : Val) : Nat :=
  if fmt = 8 then int8Encode r v else if fmt = 9 then acc56Convert r v else (fmtOf fmt).encode r v

/-- E_max of a block-scaled format (R164). -/
def blockEmax (fmt : Nat) : Int := if fmt = 5 then 4 else 2

/-- Converts one block of elements (R164): the scale code and the element codes; `rnd i` rounds element i. -/
def convBlock (fmt : Nat) (rnd : Nat → Rnd) (vs : List Val) : Nat × List Nat :=
  if vs.any (fun v => !v.isFinite) then (0xFF, vs.map fun _ => 0)
  else if vs.all Val.isZero then (0x7F, vs.map fun v => (fmtOf fmt).encode .rne v)
  else
    let amax := vs.foldl (fun m v => if m.lt v.fr.abs then v.fr.abs else m) ⟨0, 1⟩
    let c := (min (max (amax.log2 - blockEmax fmt + 127) 0) 254).toNat
    (c, (vs.zip (List.range vs.length)).map fun vi => (fmtOf fmt).encode (rnd vi.2) (vi.1.scale (Fr.pow2 (127 - c))))

/-! ### FP32 arithmetic -/

/-- Rounds a value to FP32 to nearest-even. -/
def Val.r32 (v : Val) : Val := f32 (Fmt.fp32.encode .rne v)
def Val.to32 (v : Val) : Nat := Fmt.fp32.encode .rne v

/-- The FP32 sum, product, fused multiply-add and quotient of finite or special values, rounded once. -/
def f32Add (a b : Val) : Val := (a.add b).r32
def f32Mul (a b : Val) : Val := (a.mul b).r32
def f32Fma (a b c : Val) : Val := ((a.mul b).add c).r32

/-- The quotient before rounding (IEEE 754): 0/0 and ∞/∞ are NaN, x/0 an infinity. -/
def Val.div (a b : Val) : Val :=
  match a, b with
  | .nan, _ => .nan
  | _, .nan => .nan
  | .inf _, .inf _ => .nan
  | .inf n, b => .inf (n != b.sign)
  | .zero _, .zero _ => .nan
  | a, .inf n => .zero (a.sign != n)
  | .zero n, b => .zero (n != b.sign)
  | a, .zero n => .inf (a.sign != n)
  | .fin p, .fin q => .fin (p.div q)
def f32Div (a b : Val) : Val := (a.div b).r32

/-- The integer square root by digit recurrence, highest bit first. -/
def isqrtGo : Nat → Nat → Nat → Nat
  | 0, _, r => r
  | k + 1, n, r => let c := r + 2 ^ k; isqrtGo k n (if c * c ≤ n then c else r)
def isqrt (n : Nat) : Nat := isqrtGo (Nat.log2 n / 2 + 1) n 0

/-- The correctly rounded square root of a positive fraction in units of 2^u, ties to even: with an extra bit and a
sticky bit, rounded once. -/
def Fr.sqrtRne (q : Fr) (u : Int) : Nat :=
  let s := q.mul (Fr.pow2 (-2 * u + 2))
  let fl := s.num.natAbs / s.den
  let r := isqrt fl
  let exact := r * r = fl ∧ s.num.natAbs % s.den = 0
  -- r is ⌊2·√q/2^u⌋
  let k := r / 2
  if r % 2 = 1 ∧ (¬ exact ∨ k % 2 = 1) then k + 1 else k

end Sys2Proof.Machine
end

