-- ==== Sys2Proof/Config.lean ====
section
/-! DEFINITION. What the spec leaves open: free values, each an opaque constant without a value that any proof could use. -/
namespace Sys2Proof

/-- The command nonce bytes drawn at generation `g` (R633): entropy. -/
opaque Config.nonce : Nat → BitVec 512
/-- The estimate f of the parent's rate from the last 64 offsets (R455: "formed from the slope", no method given), in
parts per 10^9. -/
opaque Config.rateEstimate : List (Nat × Int) → Int
/-- SHA3-512 (FIPS 202), a standard outside the spec: byte i of the digest at bits 8i+7 to 8i. -/
opaque Config.sha3 : List (BitVec 8) → BitVec 512
/-- ML-DSA-87 (FIPS 204), a standard outside the spec: the public key that KeyGen_internal gives for a seed, and the signature of
a message under a seed with the randomness of the hedged mode (R635, R638). -/
opaque Config.mldsaPublic : BitVec 256 → BitVec 20736
opaque Config.mldsaSign : BitVec 256 → List (BitVec 8) → BitVec 64 → BitVec 37016
/-- The bytes of a response and the combined prefix of a signature under SPDM 1.3 (R637, R638), a standard outside the spec: by
the request's code, and for a response by the values that it reports. -/
opaque Config.spdmFrame : Nat → List (BitVec 8) → List (BitVec 8)
opaque Config.spdmPrefix : Nat → List (BitVec 8)
/-- The vendor identifier that PCI-SIG assigned to Trememar (Tables 15.1, 18.5), not stated. -/
opaque Config.vendorId : BitVec 16
/-- What a read of a doorbell returns (Table 15.3 gives its writes only), by the offset. -/
opaque Config.doorbellRead : Nat → BitVec 32
/-- The DER encoding of a certificate (X.509) from its fields, a standard outside the spec; the certificates of Trememar's root and
of the Louri product CA; and the signature that the product CA gave an identity certificate (R636). -/
opaque Config.x509 : List (BitVec 8) → List (BitVec 8)
opaque Config.caCert : Nat → List (BitVec 8)
opaque Config.caSignature : List (BitVec 8) → BitVec 37016
/-- The digest of the boot ROM (Table 18.6, block 1), not stated. -/
opaque Config.bootRom : BitVec 512
/-- The bytes in which fuses hold numbers (Table 18.6, block 3), not stated. -/
opaque Config.fuseBytes : List Nat → List (BitVec 8)
/-- The MCTP version that the endpoint answers (R690), not stated. -/
opaque Config.mctpVersion : BitVec 32
/-- Hard repairs of pseudo-channel k (32 * stack + pseudo-channel) at manufacture (Table 9.15), not stated. -/
opaque Config.pprLeft : Nat → BitVec 8
/-- Trememar's JEDEC manufacturer identity (R696), not stated. -/
opaque Config.jedec : BitVec 11
/-- Bytes of a tile that parity could not rebuild, or of writes that a fault left partial: a fresh value each time. -/
opaque Config.freeValue : Nat → BitVec 64
/-- The bytes of a journal record, less one (R378), not stated. -/
opaque Config.journalRecord : BitVec 8
/-- The status bits that a register shows while an engine works and that depend on its stages (R72 to R74, R255): by the
register's offset and the instant. -/
opaque Config.stageBits : Nat → Nat → BitVec 32

end Sys2Proof
end

