-- ==== Sys2Proof/Machine/State.lean ====
section
/-! DEFINITION. The state of the LX-1536: every register, buffer, queue and table that the spec gives the block, and the
queue of waiting commands. Tables (`Tab`) list only the entries that differ from their default. Counts, sizes, indices
and identifiers are numbers; register layouts are formed where a register is read (Machine/Registers.lean). -/
namespace Sys2Proof.Machine

/-- A block's counters by register offset (64-bit, default 0) and its FREEZE bit (Tables 2.14, 2.17 and the like). -/
structure Cnt where
  freeze : Bool := false
  c : Tab W64 := []
  deriving DecidableEq, Repr

/-! ### The recorder (19) -/

/-- An event record (Table 19.1); the payload is a 40-byte little-endian number. -/
structure Rec where
  code : Nat
  sev : Nat
  late : Bool
  unjoined : Bool
  pcycles : Nat
  opsec : Nat
  index : Nat
  time : Nat
  payload : Nat
  deriving DecidableEq, Repr

/-- Per-code counts of the current rate window (R648, R649). -/
structure WinCnt where
  n : Nat := 0
  supp : Nat := 0
  first : Nat := 0
  last : Nat := 0
  deriving DecidableEq, Repr

structure Evr where
  staging : List Rec := []
  ring : List Rec := []
  next : Nat := 0
  cleared : Bool := false
  frozenAt : Option Nat := none
  lostInFreeze : Nat := 0
  stgOvf : Bool := false
  win : Tab WinCnt := []
  winNo : Nat := 0
  heldBoot : List Rec := []
  pres : List Rec := []
  presNext : Nat := 0
  opsec : Nat := 0
  opNs : Nat := 0
  opsecSaved : Nat := 0
  pcycles : Nat := 1
  pcSaved : Nat := 0
  flushed : List Rec := []
  cntRecords : Nat := 0
  cntSupp : Nat := 0
  cntOver : Nat := 0
  cntLost : Nat := 0
  deriving DecidableEq, Repr

/-! ### The Strongbox (20) -/

structure Strongbox where
  microJ : Nat := 0
  frame : Nat := 0
  fwver : Nat := 0
  pcnt : Nat := 0
  tamper : Bool := false
  nvmFault : Bool := false
  serial : Nat := 0
  mserial : Nat := 0
  nvmMilliJ : Nat := 0
  params : SealedParams := {}
  supplied : Bool := true
  loopOpen : Bool := false
  sent : Option MetFrame := none
  deriving DecidableEq, Repr

/-! ### What rows emit -/

/-- An event on its way to the recorder; `mode` 0 is the usual path, 1 held back from BOOT (R619), 2 staged only (R608). -/
structure Ev where
  code : Nat
  sev : Nat
  payload : Nat
  time : Nat
  unjoined : Bool
  mode : Nat
  deriving DecidableEq, Repr

structure HWrite where
  addr : Nat
  bytes : List Byte
  deriving DecidableEq, Repr

structure Out where
  events : List Ev := []
  writes : List HWrite := []
  deriving DecidableEq, Repr

/-! ### Time base (12) -/

inductive TbState where
  | free | acquire | locked | holdover | grandmaster
  deriving DecidableEq, Repr

structure TimeB where
  nanoTicks : Nat := 0
  rho : Int := 0
  f : Int := 0
  offsets : List (Nat × Int) := []
  lockRun : Nat := 0
  state : TbState := .free
  stepped : Bool := false
  hops : Nat := 0
  gm : Nat := 0
  gmSeq : Nat := 0
  parent : Option Nat := none
  theta : Int := 0
  holdFrom : Nat := 0
  firstMeas : Bool := false
  joins : List (Nat × Nat) := []
  deriving DecidableEq, Repr

/-! ### Start-up and security (18), persistent matter -/

inductive Phase where
  | off | boot | memInit | linkInit | ready | degraded | failed
  deriving DecidableEq, Repr

inductive SlotState where
  | empty | inactive | active | pending
  deriving DecidableEq, Repr

/-- An image slot: `valid` says that its bytes pass rules 1 to 4 of R624, `bodyHash` is their BODY_HASH (log entry 88). -/
structure FwSlot where
  st : SlotState := .empty
  svn : Nat := 0
  version : Nat := 0
  bodyHash : BitVec 512 := 0
  valid : Bool := false
  deriving DecidableEq, Repr

/-- A repair of an array: `col` false maps out a row, true a column. -/
structure Splice where
  col : Bool
  phys : Nat
  field : Bool
  deriving DecidableEq, Repr

/-- What survives power and module reset outside the Strongbox (R384, R385, fuses). Arrays are keyed 2*core+array. `fwkHash`,
`opkHash` by slot and the device secret `ds` are fuses (R624, R631, R635); `opkKey` is the stored operator key. -/
structure Nv where
  serial : Nat := 0
  slotA : FwSlot := { st := .active, svn := 0, version := 0, valid := true }
  slotB : FwSlot := {}
  floor : Nat := 0
  fwkHash : BitVec 512 := 0
  opkHash : Tab (BitVec 512) := []
  opkKey : List Byte := []
  ds : BitVec 256 := 0
  dbgDisable : Bool := false
  vtab : List Nat := [550, 580, 610, 640, 670, 700, 740, 780]
  fuseSplices : Tab (List Splice) := []
  journal : List (Nat × Splice) := []
  exhausted : List Nat := []
  mismatch : Tab Nat := []
  mapOuts : List (Nat × Nat) := []
  lastFatal : Nat := 0
  lastFail : Nat := 0
  trialFailed : Bool := false
  flushOk : Bool := false
  flushDue : Bool := false
  flushBytes : Nat := 0
  draws : Nat := 0
  pprUsed : Tab Nat := []
  deriving DecidableEq, Repr

/-- Security. `aliasSeed`, `aliasCert`, `bodyHash`, `fuseDigest` and `opkDigest` are what BOOT left (R635, R636, Table 18.6);
`dsLocked` is the read-lock of the device secret; `restart` says that a trial ended in a fatal fault and the module restarts
from BOOT after the flush (R628). -/
structure Sec where
  dbgEnd : Nat := 0
  nonceGen : Nat := 0
  bootedB : Bool := false
  fallback : Bool := false
  trial : Bool := false
  opkBad : Bool := false
  opkWasBad : Bool := false
  dsLocked : Bool := false
  aliasSeed : BitVec 256 := 0
  aliasCert : List Byte := []
  bodyHash : BitVec 512 := 0
  fuseDigest : BitVec 512 := 0
  opkDigest : BitVec 512 := 0
  restart : Bool := false
  recovery : Bool := false
  recordsBad : Bool := false
  reformatted : Bool := false
  trialFailed : Bool := false
  lastFail : Nat := 0
  lastFatal : Nat := 0
  stageLen : Option Nat := none
  stageRanges : List (Nat × Nat) := []
  stage : Tab Nat := []
  deriving DecidableEq, Repr

/-! ### Host interface (15) -/

/-- A command in hand; `pinned` lists the tiles of a placement hint that were pinned when it came (R366). -/
structure Cmd where
  pkt : Packet
  acting : Bool := false
  order : Nat := 0
  pinned : List Nat := []
  deriving DecidableEq, Repr

structure Qp where
  en : Bool := false
  stopping : Bool := false
  coalCount : Nat := 0
  vector : Nat := 0
  coalTime : Nat := 0
  size : Nat := 0
  sqBase : Nat := 0
  cqBase : Nat := 0
  sqHead : Nat := 0
  sqTail : Nat := 0
  cqHead : Nat := 0
  cqTail : Nat := 0
  phase : Bool := true
  err : Bool := false
  halted : Bool := false
  cfgErr : Bool := false
  cmd : Option Cmd := none
  unsig : Nat := 0
  unsigFrom : Nat := 0
  deriving DecidableEq, Repr

/-- A BAR (R528): a memory BAR of 64 bits or of 32, prefetchable or not. -/
structure PciBar where
  index : Nat
  size : Nat
  wide : Bool := true
  prefetch : Bool := false
  deriving DecidableEq, Repr

/-- The parts of PCI Express that the function offers (Table 15.1). -/
inductive PciPart where
  | flitMode | msix (vectors : Nat) | aer | ecrc | selectiveIde (streams : Nat) | ideKm | doe | flr
  deriving DecidableEq, Repr

/-- The physical function (R527, R528): its Type 0 header and its capabilities; the vendor is `Config.vendorId`. -/
structure PciFunction where
  headerType : Nat := 0
  device : BitVec 16 := 0x1536
  classCode : BitVec 24 := 0x120000
  bars : List PciBar := [{ index := 0, size := 2 ^ 24 }, { index := 2, size := 2 ^ 16 }, { index := 4, size := 2 ^ 32, prefetch := true }]
  maxPayload : Nat := 512
  maxReadRequest : Nat := 4096
  tagBits : Nat := 10
  addressBits : Nat := 64
  parts : List PciPart := [.flitMode, .msix 256, .aer, .ecrc, .selectiveIde 1, .ideKm, .doe, .flr]
  deriving DecidableEq, Repr

structure Hif where
  func : PciFunction := {}
  qsel : Nat := 0
  q : Tab Qp := []
  rr : Nat := 0
  async : BitVec 6 := 0
  asyncVec : Nat := 0
  asyncMask : Nat := 0
  dbgBase : Nat := 0
  ide : Bool := false
  flit : Bool := false
  width : Nat := 0
  rate : Nat := 0
  linkUp : Bool := true
  msix : List Nat := []
  aer : List Nat := []
  aperture : List (Option Nat) := []
  deriving DecidableEq, Repr

/-! ### Objects and residency (10), Cellar and Pantry (09) -/

/-- An object. `poison` lists its poisoned sectors by tile × 16,384 + sector; `copies` those of an image, by the home of the
copy that holds them (R371). -/
structure Obj where
  job : Nat
  fmt : Nat
  rows : Nat
  cols : Nat
  axis : Nat := 0
  borrowed : Option Nat := none
  image : Bool := false
  elems : Tab Nat := []
  codes : Tab Nat := []
  tscale : Tab Nat := []
  ring : List Nat := List.replicate 16 0
  count : Nat := 0
  pending : Nat := 0
  stepScale : Option Nat := none
  written : Bool := false
  fixedTiles : List Nat := []
  fallback : Bool := false
  restored : Bool := false
  poison : List Nat := []
  copies : List (Nat × Nat) := []
  deriving DecidableEq, Repr

/-- An extent (R343): `n` consecutive tiles from `tile` in consecutive frames from `frame` of one home (Table 10.2). -/
structure Ext where
  obj : Nat
  tile : Nat
  n : Nat
  home : Nat
  frame : Nat
  deriving DecidableEq, Repr

structure Pin where
  count : Nat
  target : Nat
  deriving DecidableEq, Repr

/-- A request for a tile (R355): `kind` is its row of Table 10.3; `evict` that it is an eviction, `serves` that it is a tile
fault or an eviction that serves one (R364). -/
structure Req where
  obj : Nat
  tile : Nat
  dest : Nat
  seq : Nat
  kind : Nat
  core : Nat
  job : Nat
  since : Nat
  serves : Bool := false
  evict : Bool := false
  deriving DecidableEq, Repr

/-- A move in flight (R353): `n` tiles from `tile0` to frames from `frame` of `home`; more than one tile only where R346
moves a whole extent. A move into a Pantry copies into landing frames from `land` (R354); `need` are the extent entries
that its commit may take (R345). -/
structure Mv where
  req : Req
  tile0 : Nat
  n : Nat
  home : Nat
  frame : Nat
  servesPin : Bool
  land : Nat := 0
  need : Nat := 0
  deriving DecidableEq, Repr

structure Hint where
  pref : Nat := 0xFF
  dontneed : Bool := false
  directed : Nat := 0xFF
  deriving DecidableEq, Repr

structure Res where
  gen : Tab Nat := []
  objs : Tab Obj := []
  ext : List Ext := []
  pins : Tab Pin := []
  pinOrder : Tab Nat := []
  pinCore : Tab Nat := []
  pinSeq : Nat := 0
  moves : List Mv := []
  waiting : List Req := []
  starved : List Nat := []
  held : List Ext := []
  releasing : List Ext := []
  area : List Ext := []
  hints : Tab Hint := []
  seq : Nat := 0
  cnt : Cnt := {}
  osel : Nat := 0
  reserveSeen : Bool := false
  deriving DecidableEq, Repr

/-- An erase block of the Attic (R375, R379 to R381), by channel + 16 × block; `use` is the log block that it belongs to. -/
structure EBlock where
  erases : Nat := 0
  reads : Nat := 0
  retired : Bool := false
  use : Option Nat := none
  deriving DecidableEq, Repr

/-- The Attic. Log block n is one erase block on each channel, `log` naming them: 15 data pages and a parity page on each of
1,024 stripes, room for 240 tiles (R375, R376); `head` is the log position of the next tile, in tiles. `map` holds the map
entries as runs: frames of the Attic home, and their log positions in tiles (`tile`, `frame` of an Ext). `buf` are the bytes
of the journal buffer, `appended` the records appended so far, `onNand` those on NAND, `region` the bytes of the journal
region; `recs` are the records in the buffer, each a frame with its new log position or none, and `kept` the map that the
snapshot and the records on NAND give, in the form of `map` (R378). -/
structure Attic where
  startCode : Nat := 0
  lastFlushOk : Bool := false
  readOnly : Bool := false
  spareLow : Bool := false
  spareGib : Nat := 0
  retiredMib : Nat := 0
  blocks : Tab EBlock := []
  log : Tab (List Nat) := []
  head : Nat := 0
  map : List Ext := []
  buf : Nat := 0
  appended : Nat := 0
  onNand : Nat := 0
  region : Nat := 0
  recs : List (Nat × Option Nat) := []
  kept : List Ext := []
  accepting : Bool := true
  cnt : Cnt := {}
  deriving DecidableEq, Repr

structure PcSt where
  mapped : Bool := false
  suspect : Bool := false
  corrHour : Nat := 0
  poisoned24 : List Nat := []
  corr : Nat := 0
  poison : Nat := 0
  deriving DecidableEq, Repr

/-- A stack. `rate` and `burst` are the written regulator values, `inForceRate` and `inForceBurst` those that act; `tokens` the
buckets' tokens in fifths of a byte, full at the start (R304; log entry 68). -/
structure StackSt where
  temp : Int := 0
  refresh : Nat := 0
  hot : Bool := false
  draining : Bool := false
  rehash : Bool := false
  out : Bool := false
  regReject : Bool := false
  active : Nat := 0
  rate : List Nat := [96, 96, 32, 24, 8]
  burst : List Nat := [64, 64, 64, 64, 64]
  pendReg : Tab (Nat × Nat) := []
  inForceRate : List Nat := [96, 96, 32, 24, 8]
  inForceBurst : List Nat := [64, 64, 64, 64, 64]
  tokens : List Nat := [327680, 327680, 327680, 327680, 327680]
  pc : Tab PcSt := []
  reservedIn : Option Nat := none
  c : Tab W64 := []
  deriving DecidableEq, Repr

structure Cellar where
  bcast : Bool := false
  pcSel : Nat := 0
  stackSel : Nat := 0
  gang : List Nat := [0, 0, 0, 0]
  freeze : Bool := false
  st : Tab StackSt := []
  freeWrites : Tab Nat := []
  hour : Nat := 0
  deriving DecidableEq, Repr

/-- A Pantry: its 8 staging and 8 landing frames (R326, R354), the job and SEQ of the descriptor that has the staging area
(R193), and the lines that hold a word that cannot be corrected (R331). -/
structure Pantry where
  floorReject : Bool := false
  staging : List Nat := [240, 241, 242, 243, 244, 245, 246, 247]
  landing : List Nat := [248, 249, 250, 251, 252, 253, 254, 255]
  lent : Option (Nat × Nat) := none
  badLines : List Nat := []
  floors : List Nat := [4, 4, 4, 1]
  cnt : Cnt := {}
  deriving DecidableEq, Repr

/-! ### Sequencers, arrays, vector engines, sync objects (01 to 03, 06, 07, 11) -/

/-- An issued descriptor (R43, R46): `d` is its 64 bytes as a number. `began` says that a pass or a load has begun, or that
a refresh has taken its engines; `worked` that what it reads has been read and what it writes written, which waits for
every tile it pins (R351); `rows` and `cols` are those of the set that a pass uses; `replays` counts a pass's replays
(R117). -/
structure Infl where
  id : Nat
  slot : Nat
  task : Nat := 0
  job : Nat
  d : Nat
  pins : List (Nat × Nat × Nat) := []
  set : Nat := 0
  load : Nat := 0
  rows : Nat := 1024
  cols : Nat := 1024
  began : Bool := false
  worked : Bool := false
  replays : Nat := 0
  result : Bool := false
  deadline : Option Nat := none
  collKey : Nat := 0
  deriving DecidableEq, Repr

/-- A dispatched list; `op` is the operating point its job asks for in its phase (R569, R525). -/
structure DList where
  job : Nat
  task : Nat
  phase : Nat
  prio : Nat
  order : Nat
  op : Nat
  descs : List Nat
  deriving DecidableEq, Repr

/-- A list in a list slot: its remaining descriptors, the last SEQ, whether its head's waits are satisfied; `asked` orders the
heads that wait at issue for an engine of the whole module (R46, R471). -/
structure SlotSt where
  l : DList
  rest : List Nat
  pos : Nat := 0
  lastSeq : Option Nat := none
  waitDone : Bool := false
  asked : Option Nat := none
  blocked : Option Nat := none
  stopped : Bool := false
  deriving DecidableEq, Repr

/-- A stationary set (R55, R93): element codes and block codes by k*1024+n and g*1024+n, the tile scale of an FP8 set, and
beside each element the residue modulo 3 of its significand (R111); for FP32, `res` is that of the upper part and `resLo`
that of the lower (R155). -/
structure ASet where
  job : Nat := 0
  fmt : Nat := 0
  rows : Nat := 1024
  cols : Nat := 1024
  el : Tab Nat := []
  codes : Tab Nat := []
  sw : Nat := 0x3F800000
  res : Tab Nat := []
  resLo : Tab Nat := []
  deriving DecidableEq, Repr

/-- A sump entry row's tags (R93, R140): JOB, s_X, s_W. -/
structure RowTag where
  job : Nat := 0
  sx : Nat := 0x3F800000
  sw : Nat := 0x3F800000
  deriving DecidableEq, Repr

/-- What a set was issued to hold (R93, R95): the tags that issue checks read, before its load begins. -/
structure SetTag where
  job : Nat := 0
  fmt : Nat := 0
  rows : Nat := 1024
  cols : Nat := 1024
  load : Nat := 0
  deriving DecidableEq, Repr

/-- An array. `q` are the passes and `loads` the loads issued and not begun; `runOut` names the pass whose
mismatch started the run-out (R114), `replays` the passes that are being replayed (R115). `moveHalf` and `statHalf` are the
transposed descriptors whose elements the halves of the transposing buffer take (R204). -/
structure ArrSt where
  sets : List ASet := [{}, {}]
  tagged : List SetTag := [{}, {}]
  nextSet : Nat := 0
  curSet : Option Nat := none
  q : List Nat := []
  loads : List Nat := []
  sump : Tab Nat := []
  tags : Tab RowTag := []
  loadSet : Nat := 0
  injSet : Nat := 0
  stall : Nat := 0x1000
  cnt : Cnt := {}
  splices : List Splice := []
  pend : List (Nat × Nat) := []
  pendOvf : Bool := false
  testing : Bool := false
  runOut : Option Nat := none
  replays : List Nat := []
  moveHalf : List Nat := []
  statHalf : List Nat := []
  deriving DecidableEq, Repr

structure Recipe where
  job : Nat
  task : Nat
  idx : Nat
  w : Nat
  deriving DecidableEq, Repr

structure SyncObj where
  job : Nat := 0
  observe : Bool := false
  value : Nat := 0
  init : Nat := 0
  saturated : Bool := false
  due : Bool := false
  deriving DecidableEq, Repr

structure Payload where
  and32 : Nat := 0xFFFFFFFF
  or32 : Nat := 0
  max64 : Nat := 0
  sum128 : Int := 0
  deriving DecidableEq, Repr

/-- An arrival on a module barrier while the episode before it awaits its group: core, descriptor, contribution, VERDICT, and the
time base at the arrival (R408). -/
structure LaterArr where
  core : Nat
  id : Nat
  pay : Payload
  verdict : Bool
  stamp : Nat
  deriving DecidableEq, Repr

structure Bar where
  job : Nat := 0
  parties : Nat := 0
  group : Nat := 0
  arrived : Nat := 0
  sense : Bool := false
  failed : Bool := false
  awaiting : Bool := false
  pay : Payload := {}
  first : Nat := 0
  last : Nat := 0
  lastChip : Nat := 0
  episode : Nat := 0
  waiting : List (Nat × Nat) := []
  releasable : List (List (Nat × Nat) × Payload × Nat × Nat × Nat × Nat) := []
  got : List Nat := []
  mods : Nat := 0
  held : List (Nat × Nat × Nat) := []
  verdict : Bool := false
  relFirst : Nat := 0
  relLast : Nat := 0
  relChip : Nat := 0
  later : List LaterArr := []
  due : Bool := false
  deriving DecidableEq, Repr

structure CoreSt where
  faultSlot : Nat := 0
  listFault : Bool := false
  faultSeq : Nat := 0
  faultJob : Nat := 0
  faultOp : Nat := 0
  faultCause : Nat := 0
  fenced : Bool := false
  fencing : Option (Nat × Nat) := none
  slots : Tab SlotSt := []
  lq : List DList := []
  infl : List Infl := []
  recipes : List Recipe := []
  vecCnt : Cnt := {}
  vecStall : Nat := 0x10000
  pan : Pantry := {}
  sync : Tab SyncObj := []
  bars : Tab Bar := []
  synForced : Bool := false
  synCnt : Cnt := {}
  remote : List (Nat × Nat × Bool × Nat × Nat) := []
  deriving DecidableEq, Repr

/-! ### Numeric watch (05) -/

/-- A histogram window: ZERO, NONFINITE, FLUSHED at keys 0 to 2, bin b at key 3+b; `job` last counted into it. -/
structure Win where
  job : Nat := 0
  c : Tab Nat := []
  step : Nat := 0
  aborted : Bool := false
  mark : Bool := false
  markId : Nat := 0
  closed : Bool := false
  deriving DecidableEq, Repr

structure Num where
  cur : Tab Win := []
  last : Tab Win := []
  hselBank : Nat := 0
  hselClass : Nat := 0
  hselLayer : Nat := 0
  busy : Bool := false
  snapValid : Bool := false
  snap : Win := {}
  next : Win := {}
  jsel : Nat := 0
  usel : Nat := 0
  deriving DecidableEq, Repr

/-! ### Layer entries, schedules, update units (05, 06, 08, 13) -/

/-- The fields of a layer record (Table 14 of 15: Table 15.14) that LAYER_SET writes, by MASK bit (0 to 31). -/
structure LayerCfg where
  objs : List Nat := List.replicate 12 0
  frozen : Bool := false
  passThrough : Bool := false
  nesterov : Bool := false
  clipEn : Bool := true
  masterSr : Bool := true
  uwArm : Bool := true
  actFmt : Nat := 0
  masterFmt : Nat := 1
  rule : Nat := 1
  lrSched : Nat := 0
  lrMult : Nat := 0x3F800000
  wd : Nat := 0
  beta1 : Nat := 0x3F666666
  beta2 : Nat := 0x3F7FBE77
  eps : Nat := 0x322BCC77
  rootEps : Nat := 0x358637BD
  refreshN : Nat := 100
  uwThresh : Nat := 512
  uwK : Nat := 256
  thinRank : Nat := 0
  deriving DecidableEq, Repr

structure Layer where
  job : Nat := 0
  cfg : LayerCfg := {}
  pend : List (Nat × Nat) := []
  pendJob : Nat := 0
  updCount : Nat := 0
  p1 : Nat := 0
  p2 : Nat := 0
  lastUpd : Nat := 0xFFFFFFFFFFFFFFFF
  epsCur : Nat := 0x358637BD
  epsAt : Nat := 0xFFFFFFFFFFFFFFFF
  epsPrev : Nat := 0x358637BD
  guarded : Bool := false
  guardCnt : Nat := 0
  skipCnt : Nat := 0
  rootL : List Nat := []
  rootR : List Nat := []
  run : Nat := 0
  latched : Bool := false
  stepBad : Nat := 0
  stepN : Nat := 0
  updating : Nat := 0
  deriving DecidableEq, Repr

structure Seg where
  type : Nat
  len : Nat
  v0 : Nat
  v1 : Nat
  param : Nat
  deriving DecidableEq, Repr

structure Sched where
  job : Nat := 0
  restart : Nat := 0
  segs : List Seg := []
  pos : Nat := 0
  val : Nat := 0
  pend : Option (Nat × Nat × List Seg × Nat) := none
  deriving DecidableEq, Repr

/-- What the block area of a unit holds of a rule 2 layer's block: its number, and u1 and dir of its elements in row-major order,
as FP32 codes (R262, R270). -/
structure HeldBlock where
  block : Nat
  u1 : List Nat
  dir : List Nat
  deriving DecidableEq, Repr

/-- An update unit. `staged` are the row blocks in the staging area of its block buffer, at most 16, each with its new values as
codes of the master format; `held` is the block of a rule 2 layer in the block area (R262). -/
structure UnitSt where
  q : List (Nat × Nat) := []
  staged : List (Nat × List Nat) := []
  held : Option HeldBlock := none
  next : Nat := 0
  resuming : Bool := false
  c : Tab W64 := []
  deriving DecidableEq, Repr

structure Upd where
  sel : Nat := 0
  freeze : Bool := false
  units : Tab UnitSt := []
  lsel : Nat := 0
  ssel : Nat := 0
  layers : Tab Layer := []
  scheds : Tab Sched := []
  deriving DecidableEq, Repr

/-! ### Links (12) -/

inductive Link where
  | down | training | up | retraining
  deriving DecidableEq, Repr

inductive Verify where
  | unconnected | waiting | verified | mismatch | dark | late
  deriving DecidableEq, Repr

/-- A flit held for replay: its LSEQ, virtual channel and bundle sequence number. -/
structure HeldFlit where
  lseq : Nat
  vc : Nat
  bseq : Nat
  sop : Bool := true
  eop : Bool := true
  transit : Bool := false
  kind : Nat := 0
  paid : Bool := true
  data : Nat := 0
  deriving DecidableEq, Repr

/-- A packet of which flits have arrived: its BSEQ, how many flits, their payload bytes. -/
structure Partial where
  bseq : Nat := 0
  n : Nat := 0
  owe : Nat := 0
  epoch : Nat := 0
  bytes : Nat := 0
  deriving DecidableEq, Repr

/-- A whole packet in the receive buffer of a port: its channel there, the order it belongs to (`key`: port or bundle, and
channel), the flits whose credits its leaving returns, the epoch in force when its first flit came, its bytes. -/
structure InPkt where
  port : Nat
  vc : Nat
  key : Nat
  owe : Nat
  epoch : Nat
  bytes : Nat
  deriving DecidableEq, Repr

/-- A whole packet of a bundle that waits for an earlier BSEQ, and since when. -/
structure SkewPkt where
  bseq : Nat
  at_ : Nat
  pkt : InPkt
  deriving DecidableEq, Repr

structure PortSt where
  link : Link := .down
  used : List Nat := []
  failed : Nat := 0
  retrains : Nat := 0
  badRetrains : Nat := 0
  verify : Verify := .unconnected
  bundleOut : Bool := false
  nPort : Nat := 0
  nChip : Nat := 0
  nBundle : Nat := 0
  pendEn : Bool := false
  pendId : Nat := 0
  actEn : Bool := false
  actId : Nat := 0
  vccred : List Nat := [32, 32, 32, 32, 32, 32, 32, 32]
  alloc : List Nat := [32, 32, 32, 32, 32, 32, 32, 32]
  credits : List Nat := [0, 0, 0, 0, 0, 0, 0, 0]
  owed : List Nat := [0, 0, 0, 0, 0, 0, 0, 0]
  gotCredit : Bool := false
  peerLanes : Nat := 15
  txLseq : Nat := 0
  rxLseq : Nat := 0
  replay : List HeldFlit := []
  resends : Nat := 0
  ackAt : Nat := 0
  waiting : List HeldFlit := []
  lastVc : Nat := 0
  turns : Tab (Bool × Bool) := []
  asm : Tab Partial := []
  delays : List Int := []
  lastTx : Nat := 0
  lastTxF : Nat := 0
  lastRx : Nat := 0
  lastRxF : Nat := 0
  advGm : Nat := 0
  advHops : Nat := 63
  advSeq : Nat := 0
  advAt : Nat := 0
  advHeard : Bool := false
  ctrlLeft : Nat := 0
  trainedAt : Nat := 0
  retrainAt : Nat := 0
  expChip : Nat := 0
  expPort : Nat := 0
  mapped : Bool := false
  olderHello : Bool := false
  holdDown : Bool := false
  c : Tab W64 := []
  deriving DecidableEq, Repr

structure Route where
  hops : List (Nat × Nat)
  deriving DecidableEq, Repr

/-- What a retransmission re-forms a payload from (R444, R487): raw elements of a pinned object from a linear index on, or the
module's own lanes of a block of its context. -/
inductive PktSrc where
  | raw (obj lin n : Nat)
  | lanes (blk : Nat)
  deriving DecidableEq, Repr

/-- An outgoing packet: destination, job, CLASS_VC, KIND, body and body length in bytes; `ctx` names what it serves, `src` what a
retransmission re-forms the payload from. -/
structure OutPkt where
  dst : Nat
  job : Nat
  vc : Nat
  kind : Nat
  body : Nat
  len : Nat
  ctx : Nat
  src : Option PktSrc := none
  deriving DecidableEq, Repr

/-- A packet that the module has sent: with its E2E_SEQ, RETX bit, route index, and when it left last. -/
structure SentPkt where
  pkt : OutPkt
  seq : Nat
  retx : Bool
  route : Nat
  sentAt : Nat := 0
  deriving DecidableEq, Repr

structure TxStream where
  next : Nat := 0
  unacked : List SentPkt := []
  retx : Nat := 0
  oldestAt : Nat := 0
  route : Nat := 0
  badRoutes : List Nat := []
  unreachable : Bool := false
  due : Bool := false
  deriving DecidableEq, Repr

/-- A held packet of a receiving stream: E2E_SEQ, port, header and body. -/
structure HeldPkt where
  seq : Nat
  port : Nat
  hdr : Nat
  body : Nat
  src : SnapSrc := {}
  deriving DecidableEq, Repr

structure RxStream where
  next : Nat := 0
  held : List HeldPkt := []
  unackedN : Nat := 0
  firstAt : Nat := 0
  deriving DecidableEq, Repr

structure Lnk where
  psel : Nat := 0
  valid : Bool := false
  chip : Nat := 0
  epoch : Nat := 0
  ports : Tab PortSt := []
  routes : Tab (List Route) := []
  maxRetx : Nat := 8
  timeout : Nat := 50
  helloQ : Option (Nat × Nat × Nat) := none
  tx : Tab TxStream := []
  rx : Tab RxStream := []
  formed : List OutPkt := []
  parked : List OutPkt := []
  sent : List SentPkt := []
  flits : List (Nat × Flit) := []
  fwd : List (Nat × Nat × Nat) := []
  cnt : Cnt := {}
  dark : Bool := false
  bseq : Tab Nat := []
  rxBseq : Tab Nat := []
  skewed : List SkewPkt := []
  orphans : Tab Partial := []
  inbox : List InPkt := []
  deriving DecidableEq, Repr

/-! ### Collective engine (13) -/

structure Group where
  job : Nat
  g : Nat
  f : Nat
  members : List Nat
  deriving DecidableEq, Repr

/-- One block of a collective on this module: the ranks whose inputs are in with their exact lane sums, code, LMAX and
flags; the ranks whose local codes are in with their maximum; the agreed code; whether the block has left for its
parent (or, at the owner, has its final sum), whether its codes have, and whether its result is delivered here; `gotN` counts
the elements of it that a gather has delivered. -/
structure BlockSt where
  from_ : List Nat := []
  lanes : List Int := []
  count : Nat := 0
  code : Option Nat := none
  lmax : Nat := 0
  nonfin : Bool := false
  wide : Bool := false
  codeFrom : List Nat := []
  codeMax : Nat := 0
  codeSent : Bool := false
  agreed : Option Nat := none
  sent : Bool := false
  got : Bool := false
  gotN : Nat := 0
  deriving DecidableEq, Repr

/-- A reduction context (R470); `local_` is the issued COLL. `parked` holds packets (port, header, body, in the park area)
that wait for the local COLL, or for its tiles; `stagePend` holds received data of a PERMUTE in place. -/
structure Ctx where
  job : Nat
  collId : Nat
  step : Nat
  attempt : Nat
  local_ : Option Nat := none
  started : Bool := false
  core : Nat := 0
  d : Nat := 0
  prepass : Bool := false
  widened : Bool := false
  quenched : Bool := false
  blocks : Tab BlockSt := []
  received : Nat := 0
  predW : List Nat := []
  lmaxSent : List Nat := []
  tilesDone : List Nat := []
  wrote : List (Nat × Nat) := []
  stagePend : List (Nat × List Nat × List Nat) := []
  parked : List (Nat × Nat × Nat × Bool) := []
  deriving DecidableEq, Repr

structure Coll where
  parkFull : Bool := false
  cnt : Cnt := {}
  csel : Nat := 0
  nsel : Nat := 0
  mbsel : Nat := 0
  pjsel : Nat := 0
  groups : Tab Group := []
  ctx : List Ctx := []
  parkBytes : Nat := 0
  mbar : Tab Bar := []
  deriving DecidableEq, Repr

/-! ### Jobs and steps (14, 15, 17) -/

structure TaskList where
  core : Nat
  phase : Nat
  prio : Nat
  descs : List Nat
  deriving DecidableEq, Repr

structure Task where
  earlyAbort : Bool
  lists : List TaskList
  recipes : List Nat
  deriving DecidableEq, Repr

structure Notice where
  origin : Nat
  op : Nat
  left : Nat
  deriving DecidableEq, Repr

/-- A replay that a job awaits (R599, R605): its point (0 PH_FWD, 1 PH_UPD), the causing event code, the attempt of a
notice (0 for the module's own), the notifying chip. -/
structure ReplayReq where
  point : Nat
  code : Nat
  attempt : Nat := 0
  chip : Nat := 0
  deriving DecidableEq, Repr

/-- A running step; `started` says that a list of it has been dispatched, in this attempt or an earlier one. -/
structure Run where
  queue : Nat
  cmdId : Nat
  mask : Nat
  tasks : List Nat
  variantOf : List (Nat × Nat)
  attempt : Nat := 1
  step : Nat
  phase : Nat := 0
  dispatched : Bool := false
  started : Bool := false
  halted : Bool := false
  causes : List (Nat × Nat × Nat) := []
  verdict : Option Bool := none
  verdictSeen : Bool := false
  spread : Nat := 0
  flags : Nat := 0
  collIds : List Nat := []
  replay : Option ReplayReq := none
  replayed : Bool := false
  credited : Bool := false
  deriving DecidableEq, Repr

structure SnapExp where
  queue : Nat
  cmdId : Nat
  lo : Nat
  hi : Nat
  link : Bool
  vc : Nat
  syncObj : Nat
  syncCore : Nat
  addr : Nat
  len : Nat
  dstChip : Nat
  dstJob : Nat
  id : Nat
  captured : Option Nat := none
  unread : List Nat := []
  pos : Nat := 0
  waits : Nat := 0
  waited : List Nat := []
  bytes : Nat := 0
  status : Nat := 0
  deriving DecidableEq, Repr

/-- A CKPT_WRITE under way. -/
structure CkptOp where
  queue : Nat
  cmdId : Nat
  handles : List Nat
  lo : Nat
  hi : Nat
  schedMask : Nat
  image : Option Nat := none
  step : Nat := 0
  deriving DecidableEq, Repr

/-- An open job. `nfSeen`, `quenchSeen` and `satSeen` say which of the records that a step makes once are made: 0x2001
(R197), 0x2002 (R200) and 0x6001 by core × 64 + object (R392); `halted`, that a fault stopped its refresh lists between
steps. -/
structure Job where
  seed : Nat
  step : Nat
  clipNorm : Nat
  z : Int
  directed : Bool
  paceMatch : Bool
  paceK : Nat
  paceHold : Nat
  paceThresh : Nat
  log : Nat := 0
  logPos : Nat := 0
  logWraps : Nat := 0
  tasks : Tab Task := []
  run : Option Run := none
  nonfinite : Bool := false
  first : Nat := 0
  firstIdx : Nat := 0
  quenching : Bool := false
  g2 : Nat := 0
  norm : Int := 0
  normSat : Bool := false
  ops : List Nat := [5, 5, 5, 5]
  notices : List Notice := []
  lateRun : Nat := 0
  sending : Bool := false
  matching : Bool := false
  issueCause : Nat := 0
  issueOp : Nat := 0
  runPref : Nat := 5
  held : Bool := false
  psSpread : Nat := 0
  psStep : Nat := 0
  ckpt : Option CkptOp := none
  snap : Option SnapExp := none
  closing : Option (Nat × Nat) := none
  verdictBar : Nat := 0
  lost : List Nat := []
  halted : Bool := false
  nfSeen : Bool := false
  quenchSeen : Bool := false
  satSeen : List Nat := []
  deriving DecidableEq, Repr

/-- A checkpoint image (R369, R557): the saved objects, layer entries, schedules and step number. -/
structure Image where
  obj : Nat
  job : Nat
  step : Nat
  objs : List (Nat × Obj)
  layers : List (Nat × Layer)
  scheds : List (Nat × Sched)
  record : Nat := 0
  durable : Bool := false
  deriving DecidableEq, Repr

/-- A durable image that was freed, while the journal records of that may not be on NAND: `record` is the last of them, none
while pins hold its tiles (R339, R378, R384). -/
structure FreedImage where
  image : Image
  data : Obj
  ext : List Ext
  record : Option Nat := none
  deriving DecidableEq, Repr

/-! ### Power (16) -/

inductive Forced where
  | throttle | alert | droop
  deriving DecidableEq, Repr

structure DieSt where
  tjMax : Int := 0
  sensorsOk : Nat := 0
  rate : Nat := 0
  amps : Nat := 0
  mv : Nat := 0
  warn : Bool := false
  warnFrom : Nat := 0
  warnLow : Nat := 0
  rateLowFrom : Option Nat := none
  rateLowSeen : Bool := false
  sensorFail : Bool := false
  deriving DecidableEq, Repr

/-- A regulator alert (R575): its kind by the code of 0xA012, its die (0 for the input), its reading in mV, A or °C. -/
structure RegAlert where
  kind : Nat
  die : Nat
  value : Nat
  deriving DecidableEq, Repr

structure Pwr where
  opNow : Nat := 0
  opReq : Nat := 0
  setpoint : Nat := 0
  ramping : Bool := false
  rampHeld : Bool := false
  idlePref : Nat := 0
  thermOp : Nat := 7
  capOp : Nat := 7
  capW : Nat := 3000
  throtC : Int := 105
  vin : Nat := 0
  p1 : Nat := 0
  samples : List Nat := []
  energyUj : Nat := 0
  inlet : Nat := 0
  outlet : Nat := 0
  dsel : Nat := 0
  die : Tab DieSt := []
  acting : List Forced := []
  holdoff : Option Nat := none
  released : List Forced := []
  throttleFrom : Nat := 0
  throttleTicks : Nat := 0
  alerts : List RegAlert := []
  alertSeen : List RegAlert := []
  capUnmet : Bool := false
  capUnmetFor : Nat := 0
  belowFor : Nat := 0
  capBinding : Bool := false
  thermBinding : Bool := false
  rampAt : Nat := 0
  cnt : Cnt := {}
  deriving DecidableEq, Repr

/-! ### Pins, sideband, test port (21), mailbox (20) -/

/-- The pins that power the module. `flushing` says that the flush of R383 runs, `inputCut` that the input was lost in it;
`tripAt` is the tick of a thermal trip (R586). -/
structure PinsSt where
  pwrGood : Bool := true
  pwrEn : Bool := true
  perst : Bool := false
  throttle : Bool := false
  thermTrip : Bool := false
  tripAt : Nat := 0
  modFault : Bool := false
  inputMv : Nat := 52000
  flushing : Bool := false
  inputCut : Bool := false
  coreRails : Bool := true
  perimRails : Bool := true
  deriving DecidableEq, Repr

structure Sideband where
  i3c : Bool := false
  eid : Nat := 0
  reply : List Byte := []
  deriving DecidableEq, Repr

inductive TestInstr where
  | testLogicReset | idcode | bypass
  deriving DecidableEq, Repr

/-- How far an SPDM connection has come (R637). -/
inductive SpdmState where
  | idle | versioned | capable | negotiated | session | secured
  deriving DecidableEq, Repr

/-- An SPDM connection of one transport, with the values that its last response carried and the transcript of its requests and
responses, without framing. -/
structure SpdmConn where
  st : SpdmState := .idle
  values : List Byte := []
  transcript : List Byte := []
  deriving DecidableEq, Repr

structure Met where
  held : Option MetFrame := none
  heldAt : Nat := 0
  valid : Bool := false
  tamperSeen : Bool := false
  latFrame : Nat := 0
  latTb : Nat := 0
  latPower : Nat := 0
  cntCrc : Nat := 0
  deriving DecidableEq, Repr

/-- Everything of the block but the waiting commands, host memory, the recorder and the Strongbox. -/
structure Mod where
  out : Out := {}
  phase : Phase := .boot
  phaseAt : Nat := 0
  pins : PinsSt := {}
  tb : TimeB := {}
  nv : Nv := {}
  sec : Sec := {}
  hif : Hif := {}
  fwver : Nat := 0
  autoFenced : Nat := 0
  lastAttempts : Nat := 0
  devCnt : Tab W64 := []
  deferFence : List (Nat × Nat × Nat) := []
  deferUnfence : List (Nat × Nat × Nat) := []
  fatal : Bool := false
  ids : Nat := 1
  orders : Nat := 0
  free : Nat := 0
  core : Tab CoreSt := []
  arr : Tab ArrSt := []
  res : Res := {}
  attic : Attic := {}
  cel : Cellar := {}
  images : List Image := []
  freed : List FreedImage := []
  num : Num := {}
  upd : Upd := {}
  lnk : Lnk := {}
  col : Coll := {}
  jobs : Tab Job := []
  pwr : Pwr := {}
  sb : Sideband := {}
  test : TestInstr := .testLogicReset
  testData : W32 := 0
  spdm : Tab SpdmConn := []
  met : Met := {}
  deriving DecidableEq, Repr

/-- The whole state: the queue of waiting commands, first in first out; host memory as the module sees it, by address
in rising order with no zero byte listed; the recorder; the Strongbox; the rest of the module. -/
structure State where
  pending : List Instr := []
  mem : List Host.Cell := []
  evr : Evr := {}
  sbx : Strongbox := {}
  m : Mod := {}
  deriving DecidableEq, Repr

/-- Why a step stops the machine. -/
inductive Fault where
  /-- A BAR0 or BAR2 access that breaks R14 (wrong width or not naturally aligned): the spec states an obligation of the
  user and no behaviour of the module. Raised by REGISTER_WRITE. Safe: the model stops. -/
  | brokenAccess
  deriving DecidableEq, Repr

/-- Why a command has no meaning here. -/
inductive Refusal where
  /-- The command has no meaning in the model yet. Raised by an arm of exec only. Safe: the model stops. -/
  | notModelled (mnemonic : String)
  deriving DecidableEq, Repr

/-- The module at the entry to BOOT after a power-on reset with input and MOD_PWREN present (R615, R618): every field
at the Reset column of its register table. Host memory lists nothing; no command waits. -/
def State.reset : State := {}

end Sys2Proof.Machine
end

