-- ==== Sys2Proof/Machine/Ops.lean ====
section
/-! DEFINITION. The named operations over memory, the recorder, counters, queues and the parts of the state, which the
meanings are written with. -/
namespace Sys2Proof.Machine

/-! ### Host memory -/

/-- An unlisted byte of host memory reads 0 (log entry 2). -/
def Memory.read (mem : List Host.Cell) (a : Nat) : Byte := Tab.get 0 mem a

/-- `n` bytes from address `a`, little-endian. -/
def Memory.readN (mem : List Host.Cell) (a n : Nat) : Nat :=
  ofBytes ((List.range n).map fun i => Memory.read mem (a + i))

def Memory.write (mem : List Host.Cell) (a : Nat) (b : Byte) : List Host.Cell := Tab.set 0 mem a b

def Memory.writeMany (mem : List Host.Cell) (a : Nat) (bs : List Byte) : List Host.Cell := Tab.setMany 0 mem a bs

/-- The canonical form: addresses strictly rising from `lo`, no byte 0 listed. -/
def Memory.wfFrom : Nat → List Host.Cell → Bool
  | _, [] => true
  | lo, (a, b) :: t => decide (lo ≤ a) && (b != 0) && Memory.wfFrom (a + 1) t

def Memory.wf (mem : List Host.Cell) : Bool := Memory.wfFrom 0 mem

/-! ### Time base -/

/-- The time base in ticks (R450). -/
def Mod.now (m : Mod) : Nat := m.tb.nanoTicks / 1000000000

/-- The fraction of a stamp, in 1/256 ns. -/
def Mod.frac (m : Mod) : Nat := (m.tb.nanoTicks % 1000000000) * 256 / 1000000000

/-! ### Events -/

/-- Emits an event: payload fields as (byte offset, bytes, value) (R643). -/
def Mod.ev (m : Mod) (code sev : Nat) (fs : List (Nat × Nat × Nat)) : Mod :=
  let uj := m.tb.state = .free ∨ m.tb.state = .holdover
  let mode := if m.fatal then 2 else if m.phase = .boot ∨ m.phase = .off then 1 else 0
  { m with out := { m.out with events := m.out.events ++
      [{ code := code, sev := sev, payload := pack fs, time := m.now, unjoined := uj, mode := mode }] } }

/-- A record is written to the preserved area (R647). -/
def Rec.preserved (r : Rec) : Bool :=
  (decide (2 ≤ r.sev) || decide (0xB000 ≤ r.code ∧ r.code ≤ 0xBFFF) || r.code == 0xE002) && !r.late

def Evr.preserve (e : Evr) (r : Rec) : Evr :=
  { e with
    pres := (e.pres ++ [{ r with index := e.presNext }]).drop (e.pres.length + 1 - 1024)
    presNext := e.presNext + 1 }

/-- A record takes the next INDEX of the ring; a full ring loses its lowest INDEX (R646). -/
def Evr.append (e : Evr) (r : Rec) : Evr :=
  let r := { r with index := e.next }
  let e := { e with
    ring := (e.ring ++ [r]).drop (e.ring.length + 1 - 65536)
    next := e.next + 1
    cntRecords := e.cntRecords + 1
    cntOver := e.cntOver + (if 65536 ≤ e.ring.length then 1 else 0) }
  if r.preserved then e.preserve r else e

/-- A record waits in staging; one that finds staging full is discarded (R645). -/
def Evr.keep (e : Evr) (r : Rec) : Evr :=
  if 1024 ≤ e.staging.length then
    { e with stgOvf := true, cntLost := e.cntLost + 1, lostInFreeze := e.lostInFreeze + 1 }
  else { e with staging := e.staging ++ [r] }

/-- A record enters staging; outside a freeze it moves into the ring at once (R645). -/
def Evr.stage (e : Evr) (r : Rec) : Evr := if e.frozenAt.isNone then e.append r else e.keep r

def Evr.mk' (e : Evr) (code sev payload time : Nat) (unjoined : Bool) : Rec :=
  { code := code, sev := sev, late := false, unjoined := unjoined, pcycles := e.pcycles, opsec := e.opsec, index := 0,
    time := time, payload := payload }

/-- Closes the current rate window: one SUPPRESSED record for each code that had suppressed occurrences (R649). -/
def Evr.closeWindow (e : Evr) (time : Nat) (unjoined : Bool) : Evr :=
  let e' := e.win.foldl (fun e kw =>
    if kw.2.supp = 0 then e else
      e.stage (e.mk' 0xE010 0 (pack [(0, 2, kw.1), (2, 4, kw.2.supp), (6, 4, 10 * e.winNo), (10, 8, kw.2.first),
        (18, 8, kw.2.last)]) time unjoined)) e
  { e' with win := [], winNo := e.opsec / 10 }

/-- Window w is [10w, 10w + 10) of operating seconds (R648). -/
def Evr.roll (e : Evr) (time : Nat) (unjoined : Bool) : Evr :=
  if e.winNo < e.opsec / 10 then e.closeWindow time unjoined else e

/-- Codes never suppressed (R649). -/
def exempt (code sev : Nat) : Bool := decide (2 ≤ sev) || decide (0xE001 ≤ code ∧ code ≤ 0xE010)

def Evr.record (e : Evr) (v : Ev) : Evr :=
  let r := e.mk' v.code v.sev v.payload v.time v.unjoined
  if v.mode = 1 then { e with heldBoot := e.heldBoot ++ [r] }
  else if v.mode = 2 then e.keep r
  else
    let e := e.roll v.time v.unjoined
    if exempt v.code v.sev then e.stage r
    else
      let w := Tab.get {} e.win v.code
      if w.n < 8 then { e with win := Tab.put e.win v.code { w with n := w.n + 1 } }.stage r
      else { e with
        cntSupp := e.cntSupp + 1
        win := Tab.put e.win v.code { w with supp := w.supp + 1, first := if w.supp = 0 then v.time else w.first, last := v.time } }

/-! ### Asynchronous causes (R540) -/

/-- A cause sets its bit of HIF_ASYNC and, where the bit was clear and the mask names it, signals the vector. -/
def Mod.async (m : Mod) (b : Nat) : Mod :=
  if bit m.hif.async.toNat b then m else
    { m with hif := { m.hif with
        async := m.hif.async ||| BitVec.ofNat 6 (2 ^ b)
        msix := if bit m.hif.asyncMask b then m.hif.asyncVec :: m.hif.msix else m.hif.msix } }

/-- Writes bytes to host memory. -/
def Mod.hostWrite (m : Mod) (a : Nat) (bs : List Byte) : Mod :=
  { m with out := { m.out with writes := m.out.writes ++ [{ addr := a, bytes := bs }] } }

/-! ### Counters (Table 2.16) -/

def Cnt.add (c : Cnt) (off n : Nat) : Cnt :=
  if c.freeze then c else { c with c := Tab.upd 0 c.c off (fun v => v + BitVec.ofNat 64 n) }

def Cnt.get (c : Cnt) (off : Nat) : Nat := (Tab.get 0 c.c off).toNat

/-- A write of CNT_CTRL: CLEAR zeroes every counter in one instant; FREEZE is kept (Table 2.14). -/
def Cnt.ctrl (c : Cnt) (clear freeze : Bool) : Cnt := { freeze := freeze, c := if clear then [] else c.c }

/-! ### Parts by number -/

def Mod.core! (m : Mod) (c : Nat) : CoreSt := Tab.get {} m.core c
def Mod.setCore (m : Mod) (c : Nat) (x : CoreSt) : Mod := { m with core := Tab.set {} m.core c x }
def Mod.onCore (m : Mod) (c : Nat) (f : CoreSt → CoreSt) : Mod := m.setCore c (f (m.core! c))
def Mod.arr! (m : Mod) (c a : Nat) : ArrSt := Tab.get {} m.arr (2 * c + a)
def Mod.setArr (m : Mod) (c a : Nat) (x : ArrSt) : Mod := { m with arr := Tab.set {} m.arr (2 * c + a) x }
def Mod.onArr (m : Mod) (c a : Nat) (f : ArrSt → ArrSt) : Mod := m.setArr c a (f (m.arr! c a))
def Mod.port! (m : Mod) (p : Nat) : PortSt := Tab.get {} m.lnk.ports p
def Mod.setPort (m : Mod) (p : Nat) (x : PortSt) : Mod := { m with lnk := { m.lnk with ports := Tab.set {} m.lnk.ports p x } }
def Mod.onPort (m : Mod) (p : Nat) (f : PortSt → PortSt) : Mod := m.setPort p (f (m.port! p))
def Mod.stack! (m : Mod) (i : Nat) : StackSt := Tab.get {} m.cel.st i
def Mod.onStack (m : Mod) (i : Nat) (f : StackSt → StackSt) : Mod :=
  { m with cel := { m.cel with st := Tab.upd {} m.cel.st i f } }
def Mod.q! (m : Mod) (q : Nat) : Qp := Tab.get {} m.hif.q q
def Mod.onQ (m : Mod) (q : Nat) (f : Qp → Qp) : Mod := { m with hif := { m.hif with q := Tab.upd {} m.hif.q q f } }
def Mod.layer! (m : Mod) (l : Nat) : Layer := Tab.get {} m.upd.layers l
/-- The job of a schedule: the one it is bound to, or the one a waiting SCHED_SET binds it to (R551). -/
def Sched.owner (x : Sched) : Nat := if x.job ≠ 0 then x.job else match x.pend with | some p => p.2.2.2 | none => 0
/-- The job of a layer entry: the one it is bound to, or the one a LAYER_SET binds it to when that job's step ends (R551). -/
def Layer.owner (y : Layer) : Nat := if y.job ≠ 0 then y.job else y.pendJob
def Mod.onLayer (m : Mod) (l : Nat) (f : Layer → Layer) : Mod :=
  { m with upd := { m.upd with layers := Tab.upd {} m.upd.layers l f } }
def Mod.unit! (m : Mod) (u : Nat) : UnitSt := Tab.get {} m.upd.units u
def Mod.onUnit (m : Mod) (u : Nat) (f : UnitSt → UnitSt) : Mod :=
  { m with upd := { m.upd with units := Tab.upd {} m.upd.units u f } }
def Mod.die! (m : Mod) (d : Nat) : DieSt := Tab.get {} m.pwr.die d
def Mod.onDie (m : Mod) (d : Nat) (f : DieSt → DieSt) : Mod := { m with pwr := { m.pwr with die := Tab.upd {} m.pwr.die d f } }
def Mod.job? (m : Mod) (j : Nat) : Option Job := Tab.find m.jobs j
def Mod.onJob (m : Mod) (j : Nat) (f : Job → Job) : Mod :=
  match m.job? j with
  | none => m
  | some x => { m with jobs := Tab.put m.jobs j (f x) }
def Mod.run? (m : Mod) (j : Nat) : Option Run := (m.job? j).bind (·.run)
def Mod.onRun (m : Mod) (j : Nat) (f : Run → Run) : Mod := m.onJob j fun x => { x with run := x.run.map f }
def Mod.stepOf (m : Mod) (j : Nat) : Nat := match m.job? j with | some x => x.step | none => 0
def Mod.attemptOf (m : Mod) (j : Nat) : Nat := match m.run? j with | some r => r.attempt | none => 1
def Mod.resCnt (m : Mod) (off n : Nat) : Mod := { m with res := { m.res with cnt := m.res.cnt.add off n } }
def Mod.atcCnt (m : Mod) (off n : Nat) : Mod := { m with attic := { m.attic with cnt := m.attic.cnt.add off n } }
def Mod.lnkCnt (m : Mod) (off n : Nat) : Mod := { m with lnk := { m.lnk with cnt := m.lnk.cnt.add off n } }
def Mod.colCnt (m : Mod) (off n : Nat) : Mod := { m with col := { m.col with cnt := m.col.cnt.add off n } }
def Mod.pwrCnt (m : Mod) (off n : Nat) : Mod := { m with pwr := { m.pwr with cnt := m.pwr.cnt.add off n } }
def Mod.synCnt (m : Mod) (c off n : Nat) : Mod := m.onCore c fun x => { x with synCnt := x.synCnt.add off n }
def Mod.vecCnt (m : Mod) (c off n : Nat) : Mod := m.onCore c fun x => { x with vecCnt := x.vecCnt.add off n }
def Mod.panCnt (m : Mod) (c off n : Nat) : Mod := m.onCore c fun x => { x with pan := { x.pan with cnt := x.pan.cnt.add off n } }
def Mod.arrCnt (m : Mod) (c a off n : Nat) : Mod := m.onArr c a fun x => { x with cnt := x.cnt.add off n }
def Mod.portCnt (m : Mod) (p off n : Nat) : Mod :=
  if m.lnk.cnt.freeze then m else m.onPort p fun x => { x with c := Tab.upd 0 x.c off (· + BitVec.ofNat 64 n) }
def Mod.stackCnt (m : Mod) (i off n : Nat) : Mod :=
  if m.cel.freeze then m else m.onStack i fun x => { x with c := Tab.upd 0 x.c off (· + BitVec.ofNat 64 n) }
/-- Bytes that a traffic class moves at a stack (Table 9.14); each 64-byte sector of them spends 64 bytes of tokens of its
bucket while it has any (R304). -/
def Mod.stackBytes (m : Mod) (i cls n : Nat) : Mod :=
  (m.stackCnt i (0x300 + 8 * cls) n).onStack i fun x =>
    { x with tokens := x.tokens.set cls (x.tokens.getD cls 0 - 5 * (64 * ((n + 63) / 64))) }
/-- Firmware traffic of a reserved area (R295, Table 9.2): of which stack is not stated, so a free one (log entry 69). -/
def Mod.reservedTraffic (m : Mod) (cls n : Nat) : Mod :=
  { m with free := m.free + 1 }.stackBytes ((Config.freeValue m.free).toNat % 32) cls n
/-- An access to object metadata in the reserved area (Table 9.2); how many bytes the firmware moves is not stated, so a free
number (log entry 69). -/
def Mod.metaTraffic (m : Mod) : Mod :=
  { m with free := m.free + 1 }.reservedTraffic 3 (Config.freeValue m.free).toNat
def Mod.unitCnt (m : Mod) (u off n : Nat) : Mod :=
  if m.upd.freeze then m else m.onUnit u fun x => { x with c := Tab.upd 0 x.c off (· + BitVec.ofNat 64 n) }
def Mod.devCount (m : Mod) (off : Nat) : Mod := { m with devCnt := Tab.upd 0 m.devCnt off (· + 1) }

/-- The cores in order. -/
def cores : List Nat := [0, 1, 2, 3]

/-- The number of fenced cores and DEGRADED (R620). -/
def Mod.fencedMask (m : Mod) : Nat := cores.foldl (fun a c => a + if (m.core! c).fenced then 2 ^ c else 0) 0
def Mod.stackOut (m : Mod) : Bool := m.cel.st.any fun p => p.2.out
def Mod.degradedCond (m : Mod) : Bool :=
  decide (m.fencedMask ≠ 0) || !m.nv.exhausted.isEmpty || m.stackOut || m.attic.readOnly || m.sec.recordsBad ||
    m.sec.reformatted || m.sec.fallback || m.sec.opkWasBad

/-- DEV_STATE codes (Table 15.20): 0 stands for OFF. -/
def Phase.code : Phase → Nat
  | .off => 0 | .boot => 1 | .memInit => 2 | .linkInit => 3 | .ready => 4 | .degraded => 5 | .failed => 6

/-- Debug is unlocked until the end of its interval (R639, R640). -/
def Mod.dbgOpen (m : Mod) : Bool := m.now < m.sec.dbgEnd

/-- DEV_STATE (Table 15.20). -/
def Mod.devState (m : Mod) : Nat :=
  m.phase.code + m.fencedMask * 2 ^ 8 + b2n (!m.nv.exhausted.isEmpty) * 2 ^ 12 + b2n m.stackOut * 2 ^ 13 +
    b2n m.attic.readOnly * 2 ^ 14 + b2n m.dbgOpen * 2 ^ 15

/-- Changes DEV_STATE.STATE: event 0xB060 (Table 18.13). -/
def Mod.setPhase (m : Mod) (p : Phase) : Mod :=
  if m.phase = p then m else
    let old := m.phase
    { m with phase := p, phaseAt := m.now }.ev 0xB060 0 [(0, 1, old.code), (1, 1, p.code)]

/-- READY and DEGRADED follow the conditions of R620. -/
def Mod.refreshPhase (m : Mod) : Mod :=
  match m.phase with
  | .ready => if m.degradedCond then m.setPhase .degraded else m
  | .degraded => if m.degradedCond then m else m.setPhase .ready
  | _ => m

/-- The module serves commands (R618). -/
def Mod.serving (m : Mod) : Bool := m.phase = .ready || m.phase = .degraded
/-- Nimig runs (MEM_INIT onward, not FAILED). -/
def Mod.alive (m : Mod) : Bool := m.phase = .memInit || m.phase = .linkInit || m.serving

/-- The host's accesses to the BARs reach the module. -/
def Mod.reachable (m : Mod) : Bool := m.hif.linkUp && m.phase ≠ .off

/-! ### The end of a row -/

/-- The die of an event (R645): the die of the core, unit, stack, port or die that its payload names (its code's table says
in which byte), else die 0 (log entry 33, DEDUCED). -/
def evDie (code payload : Nat) : Nat :=
  let b := fun (i : Nat) => byf payload i 1
  if code = 0x2001 then b 2
  else if code = 0xD030 then b 1
  else if (0x1001 ≤ code ∧ code ≤ 0x1210) ∨ code / 256 = 0x48 ∨ ([0x6001, 0x6010, 0x6030, 0xD001, 0xD002, 0xD110] : List Nat).contains code ∨
      code / 256 = 0xA0 then b 0
  else if (0x3030 ≤ code ∧ code ≤ 0x3040) ∨ code / 256 = 0x40 then b 0 / 8
  else if (0x7001 ≤ code ∧ code ≤ 0x7012 ∧ code ≠ 0x7011) ∨ (0x8010 ≤ code ∧ code ≤ 0x8012) ∨ code = 0x8040 then b 0 / 16
  else 0

/-- Records of one tick enter staging in order of die, then of CODE (R645). -/
def Ev.before (a b : Ev) : Bool :=
  let x := evDie a.code a.payload
  let y := evDie b.code b.payload
  decide (x < y ∨ (x = y ∧ a.code ≤ b.code))
def insEv (a : Ev) : List Ev → List Ev
  | [] => [a]
  | b :: t => if a.before b then a :: b :: t else b :: insEv a t
def sortEv (l : List Ev) : List Ev := l.foldr insEv []

/-- The bytes that the event ring and staging move between two states of the recorder: 64 for each record that enters staging,
and for each that moves into the ring a read of 64 and a write of 64 (Table 9.2; log entry 69). -/
def Evr.moved (a b : Evr) : Nat :=
  64 * (b.staging.length + b.cntRecords - (a.staging.length + a.cntRecords)) + 128 * (b.cntRecords - a.cntRecords)
/-- They are residency traffic of the reserved area. -/
def Mod.evrTraffic (m : Mod) (a b : Evr) : Mod :=
  if a.moved b = 0 then m else m.reservedTraffic 3 (a.moved b)

/-- What a row emitted goes to host memory and the recorder, in the one place. -/
def State.commit (s : State) (m : Mod) : State :=
  let evr := (sortEv m.out.events).foldl Evr.record s.evr
  let mem := m.out.writes.foldl (fun mem w => Memory.writeMany mem w.addr w.bytes) s.mem
  let m' := { m with out := {} }.evrTraffic s.evr evr
  let m' := if m.out.events.any (fun v => v.sev == 2) then m'.async 0 else m'
  let m' := if s.m.devState ≠ m'.devState then m'.async 1 else m'
  let m' := if s.evr.cntLost < evr.cntLost then m'.async 4 else m'
  { s with mem := mem, evr := evr, m := m' }

/-- A meaning that changes the module. -/
def run (f : Mod → Mod) (s : State) : Host.Outcome State Fault Refusal := .next (s.commit (f s.m))

/-- A meaning that also changes the recorder; what it emits is recorded after that. -/
def runE (f : Evr → Mod → Mod × Evr) (s : State) : Host.Outcome State Fault Refusal :=
  let r := f s.evr s.m
  let m := (if s.evr.cntLost < r.2.cntLost then r.1.async 4 else r.1).evrTraffic s.evr r.2
  .next ({ s with evr := r.2 }.commit m)

/-- A meaning that also reads host memory. -/
def runH (f : List Host.Cell → Mod → Mod) (s : State) : Host.Outcome State Fault Refusal := .next (s.commit (f s.mem s.m))

/-! ### Image slots and operator keys (R623 to R632) -/

def Nv.slot (n : Nv) (b : Bool) : FwSlot := if b then n.slotB else n.slotA
/-- The slot's image is valid: its SVN is at least the floor of this start (R624). -/
def Nv.slotOk (n : Nv) (b : Bool) : Bool := (n.slot b).valid && decide (n.floor ≤ (n.slot b).svn)
def Nv.setSlot (n : Nv) (b : Bool) (f : FwSlot → FwSlot) : Nv := if b then { n with slotB := f n.slotB } else { n with slotA := f n.slotA }
def Nv.slotIs (n : Nv) (st : SlotState) : Option Bool := if n.slotA.st = st then some false else if n.slotB.st = st then some true else none
def FwSlot.unmark (f : FwSlot) : FwSlot := { f with st := if f.valid then .inactive else .empty }

/-- The programmed operator key slots, bit k for slot k. -/
def Nv.opkProg (n : Nv) : Nat := ([0, 1, 2, 3] : List Nat).foldl (fun a k => a + if (Tab.find n.opkHash k).isSome then 2 ^ k else 0) 0
/-- The active operator key's slot: the highest programmed (R630). -/
def Mod.opkActive (m : Mod) : Option Nat := ([3, 2, 1, 0] : List Nat).find? fun k => (Tab.find m.nv.opkHash k).isSome

/-- A trial start runs: a slot marked PENDING boots, or in BOOT will boot (R623, R628). -/
def Mod.onTrial (m : Mod) : Bool :=
  m.sec.trial || (m.phase = .boot && !m.sec.recovery && match m.nv.slotIs .pending with | some b => m.nv.slotOk b | none => false)

/-- A trial fails (R628): event 0xB003; `why` 1 invalid, 2 limit, 3 fatal. -/
def Mod.trialFails (m : Mod) (phase why : Nat) : Mod :=
  match m.nv.slotIs .pending with
  | none => m
  | some b =>
    let f := m.nv.slot b
    { m with
      nv := { m.nv.setSlot b FwSlot.unmark with trialFailed := true }
      sec := { m.sec with trialFailed := true, trial := false } }.ev 0xB003 0
        [(0, 1, b2n b), (1, 4, f.version), (5, 1, phase), (6, 1, why)]

/-! ### Fatal failure (R608) -/

/-- Steps 2 to 5 of R608: the lanes dark, the PCI Express link dropped with commands in flight getting no completion,
MOD_FAULT# asserted, FAILED; then the flush of R383. No command that waits, and no step, goes on. -/
def Mod.goFailed (m : Mod) : Mod :=
    let m := { m with
      jobs := m.jobs.map fun (p : Nat × Job) => (p.1, { p.2 with run := none, ckpt := none, snap := none, closing := none })
      tb := { m.tb with joins := [] }
      deferFence := []
      deferUnfence := []
      lnk := { m.lnk with dark := true, helloQ := none, ports := m.lnk.ports.map fun (p : Nat × PortSt) => (p.1, { p.2 with link := .down, used := [] }) }
      hif := { m.hif with linkUp := false, q := m.hif.q.map fun (p : Nat × Qp) => (p.1, { p.2 with cmd := none, en := false }) }
      pins := { m.pins with modFault := true, flushing := true }
      nv := { m.nv with flushDue := true, flushOk := false, flushBytes := m.attic.buf }
      attic := { m.attic with accepting := false } }
    m.setPhase .failed

/-- A fatal cause (Table 17.3): its record in staging, then the steps; one during a trial start fails the trial, and the module
restarts from BOOT when the flush is done (R628; log entry 89). -/
def Mod.fatalFail (m : Mod) (cause die : Nat) : Mod :=
  if m.fatal then m else
    let trial := m.onTrial
    let m := { m with fatal := true, nv := { m.nv with lastFatal := cause } }.ev 0xD030 3 [(0, 1, cause), (1, 1, die), (2, 8, m.now)]
    let m := if trial then (let t := m.trialFails m.phase.code 3; { t with sec := { t.sec with restart := true } }) else m
    m.goFailed

/-! ### Completions (R533, R538, R545) -/

/-- The command of a queue is a STEP_RUN. -/
def Qp.runsStep (p : Qp) : Bool := match p.cmd with | some c => byf c.pkt.toNat 0 1 = 0x21 | none => false

/-- A command's reply: the entry goes into the next completion slot, PHASE inverts at each wrap, the vector signals as
COAL_COUNT says, and at once for a STEP_RUN, however it completes. Queue 64 stands for a command whose reply an FLR has dropped
(R617). -/
def Mod.reply (m : Mod) (q cmdId status : Nat) (detail : Nat := 0) (result : List (Nat × Nat × Nat) := [])
    (flags : Nat := 0) : Mod :=
  if 64 ≤ q then m else
  let p := m.q! q
  let entry := pack ([(0, 4, cmdId), (4, 2, status), (6, 1, q + (if p.phase then 128 else 0)), (8, 2, p.sqHead),
    (10, 2, flags), (12, 4, detail)] ++ result)
  let m := m.hostWrite (p.cqBase + 32 * p.cqTail) (leBytes 32 entry)
  let wrap := p.cqTail = p.size
  let unsig := p.unsig + 1
  let sig := p.runsStep ∨ p.coalCount = 0 ∨ p.coalCount ≤ unsig
  let m := m.onQ q fun p => { p with
    cqTail := if wrap then 0 else p.cqTail + 1
    phase := if wrap then !p.phase else p.phase
    cmd := none
    en := p.en && !p.stopping
    stopping := false
    unsig := if sig then 0 else unsig
    unsigFrom := if p.unsig = 0 then m.now else p.unsigFrom }
  if sig then { m with hif := { m.hif with msix := p.vector :: m.hif.msix } } else m

/-- The reply of a command that waited; none where an FLR came between (R617). -/
def Mod.replyLate (m : Mod) (q cmdId status : Nat) : Mod := m.reply q cmdId status

end Sys2Proof.Machine
end

