-- ==== Sys2Proof/Machine/Objects.lean ====
section
/-! DEFINITION. Objects, handles, tiles and elements (R335 to R342), and reading and writing them as values. Objects are
kept under their handle: an object freed while pins are held on it stays under its stale handle until they are released. -/
namespace Sys2Proof.Machine

/-! ### Handles (R336) -/

def handleIdx (h : Nat) : Nat := h % 65536
def handleGen (h : Nat) : Nat := h / 65536 % 65536
/-- An index's current generation; the first is 1. -/
def Mod.genOf (m : Mod) (i : Nat) : Nat := Tab.get 1 m.res.gen i
def handleOf (i g : Nat) : Nat := i + 65536 * g
/-- The current handle of an index. -/
def Mod.handle (m : Mod) (i : Nat) : Nat := handleOf i (m.genOf i)
/-- The live object that a handle names: not null, not stale (R336). -/
def Mod.obj? (m : Mod) (h : Nat) : Option Obj :=
  if handleIdx h = 0 ∨ handleGen h ≠ m.genOf (handleIdx h) then none else Tab.find m.res.objs h
/-- The object under a handle, live or freed with pins held. -/
def Mod.objAny (m : Mod) (h : Nat) : Option Obj := Tab.find m.res.objs h
def Mod.onObj (m : Mod) (h : Nat) (f : Obj → Obj) : Mod :=
  match Tab.find m.res.objs h with
  | none => m
  | some o => { m with res := { m.res with objs := Tab.put m.res.objs h (f o) } }
/-- A live object of a job. -/
def Mod.objOfJob (m : Mod) (h j : Nat) : Option Obj := (m.obj? h).filter fun o => o.job = j

/-! ### Shapes (R340, Table 10.1) -/

def tileWidth (fmt : Nat) : Nat :=
  match fmt with
  | 0 => 256 | 1 => 512 | 2 => 512 | 9 => 128 | 10 => 128 | 11 => 64 | _ => 1024
def cdiv (a b : Nat) : Nat := (a + b - 1) / b
def Obj.tileCols (o : Obj) : Nat := cdiv o.cols (tileWidth o.fmt)
def Obj.tiles (o : Obj) : Nat := cdiv o.rows 1024 * o.tileCols
def Obj.tileOf (o : Obj) (r c : Nat) : Nat := r / 1024 * o.tileCols + c / tileWidth o.fmt
/-- The tiles that hold elements l to l + n − 1 of an object. -/
def Obj.tilesFrom (o : Obj) (l n : Nat) : List Nat :=
  ((List.range n).map fun i => o.tileOf ((l + i) / o.cols) ((l + i) % o.cols)).eraseDups
/-- The tiles of a list of linear elements l to l + n − 1, as far as the object has them. -/
def Obj.tilesLin (o : Obj) (l n : Nat) : List Nat :=
  let hi := min (l + n) (o.rows * o.cols)
  if hi ≤ l then [] else
    let r0 := l / o.cols
    let r1 := (hi - 1) / o.cols
    let w := tileWidth o.fmt
    let span := fun (i c0 c1 : Nat) => ((List.range (c1 / w + 1 - c0 / w)).map (· + c0 / w)).map fun j => i * o.tileCols + j
    if r0 = r1 then span (r0 / 1024) (l % o.cols) ((hi - 1) % o.cols)
    else
      (span (r0 / 1024) (l % o.cols) (o.cols - 1) ++
        ((List.range (r1 / 1024 + 1 - r0 / 1024)).map (· + r0 / 1024)).flatMap (fun i =>
          if 1024 * i < r1 ∧ r0 + 1 < min r1 (1024 * i + 1024) then span i 0 (o.cols - 1) else []) ++
        span (r1 / 1024) 0 ((hi - 1) % o.cols)).eraseDups
/-- The first row and column of a tile. -/
def Obj.tileAt (o : Obj) (t : Nat) : Nat × Nat := (t / o.tileCols * 1024, t % o.tileCols * tileWidth o.fmt)
def Obj.lin (o : Obj) (r c : Nat) : Nat := r * o.cols + c
def Obj.fp8 (o : Obj) : Bool := fmtFp8 o.fmt
def Obj.blockScaled (o : Obj) : Bool := fmtBlock o.fmt
/-- The tiles that hold rows r0 to r1−1, columns c0 to c1−1. -/
def Obj.tilesIn (o : Obj) (r0 r1 c0 c1 : Nat) : List Nat :=
  if r1 ≤ r0 ∨ c1 ≤ c0 then [] else
    let w := tileWidth o.fmt
    ((List.range ((r1 - 1) / 1024 + 1 - r0 / 1024)).map (· + r0 / 1024)).flatMap fun i =>
      ((List.range ((c1 - 1) / w + 1 - c0 / w)).map (· + c0 / w)).map fun j => i * o.tileCols + j
def Obj.allTiles (o : Obj) : List Nat := List.range o.tiles

/-! ### Elements and scales -/

/-- The element code at (r, c); outside the object +0 (R340). -/
def Obj.code (o : Obj) (r c : Nat) : Nat := if r < o.rows ∧ c < o.cols then Tab.get 0 o.elems (o.lin r c) else 0
/-- The key of the block scale code that covers (r, c) (R342): by 32 columns (axis 0) or 32 rows (axis 1). -/
def Obj.blockKey (o : Obj) (r c : Nat) : Nat :=
  if o.axis = 0 then r * cdiv o.cols 32 + c / 32 else r / 32 * o.cols + c
/-- The first element that the block scale code of a key covers. -/
def Obj.blockAt (o : Obj) (k : Nat) : Nat × Nat :=
  if o.axis = 0 then (k / cdiv o.cols 32, k % cdiv o.cols 32 * 32) else (k / o.cols * 32, k % o.cols)
/-- The elements of a run from l at which a block scale code of the column axis begins to cover the run. -/
def Obj.blockStarts (o : Obj) (l n : Nat) : List Nat :=
  if o.blockScaled then (List.range n).filterMap fun i =>
    if i = 0 ∨ (l + i) % o.cols % 32 = 0 then some (l + i) else none
  else []
def Obj.blockCode (o : Obj) (r c : Nat) : Nat := Tab.get 0x7F o.codes (o.blockKey r c)
def Obj.tileScale (o : Obj) (t : Nat) : Nat := Tab.get 0x3F800000 o.tscale t

/-- The code value of the element at (r, c), no scale applied. -/
def Obj.bare (o : Obj) (r c : Nat) : Val := elemVal o.fmt (o.code r c)
/-- What the element at (r, c) stands for, with its tile or block scale (R135, R138). -/
def Obj.value (o : Obj) (r c : Nat) : Val :=
  if o.blockScaled then
    if r < o.rows ∧ c < o.cols then
      match blockFactor (o.blockCode r c) with
      | none => .nan
      | some f => (o.bare r c).scale f
    else .pos0
  else if o.fp8 then (o.bare r c).scale (f32 (o.tileScale (o.tileOf r c))).fr
  else o.bare r c

/-- The sector (64 bytes) of a tile that holds bit `b` of a row: row r of the tile starts at byte 1,024 r (R341). -/
def sectorAt (row bits : Nat) : Nat := row % 1024 * 16 + bits / 512
/-- Poisoned sectors of an object are listed by tile × 16,384 + sector. -/
def Obj.poisoned (o : Obj) (t sec : Nat) : Bool := o.poison.contains (t * 16384 + sec)
/-- A sector of a tile is poisoned in the copy that stands at a home: an image's copies each have their own (R371). -/
def Obj.poisonedIn (o : Obj) (home t sec : Nat) : Bool := if o.image then o.copies.contains (home, t * 16384 + sec) else o.poisoned t sec
/-- The poisoned sectors of an object, of an image in the copy of each tile that a read takes. -/
def Obj.poisonHere (o : Obj) (home : Nat → Option Nat) : List Nat :=
  if o.image then (o.copies.filter fun x => home (x.2 / 16384) = some x.1).map fun x => x.2 else o.poison
/-- The element at (r, c) lies in a poisoned sector. -/
def Obj.poisonedAt (o : Obj) (r c : Nat) : Bool :=
  !o.poison.isEmpty &&
    (let b := (c % tileWidth o.fmt) * fmtBits o.fmt
     let t := o.tileOf r c
     o.poisoned t (sectorAt r b) || o.poisoned t (sectorAt r (b + fmtBits o.fmt - 1)))

/-- Bytes of elements in a full tile row (column E of Table 10.1). -/
def tileRowBytes (fmt : Nat) : Nat := match fmt with | 5 => 768 | 6 => 768 | 7 => 512 | _ => 1024

/-- The row and the columns (first, and one past the last) whose elements a descriptor writes when it fills a sector of a
tile: those that the sector holds, or for the sector of a row's scale codes those of the whole tile row. Empty where no
element write fills the sector: it lies beyond the object's elements, or it holds codes of the row axis. -/
def Obj.sectorCols (o : Obj) (p : Nat) : Nat × Nat × Nat :=
  let b := fmtBits o.fmt
  let at0 := o.tileAt (p / 16384)
  let sec := p % 16384
  let last := min (at0.2 + tileWidth o.fmt) o.cols
  let x := sec % 16 * 64
  if x < tileRowBytes o.fmt then
    (at0.1 + sec / 16, at0.2 + sec % 16 * 512 / b, min last (at0.2 + ((sec % 16 + 1) * 512 + b - 1) / b))
  else if x = tileRowBytes o.fmt ∧ o.axis = 0 then (at0.1 + sec / 16, at0.2, last)
  else (at0.1 + sec / 16, 0, 0)

/-- Writing columns c0 to c1−1 of a row clears the poison of every sector that it fills (R314). -/
def Obj.clearPoison (o : Obj) (r c0 c1 : Nat) : Obj :=
  if o.poison.isEmpty then o else
    { o with poison := o.poison.filter fun p =>
        let x := o.sectorCols p
        !(x.1 = r ∧ x.2.1 < x.2.2 ∧ c0 ≤ x.2.1 ∧ x.2.2 ≤ c1) }

/-- The same for the elements of a list of linear indices, written by one descriptor. -/
def Obj.clearPoisonAt (o : Obj) (lins : List Nat) : Obj :=
  if o.poison.isEmpty then o else
    { o with poison := o.poison.filter fun p =>
        let x := o.sectorCols p
        !(decide (x.2.1 < x.2.2) && (List.range (x.2.2 - x.2.1)).all fun i => lins.contains (x.1 * o.cols + x.2.1 + i)) }

/-- Writes element codes from (r, c) on along the row; codes outside the object are not written (R340). -/
def Obj.writeRow (o : Obj) (r c : Nat) (ws : List Nat) : Obj :=
  if r < o.rows then
    let ws := ws.take (o.cols - c)
    { o with elems := Tab.setMany 0 o.elems (o.lin r c) ws }.clearPoison r c (c + ws.length)
  else o
def Obj.writeAt (o : Obj) (r c w : Nat) : Obj := o.writeRow r c [w]
def Obj.setBlockCode (o : Obj) (r c w : Nat) : Obj := { o with codes := Tab.set 0x7F o.codes (o.blockKey r c) w }
def Obj.setTileScale (o : Obj) (t w : Nat) : Obj := { o with tscale := Tab.set 0x3F800000 o.tscale t w }

/-! ### Tiles as bytes (R341, R342) -/

/-- The scale code byte i of tile row r of a tile; zero where its block lies outside the object. -/
def Obj.codeByte (o : Obj) (t r i : Nat) : Nat :=
  let a := o.tileAt t
  let rc := if o.axis = 0 then (a.1 + r, a.2 + 32 * i) else (a.1 + r / 32 * 32, a.2 + 32 * (r % 32) + i)
  if rc.1 < o.rows ∧ rc.2 < o.cols then o.blockCode rc.1 rc.2 else 0

/-- The 1,024 bytes of a tile row, as a number. -/
def Obj.rowBits (o : Obj) (t r : Nat) : Nat :=
  let a := o.tileAt t
  let b := fmtBits o.fmt
  let els := (List.range (tileWidth o.fmt)).foldr (fun j acc => acc * 2 ^ b + o.code (a.1 + r) (a.2 + j)) 0
  if o.blockScaled then
    els + (List.range 32).foldr (fun i acc => acc * 256 + o.codeByte t r i) 0 * 2 ^ (8 * tileRowBytes o.fmt)
  else els

/-- The element fields that 1,024 bytes of a tile row hold. -/
def splitBits (b n w : Nat) : List Nat := (List.range n).map fun j => fld w (b * j) b

/-- Takes a tile row from its 1,024 bytes; nothing outside the object is written. -/
def Obj.setRowBits (o : Obj) (t r w : Nat) : Obj :=
  let a := o.tileAt t
  let o1 := o.writeRow (a.1 + r) a.2 (splitBits (fmtBits o.fmt) (min (tileWidth o.fmt) (o.cols - a.2)) w)
  if o.blockScaled then
    (List.range 32).foldl (fun o i =>
      let rc := if o.axis = 0 then (a.1 + r, a.2 + 32 * i) else (a.1 + r / 32 * 32, a.2 + 32 * (r % 32) + i)
      if rc.1 < o.rows ∧ rc.2 < o.cols then o.setBlockCode rc.1 rc.2 (byf w (tileRowBytes o.fmt + i) 1) else o) o1
  else o1

/-- Sets `n` bytes of a tile at byte `off` within one row (the debug aperture, poison); poison leaves the sectors whose
64 bytes it covers (R314). -/
def Obj.setTileBytes (o : Obj) (t off n v : Nat) : Obj :=
  let r := off / 1024 % 1024
  let lo := 8 * (off % 1024)
  let w := o.rowBits t r
  let hi := w / 2 ^ (lo + 8 * n)
  { o.setRowBits t r (w % 2 ^ lo + v % 2 ^ (8 * n) * 2 ^ lo + hi * 2 ^ (lo + 8 * n)) with
    poison := o.poison.filter fun p => !(p / 16384 = t ∧ off ≤ p % 16384 * 64 ∧ p % 16384 * 64 + 64 ≤ off + n) }

/-- A sector that cannot be read is poisoned: its bytes deliver no data, so free values take their place (R314). -/
def Obj.poisonSector (o : Obj) (t sec free : Nat) : Obj :=
  let o := (List.range 8).foldl (fun o i => o.setTileBytes t (64 * sec + 8 * i) 8 (Config.freeValue (free + i)).toNat) o
  if o.poisoned t sec then o else { o with poison := (t * 16384 + sec) :: o.poison }

/-- Runs of elements (first linear index, count) that a descriptor had not finished writing hold free values (R591), the
scale codes of their blocks with them. -/
def Obj.leavePartial (o : Obj) (free : Nat) (runs : List (Nat × Nat)) : Obj × Nat :=
  runs.foldl (fun (on : Obj × Nat) r =>
    let word := fun i => (Config.freeValue (on.2 + 2 * i)).toNat + (Config.freeValue (on.2 + 2 * i + 1)).toNat * 2 ^ 64
    let o := { on.1 with elems := Tab.setMany 0 on.1.elems r.1 ((List.range r.2).map fun i => word i % 2 ^ fmtBits on.1.fmt) }
    let o := if o.blockScaled then
        (List.range r.2).foldl (fun o i =>
          let l := r.1 + i
          if i = 0 ∨ l % o.cols % 32 = 0 then o.setBlockCode (l / o.cols) (l % o.cols) (word i / 2 ^ 64 % 256) else o) o
      else o
    (o, on.2 + 2 * r.2)) (o, free)

/-- What the writes of a descriptor may have left in an object. -/
def Mod.leavePartial (m : Mod) (h : Nat) (runs : List (Nat × Nat)) : Mod :=
  match m.objAny h with
  | none => m
  | some o =>
    let x := o.leavePartial m.free runs
    { m with free := x.2 }.onObj h fun _ => x.1

/-- The rows r0 to r0 + nr − 1, columns c0 to c0 + nc − 1, of an object, as runs within it. -/
def Obj.runsOf (o : Obj) (r0 nr c0 nc : Nat) : List (Nat × Nat) :=
  if o.cols ≤ c0 then [] else
    ((List.range (min nr (o.rows - r0))).map fun i => (o.lin (r0 + i) c0, min nc (o.cols - c0)))

/-! ### The scale history of an FP8 object (R188) -/

/-- The ring's valid entries: COUNT of them, newest first. -/
def Obj.ringValid (o : Obj) : List Nat := o.ring.take o.count

end Sys2Proof.Machine
end

