-- ==== Sys2Proof/Machine/Flags.lean ====
section
/-! DEFINITION. STEP_FLAGS (Table 15.12), the flags that a STEP_RUN's reply carries. -/
namespace Sys2Proof.Machine

def flagNonfinite : Nat := 0
def flagUnderflow : Nat := 1
def flagFallback : Nat := 2
def flagGuarded : Nat := 3
def flagFrozen : Nat := 4
def flagReplayed : Nat := 5
def flagEarlyAbort : Nat := 6
def flagPoison : Nat := 7
def flagPaced : Nat := 8

/-- Sets a flag of the running step. -/
def Mod.stepFlag (m : Mod) (job b : Nat) : Mod := m.onRun job fun r => { r with flags := r.flags ||| 2 ^ b }

/-- STEP_FLAGS of the reply: UNDERFLOW_WATCH says that a layer of the job is latched (R185). -/
def Mod.replyFlags (m : Mod) (job : Nat) (r : Run) : Nat :=
  r.flags ||| (if m.upd.layers.any fun (p : Nat × Layer) => p.2.job = job && p.2.latched then 2 ^ flagUnderflow else 0)

end Sys2Proof.Machine
end

