-- ==== Sys2Proof/Machine/Attic.lean ====
section
/-! DEFINITION. Runs of tiles (R343), and the Attic's log, map and journal (R375 to R380). -/
namespace Sys2Proof.Machine

/-! ### Runs of tiles in runs of frames -/

def Ext.has (e : Ext) (h t : Nat) : Bool := e.obj = h && decide (e.tile ≤ t ∧ t < e.tile + e.n)

def Ext.before (a b : Ext) : Bool :=
  decide (a.obj < b.obj) || (a.obj = b.obj && (decide (a.home < b.home) || (a.home = b.home && decide (a.tile ≤ b.tile))))

def insExt (e : Ext) : List Ext → List Ext
  | [] => [e]
  | f :: t => if e.before f then e :: f :: t else f :: insExt e t

/-- The most tiles of one extent (R343). -/
def extMost : Nat := 65536

/-- Merges neighbours that are contiguous in one home (R343, R345). -/
def mergeExt : List Ext → List Ext
  | [] => []
  | e :: t =>
    match mergeExt t with
    | [] => [e]
    | f :: r =>
      if e.obj = f.obj ∧ e.home = f.home ∧ e.tile + e.n = f.tile ∧ e.frame + e.n = f.frame ∧ e.n + f.n ≤ extMost
      then { e with n := e.n + f.n } :: r
      else e :: f :: r

/-- What remains of an extent without tiles t0 to t0+n−1. -/
def Ext.without (e : Ext) (t0 n : Nat) : List Ext :=
  let a := if e.tile < t0 then [{ e with n := min e.n (t0 - e.tile) }] else []
  let hi := t0 + n
  let b := if hi < e.tile + e.n then
      let s := max hi e.tile
      [{ e with tile := s, n := e.tile + e.n - s, frame := e.frame + (s - e.tile) }]
    else []
  a ++ b

/-- The pieces of a run, none longer than an extent may be. -/
def Ext.pieces (e : Ext) : List Ext :=
  (List.range (cdiv e.n extMost)).map fun i =>
    { e with tile := e.tile + extMost * i, n := min extMost (e.n - extMost * i), frame := e.frame + extMost * i }

/-! ### Erase blocks and the log (R375, R376, R380) -/

def homeAttic : Nat := 128
/-- Erase blocks of a channel, and tiles of a log block: 15 × 1,024 data pages in runs of 64. -/
def chanBlocks : Nat := 131072
def logTiles : Nat := 240
def pageBytes : Nat := 16384

/-- An erase block is numbered channel + 16 × block within its channel. -/
def blkKey (ch block : Nat) : Nat := ch + 16 * block
def Attic.blk (a : Attic) (k : Nat) : EBlock := Tab.get {} a.blocks k
def Attic.onBlk (a : Attic) (k : Nat) (f : EBlock → EBlock) : Attic := { a with blocks := Tab.upd {} a.blocks k f }
def EBlock.erase (b : EBlock) : EBlock := { b with erases := b.erases + 1, reads := 0, use := none }
def EBlock.isFree (b : EBlock) : Bool := b.use.isNone && !b.retired

/-- The first block of a channel that its table does not list: erased never. -/
def firstUnlisted (ch : Nat) (t : Tab EBlock) : Nat :=
  t.foldl (fun g p => if p.1 = blkKey ch g then g + 1 else g) 0

/-- The free block of a channel with the lowest erase count, the lowest number among equals (R380; log entry 70). -/
def Attic.freeBlock (a : Attic) (ch : Nat) : Option Nat :=
  let listed := (a.blocks.filter fun (p : Nat × EBlock) => p.1 % 16 = ch && p.2.isFree).map fun (p : Nat × EBlock) => (p.2.erases, p.1 / 16)
  let g := firstUnlisted ch a.blocks
  let best := ((if g < chanBlocks then [(0, g)] else []) ++ listed).foldl (fun (b : Option (Nat × Nat)) (x : Nat × Nat) => match b with
    | none => some x
    | some y => if x.1 < y.1 ∨ (x.1 = y.1 ∧ x.2 < y.2) then some x else some y) none
  best.map fun x => x.2

/-- Log block n opens with a free block of every channel, `pick` standing in for one. -/
def Attic.openLog (a : Attic) (pick : Option (Nat × Nat)) : Attic :=
  let n := a.head / logTiles
  let bs := (List.range 16).map fun ch => match pick with
    | some (c, b) => if c = ch then b else (a.freeBlock ch).getD chanBlocks
    | none => (a.freeBlock ch).getD chanBlocks
  { (List.range 16).foldl (fun (a : Attic) ch => a.onBlk (blkKey ch (bs.getD ch chanBlocks)) fun b => { b with use := some n }) a with
    log := Tab.put a.log n bs }

/-- The channel of data page q of a log block; the parity page of stripe i stands on channel i mod 16 (log entry 70). -/
def pageChan (q : Nat) : Nat := if q % 15 < q / 15 % 16 then q % 15 else q % 15 + 1

/-- The stripes that a tile's last page completes: each has its parity page written (R375). -/
def stripesDone (slot : Nat) : Nat := 64 * (slot + 1) / 15 - 64 * slot / 15

/-- A map without the entries of frames f to f + n − 1. -/
def unmapRuns (map : List Ext) (f n : Nat) : List Ext :=
  (map.flatMap fun e => if e.tile < f + n ∧ f < e.tile + e.n then e.without f n else [e]).foldr insExt []
/-- A map with the entry of frame f at log position p. -/
def mapRun (map : List Ext) (f p : Nat) : List Ext :=
  mergeExt (insExt { obj := 0, tile := f, n := 1, home := homeAttic, frame := p } (unmapRuns map f 1))

/-- Map entries of frames f to f + n − 1 go: their pages are stale (R377). -/
def Attic.unmap (a : Attic) (f n : Nat) : Attic := { a with map := unmapRuns a.map f n }

/-- The log position of a frame's tile. -/
def Attic.posOf (a : Attic) (f : Nat) : Option Nat := (a.map.find? fun e => e.has 0 f).map fun e => e.frame + (f - e.tile)

/-- The next tile position of the log is taken for frame f, its map entry written. -/
def Attic.take (a : Attic) (f : Nat) : Attic :=
  let a := if a.head % logTiles = 0 && (Tab.find a.log (a.head / logTiles)).isNone then a.openLog none else a
  { a with head := a.head + 1, map := mapRun a.map f a.head }

/-- The open log block takes no more. -/
def Attic.closeLog (a : Attic) : Attic := { a with head := cdiv a.head logTiles * logTiles }

/-- The frames whose tiles are live in log block n, in order of position. -/
def Attic.live (a : Attic) (n : Nat) : List Nat :=
  (List.range logTiles).filterMap fun i =>
    (a.map.find? fun e => decide (e.frame ≤ logTiles * n + i ∧ logTiles * n + i < e.frame + e.n)).map fun e => e.tile + (logTiles * n + i - e.frame)

/-- A tile is read: its 64 pages, each on its channel's block (R379). -/
def Attic.read (a : Attic) (f : Nat) : Attic :=
  match a.posOf f with
  | none => a
  | some p =>
    match Tab.find a.log (p / logTiles) with
    | none => a
    | some bs =>
      let chans := (List.range 64).map fun i => pageChan (64 * (p % logTiles) + i)
      (List.range 16).foldl (fun (a : Attic) ch =>
        a.onBlk (blkKey ch (bs.getD ch chanBlocks)) fun b => { b with reads := b.reads + (chans.filter (· = ch)).length }) a

/-! ### The journal (R378) -/

def journalRec : Nat := Config.journalRecord.toNat + 1
/-- A snapshot of the map: 8 bytes for each of its tiles (R376). -/
def snapBytes : Nat := 201326592

/-- NAND bytes programmed. -/
def Mod.nand (m : Mod) (n : Nat) : Mod := m.atcCnt 0x38 n

/-- Bytes of the journal buffer go to the journal region, in whole pages; a region of 1 GiB is followed by a snapshot of the
map and a new region. -/
def Mod.journalWrite (m : Mod) (n : Nat) : Mod :=
  let k := cdiv n pageBytes * pageBytes
  let region := m.attic.region + k
  let m := (m.nand k).reservedTraffic 3 n
  let full := decide (2 ^ 30 ≤ region)
  let m := { m with attic := { m.attic with region := if full then 0 else region } }
  if full then m.nand snapBytes else m

/-- Records up to the n-th are on NAND: they are part of the map that a start-up rebuilds (R378). -/
def Attic.settle (a : Attic) (n : Nat) : Attic :=
  { a with
    onNand := n
    recs := a.recs.drop (n - a.onNand)
    kept := (a.recs.take (n - a.onNand)).foldl (fun k r => match r.2 with
      | some p => mapRun k r.1 p
      | none => unmapRuns k r.1 1) a.kept }

/-- Map changes are appended to the journal buffer, which is written when it is full. Each changes its map entry of 8 bytes in
the reserved area (R376). -/
def Mod.journal (m : Mod) (rs : List (Nat × Option Nat)) : Mod :=
  if rs.isEmpty then m else
    let k := rs.length
    let buf := m.attic.buf + k * journalRec
    let m := { m with attic := { m.attic with
      buf := buf % 1048576
      appended := m.attic.appended + k
      recs := m.attic.recs ++ rs } }.reservedTraffic 3 (k * (journalRec + 8))
    let m := if buf < 1048576 then m else { m with attic := m.attic.settle (m.attic.appended - cdiv m.attic.buf journalRec) }
    (List.range (buf / 1048576)).foldl (fun m _ => m.journalWrite 1048576) m

/-- The buffer is written, full or not. -/
def Mod.journalFlush (m : Mod) : Mod :=
  if m.attic.buf = 0 then m
  else { m with attic := { m.attic.settle m.attic.appended with buf := 0 } }.journalWrite m.attic.buf

/-! ### Tiles in the Attic -/

/-- A tile is written to frame f. -/
def Mod.atcWrite (m : Mod) (f : Nat) : Mod :=
  ({ m with attic := m.attic.take f }.nand ((64 + stripesDone (m.attic.head % logTiles)) * pageBytes)).journal
    [(f, (m.attic.take f).posOf f)]
def Mod.atcWriteMany (m : Mod) (f n : Nat) : Mod := (List.range n).foldl (fun m i => m.atcWrite (f + i)) m

/-- The tiles of frames f to f + n − 1 leave the Attic. -/
def Mod.atcDrop (m : Mod) (f n : Nat) : Mod :=
  { m with attic := m.attic.unmap f n }.journal ((List.range n).map fun i => (f + i, none))

/-- A tile is read from frame f, its map entry first. -/
def Mod.atcRead (m : Mod) (f : Nat) : Mod := { m with attic := m.attic.read f }.reservedTraffic 3 8

/-- The live tiles of log block n are copied to the head of the log. Its blocks are erased next: the journal records of the
copies reach NAND before (R384; log entry 45). -/
def Mod.relocate (m : Mod) (n : Nat) : Mod :=
  let m := if m.attic.head / logTiles = n then { m with attic := m.attic.closeLog } else m
  ((m.attic.live n).foldl (fun m f => (m.atcRead f).atcWrite f) m).journalFlush

end Sys2Proof.Machine
end

