-- ==== Sys2Proof/Machine/Residency.lean ====
section
/-! DEFINITION. The residency engine (R343 to R374): homes, frames, pins, requests and moves; Cellar placement (R361,
R698). Homes carry the codes of Table 10.2. -/
namespace Sys2Proof.Machine

/-! ### Homes and frames -/

def homePantry (c : Nat) : Nat := c
def homeStack (s : Nat) : Nat := 64 + s
/-- The Cellar, any stack (DEST 0x7F). -/
def homeCellar : Nat := 127
/-- A DROP in place of a destination (R367). -/
def homeDrop : Nat := 255
def isCellar (h : Nat) : Bool := decide (64 ≤ h ∧ h ≤ 127)
/-- The destination of a thermal or drain move: any home but stack `s` (R310, R319). -/
def homeOff (s : Nat) : Nat := 512 + s

/-- A home meets a target (R348). -/
def meets (home target : Nat) : Bool :=
  home = target || (target = homeCellar && isCellar home) || (decide (512 ≤ target) && home + 448 ≠ target)
/-- Compatible targets (R348). -/
def compatible (a b : Nat) : Bool := a = b || (a = homeCellar && isCellar b) || (b = homeCellar && isCellar a)

/-- The extents that hold a tile: one, or one per copy of an image tile (R343). -/
def Mod.extsOf (m : Mod) (h t : Nat) : List Ext := m.res.ext.filter fun e => e.has h t
def Mod.homeOf (m : Mod) (h t : Nat) : Option Nat := (m.extsOf h t).head?.map (·.home)
/-- Some copy of the tile stands at a home that meets the target. -/
def Mod.at? (m : Mod) (h t target : Nat) : Bool := (m.extsOf h t).any fun e => meets e.home target

/-- A stack's usable frames: 1,536 A − 256 (R295), none when mapped out whole. -/
def StackSt.usable (s : StackSt) : Nat := if s.out then 0 else 1536 * s.active - 256

/-- The frames of a home that tiles may use: first frame and count. Of a Pantry's 256 the staging and landing frames count
as used (R326). -/
def Mod.frameRange (m : Mod) (home : Nat) : Nat × Nat :=
  if home < 4 then (0, 256)
  else if home = homeAttic then (0, 25165824)
  else (256, (m.stack! (home - 64)).usable)

/-- Inserts an interval into a list sorted by start. -/
def insIv (p : Nat × Nat) : List (Nat × Nat) → List (Nat × Nat)
  | [] => [p]
  | q :: t => if p.1 ≤ q.1 then p :: q :: t else q :: insIv p t

/-- The used runs of frames of a home, by start: tiles, reserved destinations, sources being released, copies of a
neighbour's reserved area (R319), a Pantry's staging and landing frames. -/
def Mod.usedRuns (m : Mod) (home : Nat) : List (Nat × Nat) :=
  let es := (m.res.ext ++ m.res.releasing ++ m.res.area).filter fun e => e.home = home
  let kept := if home < 4 then (m.core! home).pan.staging ++ (m.core! home).pan.landing else []
  let a := kept.foldl (fun l f => insIv (f, 1) l) (es.foldl (fun l e => insIv (e.frame, e.n) l) [])
  (m.res.moves.filter fun v => v.home = home).foldl (fun l v => insIv (v.frame, v.n) l) a

def Mod.freeFrames (m : Mod) (home : Nat) : Nat :=
  (m.frameRange home).2 - (m.usedRuns home).foldl (fun a p => a + p.2) 0

/-- The lowest free run of `k` frames (log entry 6). -/
def lowestRun : List (Nat × Nat) → Nat → Nat → Nat → Option Nat
  | [], pos, lim, k => if pos + k ≤ lim then some pos else none
  | (s, n) :: rest, pos, lim, k =>
    if pos + k ≤ s then (if pos + k ≤ lim then some pos else none) else lowestRun rest (max pos (s + n)) lim k

def Mod.findRun (m : Mod) (home k : Nat) : Option Nat :=
  let r := m.frameRange home
  lowestRun (m.usedRuns home) r.1 (r.1 + r.2) k

/-- Free runs of frames, lowest first: from `pos` to `lim`. -/
def gapsOf : List (Nat × Nat) → Nat → Nat → List (Nat × Nat)
  | [], pos, lim => if pos < lim then [(pos, lim - pos)] else []
  | (s, n) :: rest, pos, lim =>
    (if pos < min s lim then [(pos, min s lim - pos)] else []) ++ gapsOf rest (max pos (s + n)) lim

/-- The lowest free runs that together hold k frames, where there are so many. -/
def Mod.takeFrames (m : Mod) (home k : Nat) : Option (List (Nat × Nat)) :=
  let r := m.frameRange home
  let g := (gapsOf (m.usedRuns home) r.1 (r.1 + r.2)).foldl (fun (a : List (Nat × Nat) × Nat) x =>
    if a.2 = 0 then a else (a.1 ++ [(x.1, min x.2 a.2)], a.2 - x.2)) ([], k)
  if g.2 = 0 then some g.1 else none

/-- The landing frames of a Pantry that no move in flight copies into (R354). -/
def Mod.freeLanding (m : Mod) (c : Nat) : List Nat :=
  let busy := (m.res.moves.filter fun v => v.home = c).flatMap fun v => (List.range v.n).map (· + v.land)
  (m.core! c).pan.landing.filter fun f => !busy.contains f

/-- The first of n consecutive free landing frames. -/
def Mod.landingRun (m : Mod) (c n : Nat) : Option Nat :=
  let fs := m.freeLanding c
  fs.find? fun f => (List.range n).all fun i => fs.contains (f + i)

/-! ### The extent table (R343 to R345) -/

/-- Event 0x5010 when the free entries fall to the reserve (R345, Table 10.18). -/
def Mod.setExt (m : Mod) (es : List Ext) : Mod :=
  let free := 262144 - es.length
  let low := decide (free ≤ 4096)
  let m' := { m with res := { m.res with ext := es, reserveSeen := low } }
  if low && !m.res.reserveSeen then m'.ev 0x5010 0 [(0, 4, free)] else m'

/-- Entries of the residency table that hold no extent. -/
def Mod.emptyEntries (m : Mod) : Nat := 262144 - m.res.ext.length

def Mod.isImage (m : Mod) (h : Nat) : Bool := match m.objAny h with | some o => o.image | none => false
def Mod.isBorrowed (m : Mod) (h : Nat) : Bool := match m.objAny h with | some o => o.borrowed.isSome | none => false

/-- Entries by which a cut of n tiles from t0 out of a home makes the table longer. -/
def Mod.cutNeed (m : Mod) (h home t0 n : Nat) : Nat :=
  match (m.extsOf h t0).find? fun e => e.home = home with
  | none => 0
  | some e => (e.without t0 n).length - 1

/-- Extent entries that moving n tiles from t0 takes (R345); a copy of image tiles takes one (R371). -/
def Mod.splitNeed (m : Mod) (h t0 n : Nat) : Nat :=
  if m.isImage h then 1 else
    match (m.extsOf h t0).head? with
    | none => 1
    | some e => (e.without t0 n).length

/-- Entries that a request may still take: those that no extent has and no move in flight may need at its commit (R345). -/
def Mod.freeEntries (m : Mod) : Nat :=
  m.emptyEntries - m.res.moves.foldl (fun a v => a + max v.need (m.splitNeed v.req.obj v.tile0 v.n)) 0

/-- Entries that n new extents may take: what serves a pin takes the reserve too, and what takes none is never held (R345). -/
def Mod.entriesFor (m : Mod) (n : Nat) (pin : Bool) : Bool := n = 0 || decide (n + (if pin then 0 else 4096) ≤ m.freeEntries)

/-- Frames that take a tile lose what the debug aperture left in them. -/
def Mod.wipeFrames (m : Mod) (e : Ext) : Mod :=
  if m.cel.freeWrites.isEmpty || !isCellar e.home then m else
    let lo := (e.home - 64) * 2 ^ 36 + e.frame * 1048576
    let keep := m.cel.freeWrites.filter fun (p : Nat × Nat) => decide (p.1 < lo ∨ lo + e.n * 1048576 ≤ p.1)
    { m with cel := { m.cel with freeWrites := keep } }

/-- Frames of a home that take tiles of a job: those whose last tile was another job's are written with zeros first, as
residency traffic (R301, R328). `held` says whose tile each frame last held: as extents of the job, frames for tiles. -/
def Mod.zeroFrames (m : Mod) (e : Ext) : Mod :=
  if e.home = homeAttic then m else
    let job := match m.objAny e.obj with | some o => o.job | none => 0
    let hit := fun (d : Ext) => d.home = e.home && decide (d.frame < e.frame + e.n ∧ e.frame < d.frame + d.n)
    let n := ((m.res.held.filter fun d => hit d && d.obj ≠ job).foldl
      (fun a d => a + (min (d.frame + d.n) (e.frame + e.n) - max d.frame e.frame)) 0) * 1048576
    let rest := (m.res.held.flatMap fun d => if hit d then d.without e.frame e.n else [d]).foldr insExt []
    let m := { m with res := { m.res with held := mergeExt (insExt { e with obj := job, tile := e.frame } rest) } }
    if n = 0 then m else if e.home < 4 then m.panCnt e.home 0x18 n else m.stackBytes (e.home - 64) 3 n

/-- Tiles take frames of a home: entered in runs of at most 65,536 (R343); in the Attic they are written to its log. -/
def Mod.addExt (m : Mod) (e : Ext) : Mod :=
  let m := ((m.wipeFrames e).zeroFrames e).setExt (mergeExt (e.pieces.foldr insExt m.res.ext))
  if e.home = homeAttic then m.atcWriteMany e.frame e.n else m

/-- Takes tiles out of the extents of one home; the Attic's map entries go with them. -/
def Mod.cutExt (m : Mod) (h home t0 n : Nat) : Mod :=
  let hit := fun (e : Ext) => e.obj = h && e.home = home && decide (e.tile < t0 + n ∧ t0 < e.tile + e.n)
  let gone := if home = homeAttic then m.res.ext.filter hit else []
  let m := m.setExt ((m.res.ext.flatMap fun e => if hit e then e.without t0 n else [e]).foldr insExt [])
  gone.foldl (fun m e =>
    let a := max t0 e.tile
    m.atcDrop (e.frame + (a - e.tile)) (min (t0 + n) (e.tile + e.n) - a)) m

/-! ### Pins (R347 to R352) -/

def tileKey (h t : Nat) : Nat := h * 2 ^ 32 + t
def Mod.pin? (m : Mod) (h t : Nat) : Option Pin := Tab.find m.res.pins (tileKey h t)
def Mod.pinned (m : Mod) (h t : Nat) : Bool := (m.pin? h t).isSome

def Mod.directed (m : Mod) (job : Nat) : Bool := match m.job? job with | some j => j.directed | none => false
def Mod.moving (m : Mod) (h t : Nat) : Option Mv := m.res.moves.find? fun v => v.req.obj = h && decide (v.tile0 ≤ t ∧ t < v.tile0 + v.n)

/-! ### Placement (R361, R698) -/

/-- Stacks that may take new frames: not mapped out, HOT or DRAINING. -/
def Mod.eligible (m : Mod) : List Nat :=
  (List.range 32).filter fun s => let x := m.stack! s; !x.out && !x.hot && !x.draining && decide (0 < x.active)

/-- The layer that binds an object for update, with which operand it is (R698). -/
def Mod.updBinding (m : Mod) (h : Nat) : Option (Nat × Layer) :=
  m.upd.layers.find? fun (p : Nat × Layer) => p.2.job ≠ 0 && [0, 1, 2, 3, 9].any fun i => p.2.cfg.objs[i]? = some h

/-- The stack R698 names for a tile of an update object. -/
def Mod.updStack (m : Mod) (h t : Nat) : Option Nat :=
  match m.updBinding h with
  | none => none
  | some (_, l) =>
    let w := l.cfg.objs.headD 0
    if w = h then
      let es := m.eligible
      es[t % es.length]?
    else
      match m.objAny h, m.objAny w with
      | some o, some wo =>
        let a := o.tileAt t
        match m.homeOf w (wo.tileOf a.1 a.2) with
        | some home => if isCellar home then some (home - 64) else none
        | none => none
      | _, _ => none

/-- The stack with the most free frames of a list, the lowest among equals. -/
def Mod.mostFree (m : Mod) (ss : List Nat) : Option Nat :=
  (ss.foldl (fun (b : Option (Nat × Nat)) s =>
    let f := m.freeFrames (homeStack s)
    match b with
    | none => some (s, f)
    | some (b0, bf) => if bf < f then some (s, f) else some (b0, bf)) none).map (·.1)

/-- A Cellar stack that the engine chooses for a tile (R361). -/
def Mod.pickStack (m : Mod) (h t : Nat) : Option Nat :=
  let es := m.eligible
  let roomy := es.filter fun s => decide (0 < m.freeFrames (homeStack s))
  let u := (m.updStack h t).filter fun s => es.contains s
  match u.filter (fun s => roomy.contains s) with
  | some s => some s
  | none =>
    let shelf := match Tab.find m.res.pinCore (tileKey h t) with
      | some c => roomy.filter fun s => s / 8 = c
      | none => []
    match m.mostFree shelf with
    | some s => some s
    | none =>
      match m.mostFree roomy with
      | some s => some s
      | none => match u with | some s => some s | none => es.head?

/-- The coolest stack with room (R310). -/
def Mod.coolest (m : Mod) : Option Nat :=
  ((m.eligible.filter fun s => decide (0 < m.freeFrames (homeStack s))).foldl (fun (b : Option (Int × Nat)) s =>
    let t := (m.stack! s).temp
    match b with
    | none => some (t, s)
    | some (bt, bs) => if t < bt then some (t, s) else some (bt, bs)) none).map (·.2)

/-- Where a tile leaves a stack to: from a HOT stack to the coolest with room, else by R361; to the Attic where the
Cellar has no room (R310, R319, R321). -/
def Mod.offHome (m : Mod) (h t st : Nat) : Nat :=
  let s := if (m.stack! st).hot then m.coolest
    else (m.pickStack h t).filter fun s => decide (0 < m.freeFrames (homeStack s))
  match s with | some s => homeStack s | none => homeAttic

/-- The stack that a pin on the tile names, if one does. -/
def Mod.pinStack (m : Mod) (h t : Nat) : Option Nat :=
  ((m.pin? h t).filter fun p => isCellar p.target && p.target ≠ homeCellar).map fun p => p.target

/-- The destination home of a request, with the engine's choice made; a tile whose pin names a stack goes toward it (R352). -/
def Mod.destOf (m : Mod) (r : Req) : Option Nat :=
  if 512 ≤ r.dest then some (m.offHome r.obj r.tile (r.dest - 512))
  else if r.dest = homeCellar then
    match m.pinStack r.obj r.tile with
    | some home => some home
    | none => (m.pickStack r.obj r.tile).map homeStack
  else some r.dest

/-! ### Traffic counters of bytes copied -/

def Mod.tileTraffic (m : Mod) (home cls n : Nat) (read : Bool) : Mod :=
  if home < 4 then m.panCnt home 0x18 n
  else if home = homeAttic then m.atcCnt (if read then 0x28 else 0x30) n
  else m.stackBytes (home - 64) cls n

/-- A tile is read whole from the frame that an extent gives it. -/
def Mod.readTile (m : Mod) (e : Ext) (t cls : Nat) : Mod :=
  let m := m.tileTraffic e.home cls 1048576 true
  if e.home = homeAttic then m.atcRead (e.frame + (t - e.tile)) else m

/-- The Cellar traffic class of a move (Table 9.2): fills of a Pantry that a descriptor (a fault of its pins, a MOVE),
lookahead or PREFETCH asks for are array feed; all else residency moves. -/
def Req.cls (r : Req) : Nat := if r.dest < 4 ∧ (r.kind = 1 ∨ r.kind = 2 ∨ r.kind = 5) then 0 else 3

/-! ### Requests and moves (R353 to R359) -/

/-- A stack or home accepts new frames. -/
def Mod.accepts (m : Mod) (home : Nat) : Bool :=
  if home < 4 then !(m.core! home).fenced
  else if home = homeAttic then !m.attic.readOnly && m.attic.accepting
  else m.eligible.contains (home - 64)

/-- The tiles that may be evicted from a home: unpinned, not moving, not borrowed (R359, R367), of a DIRECTED job only for a
tile fault (R364), as (victim order, object, tile); DONTNEED tiles first, then the least recently pinned. -/
def Mod.victims (m : Mod) (home : Nat) (fault : Bool) : List (Nat × Nat × Nat) :=
  let mayGo := fun (h : Nat) => !m.isBorrowed h && (fault || match m.objAny h with | some o => !m.directed o.job | none => true)
  (m.res.ext.filter fun e => e.home = home && mayGo e.obj).flatMap fun e =>
    ((List.range e.n).map (· + e.tile)).filterMap fun t =>
      if m.pinned e.obj t ∨ (m.moving e.obj t).isSome then none
      else
        let k := tileKey e.obj t
        let d := (Tab.get {} m.res.hints k).dontneed
        some ((if d then 0 else 2 ^ 64) + Tab.get 0 m.res.pinOrder k, e.obj, t)

def minVictim : List (Nat × Nat × Nat) → Option (Nat × Nat × Nat)
  | [] => none
  | v :: t => match minVictim t with
    | none => some v
    | some w => if v.1 ≤ w.1 then some v else some w

/-- Cancels a move: the reserved frame is freed, the home unchanged (R357). How many of its bytes were copied by then,
which RES_CNT_BYTES and the traffic counters count, is free (log entry 52). -/
def Mod.cancelMove (m : Mod) (v : Mv) : Mod :=
  let n := (Config.freeValue m.free).toNat % (1048576 * v.n + 1)
  let m := (({ m with
    free := m.free + 1
    res := { m.res with moves := m.res.moves.filter (· != v) } }.resCnt 0x30 1).resCnt 0x40 n).tileTraffic v.home v.req.cls n false
  let m := if v.home = homeAttic then m.nand n else m
  match (m.extsOf v.req.obj v.tile0).head? with
  | some e => m.tileTraffic e.home v.req.cls n true
  | none => m

/-- Registers a move in flight: the tile is COPYING. -/
def Mod.beginMove (m : Mod) (r : Req) (t0 n home frame land need : Nat) : Mod :=
  { m with res := { m.res with moves := m.res.moves ++
      [{ req := r, tile0 := t0, n := n, home := home, frame := frame, servesPin := r.kind = 1, land := land, need := need }] } }

/-- What becomes of an attempt to start a move: started, no room at the destination, or it waits for something else
(landing frames, extent entries). -/
inductive Start where
  | ok (m : Mod)
  | noRoom
  | wait

/-- Where the copy of n tiles goes while it is made: landing frames of a Pantry, else the reserved frames themselves. -/
def Mod.landFor (m : Mod) (home n frame : Nat) : Option Nat := if home < 4 then m.landingRun home n else some frame

def Mod.startMove (m : Mod) (r : Req) (home : Nat) : Start :=
  if !m.accepts home then .noRoom
  else
    let need := m.splitNeed r.obj r.tile 1
    if m.entriesFor need (r.kind = 1) then
      match m.findRun home 1 with
      | none => .noRoom
      | some f => match m.landFor home 1 f with
        | none => .wait
        | some l => .ok (m.beginMove r r.tile 1 home f l need)
    else if r.kind = 1 ∧ !m.isImage r.obj then
      -- R346: the whole extent moves; of an image no copy goes without an entry
      match (m.extsOf r.obj r.tile).head? with
      | none => .wait
      | some e =>
        let held := (List.range e.n).any fun i => (m.moving r.obj (e.tile + i)).isSome ||
          match m.pin? r.obj (e.tile + i) with | some p => !compatible p.target r.dest | none => false
        if held then .wait
        else match m.findRun home e.n with
          | none => .wait
          | some f => match m.landFor home e.n f with
            | none => .wait
            | some l => .ok (m.beginMove r e.tile e.n home f l 0)
    else .wait

/-- A dropped tile of a borrowed object gives up its frame and reads +0 (R367): its scale codes are those of R337 again, its
poison is gone. -/
def Obj.clearTile (o : Obj) (t : Nat) : Obj :=
  let other := fun (rc : Nat × Nat) => o.tileOf rc.1 rc.2 ≠ t
  { o with
    elems := o.elems.filter fun (p : Nat × Nat) => other (p.1 / o.cols, p.1 % o.cols)
    codes := o.codes.filter fun (p : Nat × Nat) => other (o.blockAt p.1)
    poison := o.poison.filter fun p => p / 16384 ≠ t }

def Mod.dropTile (m : Mod) (h t : Nat) : Mod :=
  match (m.extsOf h t).head? with
  | none => m
  | some e =>
    let src : Ext := { e with tile := t, n := 1, frame := e.frame + (t - e.tile) }
    let m := m.cutExt h e.home t 1
    let m := m.onObj h (·.clearTile t)
    { m with res := { m.res with releasing := m.res.releasing ++ [src] } }

/-- Dropping a tile from inside an extent takes an entry (R345). -/
def Mod.dropNeed (m : Mod) (h t : Nat) : Nat :=
  match m.homeOf h t with
  | none => 0
  | some home => m.cutNeed h home t 1

/-- The home to which a victim goes: Pantry to Cellar (a DIRECTED job's directed Cellar home), Cellar to Attic (R359, R364). -/
def Mod.victimDest (m : Mod) (home h t : Nat) : Nat :=
  if home < 4 then
    let d := (Tab.get {} m.res.hints (tileKey h t)).directed
    let dir : Bool := match m.objAny h with | some o => m.directed o.job | none => false
    if dir ∧ isCellar d then d else homeCellar
  else homeAttic

/-- Numbers a request (R355). -/
def Mod.numbered (m : Mod) (r : Req) : Mod × Req :=
  ({ m with res := { m.res with seq := m.res.seq + 1 } }.resCnt 0x18 1,
    { r with seq := m.res.seq, since := m.now, serves := r.serves || decide (r.kind = 1) })

/-- A drain is blocked while one of its tiles waits for room (R321). -/
def Mod.drainBlocked (m : Mod) (st : Nat) : Bool :=
  (m.stack! st).draining && m.res.waiting.any fun r => r.dest = homeOff st && m.res.starved.contains r.seq

/-- Event 0x4034, with the bytes that the stack still holds (R321). -/
def Mod.blockDrain (m : Mod) (st : Nat) : Mod :=
  let left := (m.res.ext.filter fun f => f.home = homeStack st).foldl (fun a f => a + f.n) 0
  m.ev 0x4034 0 [(0, 1, st), (2, 8, left * 1048576)]

/-- A request that finds neither a frame nor a victim waits: event 0x5011 (R359), once; the first of a drain blocks it,
event 0x4034 (R321). -/
def Mod.noRoom (m : Mod) (r : Req) (home : Nat) : Mod :=
  if m.res.starved.contains r.seq then m else
    let st := r.dest - 512
    let blocks := decide (512 ≤ r.dest) && (m.stack! st).draining && !m.drainBlocked st
    let m := { m with res := { m.res with starved := m.res.starved ++ [r.seq] } }
    let m := m.ev 0x5011 0 [(0, 1, home), (1, 2, r.job), (4, 4, r.obj), (8, 4, r.tile)]
    if blocks then m.blockDrain st else m

/-- What a request meets at its tile's entry. -/
inductive Meet where
  | settled (m : Mod)
  | waits (m : Mod)
  | room (m : Mod) (home : Nat)

/-- A copy of an image tile is discarded (R371). -/
def Mod.discardCopy (m : Mod) (h home t : Nat) : Mod :=
  (m.cutExt h home t 1).onObj h fun o => { o with copies := o.copies.filter fun x => x.1 ≠ home ∨ x.2 / 16384 ≠ t }

/-- A thermal or drain move of a tile (R310, R319): nothing to do where the stack is HOT or DRAINING no more or the tile
has left; a pinned tile waits; a copy of an image tile, whose last copy is in the Attic, is discarded (R371). -/
def Mod.meetOff (m : Mod) (r : Req) (image : Bool) : Meet :=
  let st := r.dest - 512
  if !((m.stack! st).hot || (m.stack! st).draining) || !(m.extsOf r.obj r.tile).any (fun e => e.home = homeStack st) then .settled m
  else if m.pinned r.obj r.tile then .waits m
  else if image then
    if m.entriesFor (m.cutNeed r.obj (homeStack st) r.tile 1) false then .settled (m.discardCopy r.obj (homeStack st) r.tile) else .waits m
  else .room m (m.offHome r.obj r.tile st)

/-- A request that conflicts with the tile's pin (Table 10.3): its destination is not compatible with the pin's target, or the
tile stands at its target and would leave it (R352); the copies of an image tile do not. The policy moves no pinned tile
(R363). -/
def Mod.conflicts (m : Mod) (r : Req) (image : Bool) : Bool :=
  match m.pin? r.obj r.tile with
  | none => false
  | some p => r.kind = 6 || (!image &&
      (!compatible p.target r.dest || (m.at? r.obj r.tile p.target && !m.at? r.obj r.tile r.dest)))

/-- A dropped request (Table 10.3). -/
def Mod.dropReq (m : Mod) : Mod := m.resCnt 0x38 1

/-- A request against the tile's home (R356), its pin (Table 10.3) and a move in flight (R357), then its destination. A tile
of a borrowed object moves nowhere (R367): a fault for it waits, any other request for another home is dropped, and a
PREFETCH or a lookahead of a dropped tile, which reads +0, moves nothing. -/
def Mod.meetReq (m : Mod) (r : Req) : Meet :=
  match m.objAny r.obj with
  | none => .settled m
  | some o =>
    if r.dest = homeDrop then
      if m.pinned r.obj r.tile || !m.entriesFor (m.dropNeed r.obj r.tile) false then .waits m else .settled (m.dropTile r.obj r.tile)
    else if o.borrowed.isSome && !m.at? r.obj r.tile r.dest && o.borrowed ≠ some r.dest then
      if r.kind = 1 then .waits m else .settled m.dropReq
    else if r.kind = 5 && o.borrowed.isSome && (m.extsOf r.obj r.tile).isEmpty then .settled m
    else
      match m.moving r.obj r.tile with
      | some v =>
        if decide (5 ≤ r.kind) && m.conflicts r o.image then .settled m.dropReq
        else if !v.servesPin ∧ m.at? r.obj r.tile r.dest then .settled (m.cancelMove v)
        else if r.kind = 1 ∧ !v.servesPin then
          match (m.cancelMove v).destOf r with
          | none => .waits (m.cancelMove v)
          | some home => .room (m.cancelMove v) home
        else .waits m
      | none =>
        if 512 ≤ r.dest then m.meetOff r o.image
        else if m.at? r.obj r.tile r.dest then .settled m
        else if m.conflicts r o.image then
          if r.kind ≤ 4 then .waits m else .settled m.dropReq
        else match m.destOf r with
          | none => .waits m
          | some home => .room m home

/-- Starts the move where there is room: a dropped tile of a borrowed object just takes a frame. -/
def Mod.tryRoom (m : Mod) (r : Req) (home : Nat) : Start :=
  if (m.extsOf r.obj r.tile).isEmpty then
    if !m.accepts home then .noRoom
    else if !m.entriesFor 1 (r.kind = 1) then .wait
    else match m.findRun home 1 with
    | some f => .ok (m.addExt { obj := r.obj, tile := r.tile, n := 1, home := home, frame := f })
    | none => .noRoom
  else m.startMove r home

/-- Applies a request to its tile's entry (R355 to R359), evicting where it finds no room. The flag answered says that
the request is settled: satisfied, started or dropped; otherwise it waits. `first` is its first application; the fuel
bounds the chain of evictions (Pantry to Cellar to Attic). -/
def Mod.applyReq : Nat → Mod → Req → Bool → Mod × Bool
  | 0, m, _, _ => (m, false)
  | fuel + 1, m, r, first =>
    match m.meetReq r with
    | .settled m => (m, true)
    | .waits m => (m, false)
    | .room m home =>
      match m.tryRoom r home with
      | .ok m => (m, true)
      | .wait => (m, false)
      | .noRoom =>
        let busy := m.res.moves.any fun v => v.req.kind = 6 && (m.extsOf v.req.obj v.req.tile).any fun e => e.home = home
        if !first ∧ busy then (m, false)
        else match if m.accepts home ∧ home ≠ homeAttic then minVictim (m.victims home r.serves) else none with
          | none => (m.noRoom r home, false)
          | some (_, vh, vt) =>
            if m.isImage vh ∧ m.at? vh vt homeAttic then
              -- a copy of an image tile may be discarded (R371)
              if m.entriesFor (m.cutNeed vh home vt 1) (r.kind = 1) then Mod.applyReq fuel (m.discardCopy vh home vt) r false
              else (m, false)
            else
              let job := match m.objAny vh with | some o => o.job | none => 0
              let nr := m.numbered { obj := vh, tile := vt, dest := m.victimDest home vh vt, seq := 0, kind := 6, core := 0, job := job, since := 0,
                                      serves := r.serves, evict := true }
              let ar := Mod.applyReq fuel nr.1 nr.2 true
              ((if ar.2 then ar.1 else { ar.1 with res := { ar.1.res with waiting := ar.1.res.waiting ++ [nr.2] } }), false)

/-- An earlier request for the tile still waits: a later one that is neither a tile fault nor an eviction takes effect after
it (R355; log entry 71). -/
def Mod.queuedBehind (m : Mod) (r : Req) : Bool :=
  decide (2 ≤ r.kind) && !r.evict && m.res.waiting.any fun w => w.obj = r.obj && w.tile = r.tile && decide (w.seq < r.seq)

/-- Applies a request in its turn; one that conflicts with a pin and may be dropped is dropped at once (Table 10.3). -/
def Mod.inTurn (m : Mod) (r : Req) (first : Bool) : Mod × Bool :=
  if m.queuedBehind r then
    if decide (5 ≤ r.kind) && m.conflicts r (m.isImage r.obj) then (m.dropReq, true) else (m, false)
  else Mod.applyReq 4 m r first

/-- Waiting requests are applied again in sequence order when something has changed. -/
def Mod.pump (m : Mod) : Mod :=
  let pass := fun (m : Mod) =>
    let ws := m.res.waiting
    ws.foldl (fun (m : Mod) r =>
      if !m.res.waiting.contains r then m else
        let ar := m.inTurn r false
        if ar.2 then { ar.1 with res := { ar.1.res with
            waiting := ar.1.res.waiting.filter (· != r)
            starved := ar.1.res.starved.filter (· ≠ r.seq) } }
        else ar.1) m
  pass (pass m)

/-- A move that went without a commit was cancelled: what it had reserved is room for requests that wait, a blocked drain among
them (R321, R357). -/
def Mod.afterCancel (m old : Mod) : Mod := if old.res.moves.all fun v => m.res.moves.contains v then m else m.pump

/-- A request stands among those that wait by its sequence number. -/
def insReq (r : Req) : List Req → List Req
  | [] => [r]
  | w :: t => if r.seq ≤ w.seq then r :: w :: t else w :: insReq r t

/-- A request is applied, and kept where it must wait (R355). -/
def Mod.apply (m : Mod) (r : Req) (first : Bool) : Mod :=
  let ar := m.inTurn r first
  (if ar.2 then ar.1 else { ar.1 with res := { ar.1.res with waiting := insReq r ar.1.res.waiting } }).afterCancel m

/-- A new request: numbered and applied (R355). -/
def Mod.request (m : Mod) (r : Req) : Mod :=
  let nr := m.numbered r
  nr.1.apply nr.2 true

/-- A tile pinned where it stands moves nowhere else (R352): a move in flight that serves no pin is cancelled (R357). -/
def Mod.stayFor (m : Mod) (h t : Nat) : Mod :=
  match m.moving h t with
  | some v => if !v.servesPin && !m.isImage h then (m.cancelMove v).pump else m
  | none => m

/-- A tile is pinned for the instant of a transfer: it comes last in the order of R359. -/
def Mod.touchPin (m : Mod) (h t : Nat) : Mod :=
  { m with res := { m.res with
      pinSeq := m.res.pinSeq + 1
      pinOrder := Tab.put m.res.pinOrder (tileKey h t) (m.res.pinSeq + 1) } }

/-- A write that no descriptor makes pins its tile at its home for the instant, and no tile changes while it is copied (R352): a
move in flight is cancelled, and the request of one that serves a pin is applied again after the write (log entry 73). -/
def Mod.pinHere (m : Mod) (h t : Nat) : Mod :=
  match m.moving h t with
  | some v => (if v.servesPin then (m.cancelMove v).apply v.req false else m.cancelMove v).pump.touchPin h t
  | none => m.touchPin h t

/-- By object index, then tile: the order in which requests of one row and core in one instant are numbered (R355). -/
def tileBefore (h t h' t' : Nat) : Bool := decide (handleIdx h < handleIdx h' ∨ (handleIdx h = handleIdx h' ∧ t ≤ t'))
def insPin (p : Nat × Nat × Nat) : List (Nat × Nat × Nat) → List (Nat × Nat × Nat)
  | [] => [p]
  | q :: t => if tileBefore p.1 p.2.1 q.1 q.2.1 then p :: q :: t else q :: insPin p t
def insTile (p : Nat × Nat) : List (Nat × Nat) → List (Nat × Nat)
  | [] => [p]
  | q :: t => if tileBefore p.1 p.2 q.1 q.2 then p :: q :: t else q :: insTile p t
def sortTiles (l : List (Nat × Nat)) : List (Nat × Nat) := l.foldr insTile []

/-- Takes a descriptor's pins together (R349): none while one conflicts, the pin table would overflow (R350), or the
frames needed in the core's Pantry exceed those free or evictable there, less those that earlier faults still wait for
(log entry 53). -/
def Mod.takePins (m : Mod) (core job : Nat) (ps : List (Nat × Nat × Nat)) : Option Mod :=
  let ps := ps.eraseDups
  let conflict := ps.any fun p => match m.pin? p.1 p.2.1 with | some q => !compatible q.target p.2.2 | none => false
  let newTiles := (ps.filter fun p => !m.pinned p.1 p.2.1).length
  let need := (ps.filter fun p => p.2.2 = homePantry core && !m.at? p.1 p.2.1 p.2.2).length
  let keep := ps.map fun p => (p.1, p.2.1)
  let evictable := ((m.victims core true).filter fun v => !keep.contains v.2).length
  let owed := (m.res.waiting.filter fun r => r.kind = 1 && r.dest = homePantry core).length
  if conflict ∨ 4096 < m.res.pins.length + newTiles ∨ (need ≠ 0 ∧ m.freeFrames core + evictable < need + owed) then none
  else
    let m := ps.foldl (fun m p =>
      let k := tileKey p.1 p.2.1
      let q := match Tab.find m.res.pins k with
        | some q => { q with count := q.count + 1, target := if q.target = homeCellar then p.2.2 else q.target }
        | none => { count := 1, target := p.2.2 }
      { m with res := { m.res with
          pins := Tab.put m.res.pins k q
          pinSeq := m.res.pinSeq + 1
          pinOrder := Tab.put m.res.pinOrder k (m.res.pinSeq + 1)
          pinCore := Tab.put m.res.pinCore k core } }) m
    -- unsatisfied pins raise tile faults (R351)
    some ((ps.foldr insPin []).foldl (fun m p =>
      if m.at? p.1 p.2.1 p.2.2 then m.stayFor p.1 p.2.1
      else (m.resCnt 0x20 1).request
        { obj := p.1, tile := p.2.1, dest := p.2.2, seq := 0, kind := 1, core := core, job := job, since := 0 }) m)

/-- The tiles of a descriptor's pins stand at their targets, and none but an image's is on its way to a stack that another pin
names (R351, R352). -/
def Mod.pinsMet (m : Mod) (ps : List (Nat × Nat × Nat)) : Bool :=
  ps.all fun p => m.at? p.1 p.2.1 p.2.2 && (m.isImage p.1 || (m.moving p.1 p.2.1).isNone)

/-- An object freed while pinned goes when its last pin does (R339). -/
def Mod.reap (m : Mod) (h : Nat) : Mod :=
  if (m.obj? h).isSome ∨ m.res.pins.any (fun (p : Nat × Pin) => p.1 / 2 ^ 32 = h) then m
  else
    let gone := m.res.ext.filter fun e => e.obj = h && decide (e.home = homeAttic)
    let m := { m with res := { m.res with
        objs := Tab.del m.res.objs h
        ext := m.res.ext.filter fun e => e.obj ≠ h } }
    let m := gone.foldl (fun m e => m.atcDrop e.frame e.n) m
    { m with freed := m.freed.map fun x => if x.image.obj = h then { x with record := some m.attic.appended } else x }

/-- A durable image that is freed stands on NAND until the records of that do (R378, R384). -/
def Mod.rememberImage (m : Mod) (h : Nat) : Mod :=
  match m.images.find? fun x => x.obj = h && x.durable, m.objAny h with
  | some x, some o =>
    let ext := m.res.ext.filter fun e => e.obj = h && decide (e.home = homeAttic)
    let lost := m.freed.filter fun y => match y.record with | some r => decide (m.attic.onNand < r) | none => true
    { m with freed := lost ++ [{ image := x, data := o, ext := ext }] }
  | _, _ => m

/-- Releases a descriptor's pins (R43, R96); waiting requests are looked at again. -/
def Mod.dropPins (m : Mod) (ps : List (Nat × Nat × Nat)) : Mod :=
  let ps := ps.eraseDups
  let m := ps.foldl (fun m p =>
    let k := tileKey p.1 p.2.1
    match Tab.find m.res.pins k with
    | none => m
    | some q =>
      let m := { m with res := { m.res with
          pins := if q.count ≤ 1 then Tab.del m.res.pins k else Tab.put m.res.pins k { q with count := q.count - 1 } } }
      m.reap p.1) m
  -- a tile fault goes with its last pin
  { m with res := { m.res with waiting := m.res.waiting.filter fun r => r.kind ≠ 1 ∨ m.pinned r.obj r.tile } }.pump

/-- Moves of an object are cancelled and its waiting requests go (R339); the tile faults of descriptors already issued,
which run to retirement, wait and are applied again. -/
def Mod.dropMoves (m : Mod) (h : Nat) : Mod :=
  let vs := m.res.moves.filter fun v => v.req.obj = h
  let m := vs.foldl (fun m v => m.cancelMove v) m
  let kept := m.res.waiting.filter fun r => r.obj ≠ h ∨ r.kind = 1
  { m with res := { m.res with waiting := ((vs.filter fun v => v.servesPin).map (·.req)).foldr insReq kept } }

/-- OBJ_FREE: the handle is stale at once; frames go with the last pin (R336, R339). -/
def Mod.freeObj (m : Mod) (h : Nat) : Mod :=
  let i := handleIdx h
  let m := (m.dropMoves h).metaTraffic.rememberImage h
  let m := { m with
    res := { m.res with
      gen := Tab.set 1 m.res.gen i (if m.genOf i = 0xFFFF then 1 else m.genOf i + 1)
      hints := m.res.hints.filter fun (p : Nat × Hint) => p.1 / 2 ^ 32 ≠ h }
    images := m.images.filter fun x => x.obj ≠ h }
  (m.reap h).pump

/-! ### Creation (R335 to R338) -/

/-- The lowest index that holds no object (R337); `fuel` indices are tried from i on. -/
def Mod.lowestIndex (m : Mod) : Nat → Nat → Option Nat
  | 0, _ => none
  | k + 1, i => if (Tab.find m.res.objs (m.handle i)).isNone then some i else Mod.lowestIndex m k (i + 1)

/-- Places the tiles of a new object one after another: in the Cellar by R361, else in the Attic (log entry 7). -/
def Mod.placeTiles (m : Mod) (h : Nat) : List Nat → Option Mod
  | [] => some m
  | t :: ts =>
    let s := (m.pickStack h t).filter fun s => decide (0 < m.freeFrames (homeStack s))
    let home := match s with | some s => homeStack s | none => homeAttic
    if !m.accepts home then none
    else match m.findRun home 1 with
      | none => none
      | some f =>
        if !m.entriesFor 1 false then none
        else (m.addExt { obj := h, tile := t, n := 1, home := home, frame := f }).placeTiles h ts

/-- Places the tiles of a borrowed object in its core's Pantry (R367, R556): evictable tiles make room. -/
def Mod.placeBorrowed (m : Mod) (h core : Nat) : List Nat → Option Mod
  | [] => some m
  | t :: ts =>
    match if m.entriesFor 1 false then m.findRun core 1 else none with
    | some f => (m.addExt { obj := h, tile := t, n := 1, home := core, frame := f }).placeBorrowed h core ts
    | none => (Mod.request m { obj := h, tile := t, dest := core, seq := 0, kind := 2, core := core, job := 0, since := 0 }).placeBorrowed h core ts

/-- Creates an object of given metadata under the lowest free index; answers its handle. -/
def Mod.addObj (m : Mod) (o : Obj) : Option (Mod × Nat) :=
  match m.lowestIndex 65535 1 with
  | none => none
  | some i =>
    let h := m.handle i
    some ({ m with res := { m.res with objs := Tab.put m.res.objs h o } }.metaTraffic, h)

/-! ### Commits (R353, R354) -/

/-- Asks a tile off a stack (a thermal or drain move, row 4 of Table 10.3). -/
def Mod.askOff (m : Mod) (st h t : Nat) : Mod :=
  let job := match m.objAny h with | some o => o.job | none => 0
  m.request { obj := h, tile := t, dest := homeOff st, seq := 0, kind := 4, core := 0, job := job, since := 0 }

/-- Requests every tile off a stack that becomes HOT or DRAINING. -/
def Mod.clearStack (m : Mod) (st : Nat) : Mod :=
  let tiles := (m.res.ext.filter fun e => e.home = homeStack st).flatMap fun e => (List.range e.n).map fun i => (e.obj, e.tile + i)
  (sortTiles tiles).foldl (fun m p => m.askOff st p.1 p.2) m

/-- A stack that is to hold no tile. -/
def Mod.leaving (m : Mod) (home : Nat) : Bool :=
  isCellar home && ((m.stack! (home - 64)).hot || (m.stack! (home - 64)).draining)

/-- The landing frames that a move copied into become its tiles' frames, its reserved frames landing frames (R354). -/
def Pantry.swapLanding (p : Pantry) (v : Mv) : Pantry :=
  let took := (List.range v.n).map (· + v.land)
  { p with landing := (p.landing.filter fun f => !took.contains f) ++ (List.range v.n).map (· + v.frame) }

/-- The frames that a move's tiles stand in after its commit. -/
def Mod.land (m : Mod) (v : Mv) : Mod × Nat :=
  if v.home < 4 then (m.onCore v.home fun x => { x with pan := x.pan.swapLanding v }, v.land) else (m, v.frame)

/-- The copy of image tiles carries the poison of the copy that it was made from (R314). -/
def Obj.copyPoison (o : Obj) (src dst t0 n : Nat) : Obj :=
  { o with copies := o.copies ++ (o.copies.filter fun x => x.1 = src && decide (t0 ≤ x.2 / 16384 ∧ x.2 / 16384 < t0 + n)).map fun x =>
      (dst, x.2) }

/-- A move commits: the residency entry swaps to the destination in one instant; the source is released later. -/
def Mod.commitMove (m : Mod) (v : Mv) : Mod :=
  let m := { m with res := { m.res with moves := m.res.moves.filter (· != v) } }
  match (m.extsOf v.req.obj v.tile0).head? with
  | none => m
  | some e =>
    let h := v.req.obj
    let leaving := m.leaving v.home
    let src : Ext := { e with tile := v.tile0, n := v.n, frame := e.frame + (v.tile0 - e.tile) }
    let m := if e.home = homeAttic then (List.range v.n).foldl (fun (m : Mod) i => m.atcRead (src.frame + i)) m else m
    let m := if m.isImage h then m.onObj h fun o => o.copyPoison e.home v.home v.tile0 v.n else
      let m := m.cutExt h e.home v.tile0 v.n
      { m with res := { m.res with releasing := m.res.releasing ++ [src] } }
    let at_ := m.land v
    let m := at_.1.addExt { obj := h, tile := v.tile0, n := v.n, home := v.home, frame := at_.2 }
    let m := (m.resCnt 0x28 1).resCnt 0x40 (1048576 * v.n)
    let m := (m.tileTraffic e.home v.req.cls (1048576 * v.n) true).tileTraffic v.home v.req.cls (1048576 * v.n) false
    -- a stack that became HOT or DRAINING while the tile moved there keeps none of it
    let m := if leaving then (List.range v.n).foldl (fun (m : Mod) i => m.askOff (v.home - 64) h (v.tile0 + i)) m else m
    m.pump

/-! ### Placement hints (R365, R366) -/

/-- The home that a DIRECTED placement hint of an OBJ_HINT packet names. -/
def hintHome (p : Packet) : Nat := byf p.toNat 29 1
/-- The tiles of a placement hint's range that do not stand at the named home. -/
def Mod.hintLeft (m : Mod) (p : Packet) : List Nat :=
  let h := byf p.toNat 16 4
  let lo := byf p.toNat 20 4
  match m.obj? h with
  | none => []
  | some o => ((List.range (min (byf p.toNat 24 4 + 1) o.tiles - lo)).map (· + lo)).filter fun t => !m.at? h t (hintHome p)

/-- OBJ_HINT commands that wait complete once every tile that was not pinned when the hint came stands at the named home; the
reply counts the others still to follow (R366). -/
def Mod.settleHints (m : Mod) : Mod :=
  m.hif.q.foldl (fun m (x : Nat × Qp) => match x.2.cmd with
    | some c =>
      if c.acting && byf c.pkt.toNat 0 1 = 0x12 then
        let left := m.hintLeft c.pkt
        if left.all c.pinned.contains then
          m.reply x.1 (byf c.pkt.toNat 4 4) 0 0 [(16, 4, left.length)]
        else m
      else m
    | none => m) m

end Sys2Proof.Machine
end

