-- ==== Sys2Proof/Machine/Watch.lean ====
section
/-! DEFINITION. The numeric watch (R171 to R203): every conversion into an object, its histogram, the scale history, the
first non-finite element, the windows, the underflow watch. -/
namespace Sys2Proof.Machine

/-- Who converts: the descriptor's job, layer, class and SEQ, the core, the engine of NUM_JFIRST (Table 5.11), whether
a non-finite element sets NONFINITE (R196), and whether conversions round stochastically (R167). -/
structure Prod where
  job : Nat
  layer : Nat
  cls : Nat
  seq : Nat
  core : Nat
  engine : Nat
  marks : Bool := true
  stoch : Bool := false
  pantry : Option Nat := none
  noNegZero : Bool := false
  deriving DecidableEq, Repr

/-- A source value for element (r, c). -/
structure Src where
  r : Nat
  c : Nat
  v : Val
  deriving DecidableEq, Repr

/-- A magnitude rounded to FP32 toward +infinity and limited to the largest finite FP32 (R189). -/
def f32Up (q : Fr) : Nat :=
  if q.zero? then 0 else
    let e := max q.log2 (-126)
    let s := q.abs.mul (Fr.pow2 (23 - e))
    let k := (s.num.natAbs + s.den - 1) / s.den
    min ((e + 126).toNat * 2 ^ 23 + k) 0x7F7FFFFF

/-- The largest finite value of an FP8 format (Q of R191). -/
def fp8Q (fmt : Nat) : Fr := Fr.ofInt (if fmt = 3 then 448 else 57344)

/-- The tile scale from an amax (steps 2 to 4 of R191). -/
def scaleOf (fmt amax : Nat) : Nat :=
  if amax = 0 then 0x3F800000 else max (f32Up ((f32 amax).fr.div (fp8Q fmt))) 0x00800000

/-- The bin of a magnitude (R173). -/
def histBin (q : Fr) : Nat := (min (max ((q.log2 + 128) / 4) 0) 63).toNat

/-- The counter of a window that an element adds to: 0 ZERO, 1 NONFINITE, 2 FLUSHED, 3 + b bin b (R172). `stands` is
what the result stands for. -/
def histKey (src stands : Val) : Nat :=
  if !src.isFinite || !stands.isFinite then 1
  else match src, stands with
    | .fin _, .fin q => 3 + histBin q
    | .fin _, _ => 2
    | _, _ => 0

def winKey (layer cls : Nat) : Nat := 3 * layer + cls
def Mod.curWin (m : Mod) (layer cls : Nat) : Win := Tab.get {} m.num.cur (winKey layer cls)
def Win.count (w : Win) (k : Nat) : Nat := Tab.get 0 w.c k
/-- A counter stays at 2^64 − 1 (R174). -/
def Win.add (w : Win) (k n : Nat) : Win := { w with c := Tab.upd 0 w.c k fun x => min (x + n) (2 ^ 64 - 1) }

/-- What a run of conversions gathers. -/
structure Conv where
  o : Obj
  win : Win
  n : Nat := 0
  bad : Nat := 0
  first : Option Nat := none
  deriving DecidableEq, Repr

/-- One converted element observed: its histogram, PENDING of an FP8 object, the first non-finite index. -/
def Conv.observe (k : Conv) (lin : Nat) (src stands : Val) : Conv :=
  let key := histKey src stands
  { k with
    o := if k.o.fp8 ∧ src.isFinite then { k.o with pending := max k.o.pending (f32Up src.fr.abs) } else k.o
    win := k.win.add key 1
    n := k.n + 1
    bad := k.bad + (if key = 0 ∨ key = 2 then 1 else 0)
    first := if key = 1 then some (match k.first with | none => lin | some f => min f lin) else k.first }

/-- The stochastic word of an element, or nearest-even (R158, R168). -/
def rndOf (p : Prod) (seed step lin : Nat) : Rnd := if p.stoch then .sr (srWord seed step p.layer lin) else .rne

/-- An unscaled element written and observed; ACC56 writes are not observed (R171), and an update writes no −0 (R268). -/
def Conv.plain (p : Prod) (seed step : Nat) (k : Conv) (s : Src) : Conv :=
  let lin := k.o.lin s.r s.c
  let w := convert k.o.fmt (rndOf p seed step lin) s.v
  let w := if p.noNegZero && (elemVal k.o.fmt w).isZero then 0 else w
  let k1 := { k with o := k.o.writeAt s.r s.c w }
  if k.o.fmt = 9 then k1 else k1.observe lin s.v (elemVal k.o.fmt w)

/-- An FP8 element: v / s_Y, rounded once (R163). -/
def Conv.fp8 (p : Prod) (seed step : Nat) (k : Conv) (s : Src) : Conv :=
  let lin := k.o.lin s.r s.c
  let sy := (f32 (k.o.tileScale (k.o.tileOf s.r s.c))).fr
  let w := convert k.o.fmt (rndOf p seed step lin) (s.v.scale sy.inv)
  { k with o := k.o.writeAt s.r s.c w }.observe lin s.v ((elemVal k.o.fmt w).scale sy)

/-- The written elements of one block of a block-scaled object (R164, R165). -/
def Conv.block (p : Prod) (seed step : Nat) (k : Conv) (ss : List Src) : Conv :=
  match ss with
  | [] => k
  | s0 :: _ =>
    let lin0 := k.o.lin s0.r s0.c
    let cb := convBlock k.o.fmt (fun i => rndOf p seed step (lin0 + i)) (ss.map (·.v))
    let k1 := { k with o := (k.o.writeRow s0.r s0.c cb.2).setBlockCode s0.r s0.c cb.1 }
    (ss.zip cb.2).foldl (fun k sw =>
      let stands := match blockFactor cb.1 with
        | none => .nan
        | some f => (elemVal k.o.fmt sw.2).scale f
      k.observe (k.o.lin sw.1.r sw.1.c) sw.1.v stands) k1

/-- Splits a row-ordered list of sources at the boundaries of 32-column blocks. -/
def blocksOf : List Src → List (List Src)
  | [] => []
  | s :: rest =>
    match blocksOf rest with
    | [] => [[s]]
    | [] :: bs => [s] :: bs
    | (t :: b) :: bs => if s.r = t.r ∧ s.c / 32 = t.c / 32 then (s :: t :: b) :: bs else [s] :: (t :: b) :: bs

/-- The tile scales of the tiles an FP8 write reaches: the step's held scale when COUNT is 16 (R191), else just in
time from the part's own amax at the first write to a tile in the step (R192). Answers the object, whether the fallback was
taken, and how many elements went through the staging area: those of the tiles so scaled. -/
def Obj.fixScales (o : Obj) (ss : List Src) : Obj × Bool × Nat :=
  let full := o.count = 16
  let stepS := match o.stepScale with
    | some s => s
    | none => scaleOf o.fmt (o.ring.foldl max 0)
  let o := if full then { o with stepScale := some stepS } else o
  ss.foldl (fun of s =>
    let t := of.1.tileOf s.r s.c
    if of.1.fixedTiles.contains t then of
    else if full then ({ (of.1.setTileScale t stepS) with fixedTiles := t :: of.1.fixedTiles }, of.2)
    else
      let part := ss.filter fun s => of.1.tileOf s.r s.c = t
      let a := part.foldl (fun a s => if s.v.isFinite then max a (f32Up s.v.fr.abs) else a) 0
      ({ (of.1.setTileScale t (scaleOf of.1.fmt a)) with fixedTiles := t :: of.1.fixedTiles }, true, of.2.2 + part.length)) (o, false, 0)

/-- The task that runs in place of a selected one (R602). -/
def Run.actual (r : Run) (t : Nat) : Nat := match r.variantOf.find? fun p => p.1 = t with | some p => p.2 | none => t
def Run.actualTasks (r : Run) : List Nat := r.tasks.map r.actual

/-- A task of the job's running step, fence variants in their places, was loaded with EARLY_ABORT (R200). -/
def Job.earlyAbort (j : Job) : Bool :=
  match j.run with
  | some r => r.actualTasks.any fun t => match Tab.find j.tasks t with | some k => k.earlyAbort | none => false
  | none => false

/-- The job's first non-finite element of an attempt sets its flag (R195); the first of the step fills NUM_JFIRST and records
event 0x2001 (R197). Under EARLY_ABORT quenching begins, event 0x2002 once per step (R200). -/
def Mod.nonfinite (m : Mod) (p : Prod) (lin : Nat) : Mod :=
  match m.job? p.job with
  | none => m
  | some j =>
    if j.nonfinite then m else
      let m := m.onJob p.job fun j => { j with nonfinite := true, nfSeen := true }
      let m := if j.nfSeen then m else
        (m.onJob p.job fun j => { j with
          first := pack [(4, 4, p.seq)] + p.cls % 4 * 2 ^ 22 + p.layer % 2 ^ 14 * 2 ^ 8 + p.engine * 2 ^ 4 + p.core
          firstIdx := lin }).ev 0x2001 0 [(0, 2, p.job), (2, 1, p.core), (3, 1, p.engine), (4, 2, p.layer), (6, 1, p.cls), (8, 4, p.seq),
            (12, 8, lin), (20, 8, m.stepOf p.job)]
      if j.earlyAbort then
        let m := (m.onJob p.job fun j => { j with quenching := true, quenchSeen := true }).onRun p.job fun r =>
          { r with flags := r.flags ||| 2 ^ flagEarlyAbort }
        if j.quenchSeen then m else m.ev 0x2002 0 [(0, 2, p.job), (2, 8, m.stepOf p.job)]
      else m

/-! ### Touched bitmaps (R274, R275) -/

/-- Elements of a row block: 4 KiB of master storage (R274). -/
def LayerCfg.rowBlock (y : LayerCfg) : Nat := if y.masterFmt = 1 then 2048 else 1024

/-- Sets bit `i` of a touched bitmap. -/
def Obj.touchBit (o : Obj) (i : Nat) : Obj :=
  if i / 8 < o.rows * o.cols then { o with elems := Tab.upd 0 o.elems (i / 8) (· ||| 2 ^ (i % 8)) } else o
/-- Bit `i` of a touched bitmap. -/
def Obj.touched (o : Obj) (i : Nat) : Bool := bit (Tab.get 0 o.elems (i / 8)) (i % 8)

/-- A write of elements of a GRAD_OBJ of a sparse layer sets the bits of their row blocks. The bitmap's tiles are pinned for the
instant of the write, not by the descriptor that makes it: R96 does not name them (DESIGN CHOICE, log entry 73). -/
def Mod.touch (m : Mod) (h : Nat) (lins : List Nat) : Mod :=
  (m.upd.layers.filter fun (p : Nat × Layer) =>
    p.2.job ≠ 0 && p.2.cfg.objs[1]? = some h && p.2.cfg.objs.getD 4 0 ≠ 0).foldl (fun m p =>
      let bs := (lins.map fun l => l / p.2.cfg.rowBlock).eraseDups
      let t := p.2.cfg.objs.getD 4 0
      let m := match m.objAny t with
        | some o => ((bs.map fun b => o.tileOf (b / 8 / o.cols) (b / 8 % o.cols)).eraseDups).foldl (fun (m : Mod) i => m.pinHere t i) m
        | none => m
      m.onObj t fun o => bs.foldl Obj.touchBit o) m

/-- Clears the touched bitmaps of a job's sparse layers (R275). -/
def Mod.clearTouch (m : Mod) (job : Nat) : Mod :=
  (m.upd.layers.filter fun (p : Nat × Layer) => p.2.job = job).foldl (fun m p =>
    let t := p.2.cfg.objs.getD 4 0
    match m.objAny t with
    | none => m
    | some o => (o.allTiles.foldl (fun m i => m.pinHere t i) m).onObj t fun o => { o with elems := [], poison := [] }) m

/-- An element of a tile in the staging area: 8 bytes in the layout of R144, written and read once (R192). -/
def stagedBytes : Nat := 16

/-- The staging area of a Pantry is lent to a descriptor until it retires, and takes the elements that it scales just in time
(R192, R193; log entry 67). -/
def Mod.stageTiles (m : Mod) (p : Prod) (n : Nat) : Mod :=
  if n = 0 then m
  else
    let c := p.pantry.getD p.core
    (m.onCore c fun x => { x with pan := { x.pan with lent := some (p.job, p.seq) } }).panCnt c 0x18 (stagedBytes * n)

/-- Converts and writes source values into an object, once each (R158 to R166, R171 to R174, R188 to R194). The sources
are one descriptor's, in row order. Event 0x2020 says of an object restored with part of its history that it was restored
without one (DESIGN CHOICE, log entry 76). -/
def Mod.convWrite (m : Mod) (p : Prod) (h : Nat) (ss : List Src) : Mod :=
  match m.objAny h with
  | none => m
  | some o =>
    let seed := match m.job? p.job with | some j => j.seed | none => 0
    let step := m.stepOf p.job
    let of := if o.fp8 then o.fixScales ss else (o, false, 0)
    let m := m.stageTiles p of.2.2
    let first := of.2.1 && !o.fallback
    let o := { of.1 with written := true, fallback := o.fallback || of.2.1 }
    let k0 : Conv := { o := o, win := m.curWin p.layer p.cls }
    let k := if o.blockScaled then (blocksOf ss).foldl (Conv.block p seed step) k0
      else if o.fp8 then ss.foldl (Conv.fp8 p seed step) k0
      else ss.foldl (Conv.plain p seed step) k0
    let m := { m with
      res := { m.res with objs := Tab.put m.res.objs h (k.o.clearPoisonAt (ss.map fun (s : Src) => o.lin s.r s.c)) }
      num := { m.num with cur := Tab.set {} m.num.cur (winKey p.layer p.cls) { k.win with job := p.job } } }
    let m := m.touch h (ss.map fun (s : Src) => o.lin s.r s.c)
    let m := if p.cls = 1 then m.onLayer p.layer fun l => { l with stepBad := l.stepBad + k.bad, stepN := l.stepN + k.n } else m
    let m := if first then
        (m.ev 0x2020 0 [(0, 2, p.job), (2, 4, h), (6, 1, b2n o.restored), (7, 8, step)]).onRun p.job fun r =>
          { r with flags := r.flags ||| 2 ^ flagFallback }
      else m
    match k.first with
    | some lin => if p.marks then m.nonfinite p lin else m
    | none => m

/-! ### Windows (R175 to R181) -/

/-- A histogram log record (Table 5.2) as its 576 bytes. -/
def histRecord (layer cls : Nat) (w : Win) : List Nat :=
  (leBytes 8 w.step ++ leBytes 2 layer ++ leBytes 1 cls ++ leBytes 1 (b2n w.aborted + 2 * b2n w.mark) ++ leBytes 4 w.markId ++
    (List.range 67).flatMap (fun k => leBytes 8 (w.count k)) ++ List.replicate 24 0).map BitVec.toNat

/-- Appends a record to the job's log, a ring of rows; event 0x2030 once per wrap (R181). -/
def Mod.logAppend (m : Mod) (job : Nat) (rec : List Nat) : Mod :=
  match m.job? job with
  | none => m
  | some j =>
    if j.log = 0 then m else
      match m.obj? j.log with
      | none => m
      | some o =>
        let wraps := j.logPos = o.rows
        let row := if wraps then 0 else j.logPos
        let m := (m.pinHere j.log (o.tileOf row 0)).onObj j.log fun o => o.writeRow row 0 rec
        let m := m.onJob job fun j => { j with logPos := row + 1, logWraps := j.logWraps + b2n wraps }
        if wraps then m.ev 0x2030 0 [(0, 2, job), (2, 4, j.log), (6, 8, j.logWraps + 1)] else m

/-- Publishes a current window: copy to the last window with its tags, and to the log. -/
def Mod.publishWin (m : Mod) (job layer cls : Nat) (aborted mark : Bool) (markId : Nat) : Mod :=
  let w := { m.curWin layer cls with step := m.stepOf job, aborted := aborted, mark := mark, markId := markId, closed := true }
  let m := { m with num := { m.num with last := Tab.set {} m.num.last (winKey layer cls) w } }
  m.logAppend job (histRecord layer cls w)

def Mod.resetWin (m : Mod) (layer cls : Nat) : Mod :=
  { m with num := { m.num with cur := Tab.del m.num.cur (winKey layer cls) } }

/-- The layers bound to a job, in increasing order. -/
def Mod.layersOf (m : Mod) (job : Nat) : List Nat := (m.upd.layers.filter fun (p : Nat × Layer) => p.2.job = job).map (·.1)

/-- The layers whose windows are a job's (R175): those bound to it, and those bound to no job that it counted into (log
entry 30). -/
def Mod.windowLayers (m : Mod) (job : Nat) : List Nat :=
  let own : Tab Win := m.num.cur.filter fun (p : Nat × Win) => p.2.job = job && (m.layer! (p.1 / 3)).job = 0
  (m.layersOf job ++ own.map (fun (p : Nat × Win) => p.1 / 3)).eraseDups

/-- The verdict or an abort closes every current window of the job (R175, R176): the layers bound to it in increasing order,
then the others, classes 0 to 2 of each (log entry 76). -/
def Mod.closeWindows (m : Mod) (job : Nat) (aborted : Bool) : Mod :=
  (m.windowLayers job).foldl (fun m l =>
    [0, 1, 2].foldl (fun m c => (m.publishWin job l c aborted false 0).resetWin l c) m) m

/-- A replay from PH_FWD starts the windows from zero (R177), and with them the step's totals of the underflow watch, of which R177
and R600 say nothing (DESIGN CHOICE, log entry 85). -/
def Mod.zeroWindows (m : Mod) (job : Nat) : Mod :=
  (m.windowLayers job).foldl (fun m l =>
    ([0, 1, 2].foldl (fun m c => m.resetWin l c) m).onLayer l fun y => { y with stepBad := 0, stepN := 0 }) m

/-! ### Underflow watch (R182 to R186) -/

def Mod.underflowLayer (m : Mod) (job l : Nat) : Mod :=
  let y := m.layer! l
  if !y.cfg.uwArm ∨ y.stepN = 0 then m else
    let above := 1024 * y.stepBad > y.cfg.uwThresh * y.stepN
    let step := m.stepOf job
    if above then
      let run := min (y.run + 1) 65535
      let latch := !y.latched && decide (y.cfg.uwK ≤ run)
      let m := m.onLayer l fun y => { y with run := run, latched := y.latched || latch }
      if latch then m.ev 0x2010 0 [(0, 2, job), (2, 2, l), (4, 8, step), (12, 2, y.cfg.uwThresh), (14, 2, y.cfg.uwK),
        (16, 8, y.stepBad), (24, 8, y.stepN)] else m
    else
      let m := m.onLayer l fun y => { y with run := 0, latched := false }
      if y.latched then m.ev 0x2011 0 [(0, 2, job), (2, 2, l), (4, 8, step), (12, 2, y.run)] else m

/-- Every armed layer of the job is evaluated once at a finite verdict (R183). -/
def Mod.underflowEval (m : Mod) (job : Nat) : Mod := (m.layersOf job).foldl (fun m l => m.underflowLayer job l) m

/-- The step totals start again. -/
def Mod.clearTotals (m : Mod) (job : Nat) : Mod :=
  (m.layersOf job).foldl (fun m l => m.onLayer l fun y => { y with stepBad := 0, stepN := 0 }) m

/-! ### Scale history (R188 to R190) -/

/-- A finite verdict pushes PENDING of an FP8 object written in the step into its ring. -/
def Obj.pushScale (o : Obj) : Obj :=
  if o.written ∧ o.fp8 then { o with ring := (o.pending :: o.ring).take 16, count := min (o.count + 1) 16 } else o

/-- A step or an attempt begins: PENDING +0, no tile scale fixed, nothing written (R189, R191, R600). -/
def Obj.newStep (o : Obj) : Obj := { o with pending := 0, stepScale := none, written := false, fixedTiles := [] }

/-- Changes every object of a job. -/
def Mod.mapObjs (m : Mod) (job : Nat) (f : Obj → Obj) : Mod :=
  { m with res := { m.res with objs := m.res.objs.map fun (p : Nat × Obj) => (p.1, if p.2.job = job then f p.2 else p.2) } }

/-! ### The snapshot registers (R202) -/

/-- The window that NUM_HSEL selects; a current window belongs to the step that its job runs next or now (R175). -/
def Mod.histWin (m : Mod) (cur : Bool) (layer cls : Nat) : Win :=
  if cur then
    let w := m.curWin layer cls
    { w with step := m.stepOf (if (m.layer! layer).job = 0 then w.job else (m.layer! layer).job) }
  else Tab.get {} m.num.last (winKey layer cls)

/-- A write of NUM_HSEL: a class of 3 is ignored as a whole; else the window is copied and BUSY is set. -/
def Mod.histSelect (m : Mod) (v : Nat) : Mod :=
  if fld v 16 2 = 3 then m else
    let layer := fld v 0 14
    let cls := fld v 16 2
    let bank := fld v 20 1
    let w := m.histWin (bank = 0) layer cls
    { m with num := { m.num with hselBank := bank, hselClass := cls, hselLayer := layer, busy := true, snapValid := false,
                                 next := w } }

/-- The copy completes; VALID is 0 for a last window that was never closed (Table 5.7). -/
def Mod.histDone (m : Mod) : Mod :=
  if m.num.busy then
    { m with num := { m.num with busy := false, snap := m.num.next,
                                 snapValid := m.num.hselBank = 0 || m.num.next.closed } }
  else m

/-- HISTOGRAM_SNAPSHOT_SELECT. -/
def execHistogramSnapshotSelect (v : W32) (s : State) : Host.Outcome State Fault Refusal :=
  run (fun m => if m.reachable then m.histSelect v.toNat else m) s

/-- HISTOGRAM_SNAPSHOT_DONE. -/
def execHistogramSnapshotDone (s : State) : Host.Outcome State Fault Refusal := run Mod.histDone s

end Sys2Proof.Machine
end

