-- ==== Sys2Proof/Machine/Steps.lean ====
section
/-! DEFINITION. The running step of a job: what ends it (R52, R550, R553) and its step boundary (R119). -/
namespace Sys2Proof.Machine

/-! ### Status codes (Table 15.7) -/

def stOK : Nat := 0
def stInvalidOpcode : Nat := 1
def stInvalidField : Nat := 2
def stJobNotOpen : Nat := 3
def stInvalidHandle : Nat := 4
def stHostAccess : Nat := 5
def stDeviceState : Nat := 6
def stSignature : Nat := 7
def stDebugLocked : Nat := 8
def stJobExists : Nat := 0x100
def stJobTableFull : Nat := 0x101
def stStepBusy : Nat := 0x102
def stObjTableFull : Nat := 0x103
def stNoSpace : Nat := 0x104
def stImageReadOnly : Nat := 0x105
def stAtticReadOnly : Nat := 0x106
def stCkptBusy : Nat := 0x107
def stImageMismatch : Nat := 0x108
def stTaskImage : Nat := 0x200
def stTiedWeight : Nat := 0x201
def stRecipeFull : Nat := 0x202
def stSyncInUse : Nat := 0x203
def stGroupInvalid : Nat := 0x204
def stTaskTableFull : Nat := 0x205
def stLayerFlags : Nat := 0x210
def stUpdBinding : Nat := 0x211
def stSched : Nat := 0x212
def stLayerInUse : Nat := 0x213
def stNonfinite : Nat := 0x300
def stListFault : Nat := 0x301
def stMemPoison : Nat := 0x302
def stSyncTimeout : Nat := 0x303
def stBarrierTimeout : Nat := 0x304
def stCollTimeout : Nat := 0x305
def stPartnerLost : Nat := 0x306
def stResExhausted : Nat := 0x307
def stAborted : Nat := 0x308
def stSnapshotBusy : Nat := 0x309
def stTopo : Nat := 0x400
def stTimeJoin : Nat := 0x401
def stSyncNotBound : Nat := 0x500
def stFwImage : Nat := 0x501
def stFwRollback : Nat := 0x502
def stCoreState : Nat := 0x503
def stMet : Nat := 0x504

/-- A step-ending cause: no further descriptor of the job issues; what was issued runs to retirement (R52, R553). Between
steps there is no step to end: the job's refresh lists halt and leave (R32, R52). -/
def Mod.stopStep (m : Mod) (job status detail : Nat) : Mod :=
  m.onJob job fun j => match j.run with
    | some r => { j with run := some { r with halted := true, causes := r.causes ++ [(m.now, status, detail)] } }
    | none => { j with halted := true }

/-- The cause that names the reply: the earliest, causes of one instant in the order of Table 15.7 (R553). -/
def firstCause : List (Nat × Nat × Nat) → Option (Nat × Nat × Nat)
  | [] => none
  | c :: cs => match firstCause cs with
    | none => some c
    | some b => if c.1 < b.1 ∨ (c.1 = b.1 ∧ c.2.1 ≤ b.2.1) then some c else some b

/-- No further descriptor of the job issues: a cause ends its step or has stopped its refresh lists between steps, or a
replay is due (R52, R591). -/
def Mod.halted (m : Mod) (job : Nat) : Bool :=
  match m.job? job with
  | some j => j.halted || (match j.run with | some r => r.halted || r.replay.isSome | none => false)
  | none => false

/-- Descriptors of a job in flight on a core. -/
def CoreSt.inflOf (x : CoreSt) (job : Nat) : List Infl := x.infl.filter fun f => f.job = job
def Mod.inflAny (m : Mod) (job : Nat) : Bool := cores.any fun c => !((m.core! c).inflOf job).isEmpty

/-- The lists of a job in list slots or queued on a core. -/
def CoreSt.listsOf (x : CoreSt) (job : Nat) : List DList :=
  ((x.slots.filter fun (p : Nat × SlotSt) => p.2.l.job = job).map fun (p : Nat × SlotSt) => p.2.l) ++ x.lq.filter fun l => l.job = job

/-- A refresh list: a PH_UPD list that holds a ROOT_REFRESH (R32). -/
def DList.refresh (l : DList) : Bool := l.phase = 4 && l.descs.any fun d => d % 256 = 0x61

/-- The descriptors of a job that are yet to issue on a core: those left in its slots and those of queued lists. -/
def CoreSt.toIssue (x : CoreSt) (job : Nat) : List Nat :=
  ((x.slots.filter fun (p : Nat × SlotSt) => p.2.l.job = job).flatMap fun (p : Nat × SlotSt) => p.2.rest) ++
    (x.lq.filter fun l => l.job = job).flatMap fun l => l.descs

/-- A ROOT_REFRESH of the job is in flight or yet to issue (R32, R286). -/
def Mod.refreshLeft (m : Mod) (job : Nat) : Bool :=
  cores.any fun c => let x := m.core! c
    (x.inflOf job).any (fun f => f.d % 256 = 0x61) || (x.toIssue job).any fun d => d % 256 = 0x61

/-- A job stands at a step boundary: none of its steps has begun and no list of it, refresh lists included, is left
(R119). -/
def Mod.atBoundary (m : Mod) (job : Nat) : Bool :=
  !(match m.run? job with | some r => r.started | none => false) && cores.all fun c => ((m.core! c).listsOf job).isEmpty
def Mod.allAtBoundary (m : Mod) : Bool := m.jobs.all fun (p : Nat × Job) => m.atBoundary p.1

end Sys2Proof.Machine
end

