-- ==== Sys2Proof/Machine/Net.lean ====
section
/-! DEFINITION. Packets and streams (R430 to R448): headers (Table 12.3), routes, sending, order and acknowledgement. What
leaves the module stands in `sent` (packets, oldest first), `fwd` (forwarded packets) and `flits` (link flits). -/
namespace Sys2Proof

/-! ### The fields of a flit's header (Table 12.2) -/

def Flit.type (f : Flit) : Nat := Machine.fld f.hdr.toNat 0 4
def Flit.vc (f : Flit) : Nat := Machine.fld f.hdr.toNat 4 3
def Flit.sop (f : Flit) : Bool := Machine.bit f.hdr.toNat 7
def Flit.eop (f : Flit) : Bool := Machine.bit f.hdr.toNat 8
def Flit.bseq (f : Flit) : Nat := Machine.fld f.hdr.toNat 45 16
def Flit.lseq (f : Flit) : Nat := Machine.fld f.hdr.toNat 9 12
def Flit.ackLseq (f : Flit) : Nat := Machine.fld f.hdr.toNat 21 12
def Flit.nak (f : Flit) : Bool := Machine.bit f.hdr.toNat 33
def Flit.crVc (f : Flit) : Nat := Machine.fld f.hdr.toNat 34 3
def Flit.crCount (f : Flit) : Nat := Machine.fld f.hdr.toNat 37 8

end Sys2Proof

namespace Sys2Proof.Machine

/-! ### The packet header (Table 12.3) -/

def hDst (h : Nat) : Nat := fld h 0 20
def hJob (h : Nat) : Nat := fld h 20 12
def hSrc (h : Nat) : Nat := fld h 32 20
def hVc (h : Nat) : Nat := fld h 52 3
def hKind (h : Nat) : Nat := fld h 56 8
def hSeq (h : Nat) : Nat := fld h 64 32
def hLen (h : Nat) : Nat := fld h 96 7
def hHop (h : Nat) : Nat := fld h 103 4
def hLast (h : Nat) : Nat := fld h 107 4
def hEpoch (h : Nat) : Nat := fld h 112 16
/-- Route entry i: output port and virtual channel. -/
def hRoute (h i : Nat) : Nat × Nat := (fld h (128 + 12 * i) 6, fld h (128 + 12 * i + 6) 3)

def kExchange : Nat := 1
def kReduce : Nat := 2
def kBarrier : Nat := 3
def kAck : Nat := 4
def kPace : Nat := 5
def kSnapshot : Nat := 6

/-! ### Ports -/

/-- A port that carries packets (R441). -/
def PortSt.usable (p : PortSt) : Bool := p.verify = .verified && (p.link = .up || p.link = .retraining)
/-- The members of the bundle that a port belongs to in this epoch, or the port alone (R434, R507). -/
def Mod.bundleOf (m : Mod) (p : Nat) : List Nat :=
  let x := m.port! p
  if x.actEn then (List.range 64).filter fun q => (m.port! q).actEn && (m.port! q).actId = x.actId else [p]
/-- A hop through a port can be taken: by the port, or by a member left in its bundle (R436). -/
def Mod.hopUp (m : Mod) (p : Nat) : Bool := (m.bundleOf p).any fun q => (m.port! q).usable && !(m.port! q).bundleOut

/-! ### Routes (R431) -/

/-- The lowest verified port to a neighbour, its implicit route. -/
def Mod.implicit (m : Mod) (dst : Nat) : Option Nat :=
  (List.range 64).find? fun p => (m.port! p).usable && (m.port! p).expChip = dst

/-- Routes to a chip in order: (index, first-hop port); the implicit one carries 0xFF and comes last. -/
def Mod.routesTo (m : Mod) (dst : Nat) : List (Nat × Nat) :=
  let rs := (Tab.get [] m.lnk.routes dst).map fun r => (r.hops.headD (0, 0)).1
  (List.range rs.length).zip rs ++ (m.implicit dst).toList.map fun p => (0xFF, p)

/-- The first route whose first hop is up and that is not spent for the stream (R447). -/
def Mod.pickRoute (m : Mod) (dst : Nat) (bad : List Nat) : Option Nat :=
  ((m.routesTo dst).find? fun r => m.hopUp r.2 && !bad.contains r.1).map (·.1)

/-! ### Flits (R424, R427, R429, R435) -/

/-- Flits of a packet whose body has `len` bytes (R430). -/
def flitsOf (len : Nat) : Nat := cdiv (len + 40) 244

/-- The CRC-32C of a flit's bytes 0 to 251 (R423). -/
def flitCrc (hdr body : Nat) : Nat := crc32c 252 (hdr % 2 ^ 64 + 2 ^ 64 * (body % 2 ^ 1952))
def mkFlit (hdr body : Nat) : Flit := { hdr := BitVec.ofNat 64 hdr, body := body % 2 ^ 1952, crc := BitVec.ofNat 32 (flitCrc hdr body) }

/-- The credits that the next header returns: those owed on the lowest channel with any, at most 255 (log entry 78). -/
def PortSt.giveBack (x : PortSt) : Nat × Nat :=
  match (List.range 8).find? fun v => decide (0 < x.owed.getD v 0) with
  | some v => (v, min 255 (x.owed.getD v 0))
  | none => (0, 0)
/-- The fields that every header carries: TYPE, ACK_LSEQ, NAK, CR_VC and CR_COUNT. -/
def PortSt.header (x : PortSt) (type : Nat) (nak : Bool) : Nat :=
  type + x.rxLseq * 2 ^ 21 + b2n nak * 2 ^ 33 + x.giveBack.1 * 2 ^ 34 + x.giveBack.2 * 2 ^ 37
/-- A flit leaves a port: `own` holds the header fields that only a DATA flit has. -/
def Mod.putFlit (m : Mod) (p type : Nat) (nak : Bool) (body : Nat) (own : Nat := 0) : Mod :=
  let x := m.port! p
  let g := x.giveBack
  let m := m.onPort p fun x => { x with owed := x.owed.set g.1 (x.owed.getD g.1 0 - g.2) }
  { m with lnk := { m.lnk with flits := m.lnk.flits ++ [(p, mkFlit (x.header type nak + own) body)] } }
/-- A held DATA flit leaves: VC, SOP, EOP, LSEQ, and BSEQ on the SOP flit (R422). -/
def Mod.putHeld (m : Mod) (p : Nat) (f : HeldFlit) : Mod :=
  m.putFlit p 1 false f.data (f.vc * 2 ^ 4 + b2n f.sop * 2 ^ 7 + b2n f.eop * 2 ^ 8 + f.lseq * 2 ^ 9 + b2n f.sop * f.bseq * 2 ^ 45)

/-- The virtual channel whose waiting flit goes next: 0 first, then 1 to 7 in turn, each with a credit. -/
def PortSt.nextVc (x : PortSt) : Option Nat :=
  let ready := fun (v : Nat) => decide (0 < x.credits.getD v 0) && x.waiting.any fun f => f.vc = v
  if ready 0 then some 0 else ((List.range 7).map fun i => (x.lastVc + i) % 7 + 1).find? ready

/-- The flit of a channel that goes next: the rest of a packet begun, else of a packet that has the other origin than the
last one, the module's own first (R429). -/
def PortSt.nextFlit (x : PortSt) (v : Nat) : Option HeldFlit :=
  let last := Tab.get (true, true) x.turns v
  let want := if last.2 then !last.1 else last.1
  match x.waiting.find? fun f => f.vc = v && f.transit = want with
  | some f => some f
  | none => x.waiting.find? fun f => f.vc = v

/-- A port sends DATA flits: UP, VERIFIED (R441), and not taken out of its bundle (R435). -/
def PortSt.sends (x : PortSt) : Bool := x.link = .up && x.verify = .verified && !x.bundleOut

/-- Sends DATA flits, each with a credit: first those held from before a retrain, from the oldest on, whose credits were agreed
anew since (R420, R427); then waiting ones while the replay buffer has room. -/
def PortSt.pumpN : Nat → PortSt × List HeldFlit → PortSt × List HeldFlit
  | 0, r => r
  | n + 1, (x, out) =>
    if !x.sends then (x, out)
    else
      let spend := fun (v : Nat) => x.credits.set v (x.credits.getD v 0 - 1)
      match x.replay.find? fun f => !f.paid with
      | some f =>
        if x.credits.getD f.vc 0 = 0 then (x, out)
        else PortSt.pumpN n ({ x with
          replay := x.replay.map fun g => if g = f then { f with paid := true } else g
          credits := spend f.vc }, out ++ [f])
      | none =>
        if 2048 ≤ x.replay.length then (x, out)
        else match x.nextVc with
          | none => (x, out)
          | some v => match x.nextFlit v with
            | none => (x, out)
            | some f =>
              let g := { f with lseq := x.txLseq, paid := true }
              PortSt.pumpN n ({ x with
                waiting := x.waiting.erase f
                replay := x.replay ++ [g]
                txLseq := (x.txLseq + 1) % 4096
                credits := spend v
                turns := Tab.put x.turns v (f.transit, f.eop)
                lastVc := if v = 0 then x.lastVc else v }, out ++ [g])

def Mod.pumpPort (m : Mod) (p : Nat) : Mod :=
  let x := m.port! p
  let r := PortSt.pumpN (x.waiting.length + x.replay.length) (x, [])
  let m := (m.setPort p { r.1 with ackAt := if x.replay.isEmpty then m.now else r.1.ackAt }).portCnt p 0x200 r.2.length
  r.2.foldl (fun m f => m.putHeld p f) m

/-- The member of a port's bundle with the most credits for a virtual channel, the lowest among equals (R435). -/
def Mod.pickMember (m : Mod) (p vc : Nat) : Option Nat :=
  let ms := (m.bundleOf p).filter fun q => (m.port! q).usable && !(m.port! q).bundleOut
  ms.foldl (fun (b : Option Nat) q => match b with
    | some a => if (m.port! a).credits.getD vc 0 < (m.port! q).credits.getD vc 0 then some q else some a
    | none => some q) none

/-- The n flits of a packet, 244 of its bytes each, join their port's queue; a bundled packet takes its BSEQ (R435). -/
def Mod.emit (m : Mod) (p vc kind n bytes : Nat) (transit : Bool) : Mod :=
  match m.pickMember p vc with
  | none => m
  | some q =>
    let x := m.port! p
    let k := x.actId * 8 + vc
    let bs := if x.actEn then Tab.get 0 m.lnk.bseq k else 0
    let m := if x.actEn then { m with lnk := { m.lnk with bseq := Tab.set 0 m.lnk.bseq k ((bs + 1) % 65536) } } else m
    let fs := (List.range n).map fun i => ({
      lseq := 0
      vc := vc
      bseq := bs
      sop := decide (i = 0)
      eop := decide (i + 1 = n)
      transit := transit
      kind := kind
      data := byf bytes (244 * i) 244 } : HeldFlit)
    (m.onPort q fun y => { y with waiting := y.waiting ++ fs }).pumpPort q

/-- The first hop of a route: its port and virtual channel; the implicit route keeps the packet's own channel. -/
def Mod.firstHop (m : Mod) (dst idx vc : Nat) : Option (Nat × Nat) :=
  if idx = 0xFF then (m.implicit dst).map fun p => (p, vc)
  else ((Tab.get [] m.lnk.routes dst)[idx]?).bind fun r => r.hops.head?

/-- The hops of a route: port and virtual channel each. -/
def Mod.hopsOf (m : Mod) (dst idx vc : Nat) : List (Nat × Nat) :=
  if idx = 0xFF then (m.firstHop dst idx vc).toList else (((Tab.get [] m.lnk.routes dst)[idx]?).map fun r => r.hops).getD []

/-- E2E_ACK, BARRIER and PACE travel on virtual channel 0, whatever channel a route entry names (R428, R446). -/
def ctlKind (kind : Nat) : Bool := kind = kBarrier || kind = kAck || kind = kPace
/-- The hops of a packet: port and virtual channel each. -/
def Mod.hopsFor (m : Mod) (x : SentPkt) (vc : Nat) : List (Nat × Nat) :=
  (m.hopsOf x.pkt.dst x.route vc).map fun h => (h.1, if ctlKind x.pkt.kind then 0 else h.2)

/-- The header of a packet as it leaves its source, which has taken route entry 0: HOP is 1 (log entry 78). -/
def Mod.packetHead (m : Mod) (x : SentPkt) (vc : Nat) : Nat :=
  let hops := m.hopsFor x vc
  pack [(0, 4, x.pkt.dst + 2 ^ 20 * x.pkt.job), (4, 4, m.lnk.chip + 2 ^ 20 * x.pkt.vc + 2 ^ 23 * b2n x.retx + 2 ^ 24 * x.pkt.kind),
    (8, 4, x.seq), (12, 2, flitsOf x.pkt.len + 2 ^ 7 + 2 ^ 11 * (hops.length - 1)), (14, 2, m.lnk.epoch)] +
    2 ^ 128 * hops.foldr (fun h a => h.1 + 2 ^ 6 * h.2 + 2 ^ 12 * a) 0

/-- The flits of a packet leave by the first hop of its route, on channel `vc` where the route is implicit. -/
def Mod.transmit (m : Mod) (x : SentPkt) (vc : Nat) : Mod :=
  match (m.hopsFor x vc).head? with
  | some h => m.emit h.1 h.2 x.pkt.kind (flitsOf x.pkt.len) (m.packetHead x vc + 2 ^ 320 * (if x.pkt.kind = kAck then 0 else x.pkt.body)) false
  | none => m

/-! ### Sending (R443, R444) -/

def streamKey (chip job vc : Nat) : Nat := (chip * 4096 + job) * 8 + vc
def Mod.tx! (m : Mod) (k : Nat) : TxStream := Tab.get {} m.lnk.tx k
def Mod.onTx (m : Mod) (k : Nat) (f : TxStream → TxStream) : Mod :=
  { m with lnk := { m.lnk with tx := Tab.upd {} m.lnk.tx k f } }
def Mod.rx! (m : Mod) (k : Nat) : RxStream := Tab.get {} m.lnk.rx k
def Mod.onRx (m : Mod) (k : Nat) (f : RxStream → RxStream) : Mod :=
  { m with lnk := { m.lnk with rx := Tab.upd {} m.lnk.rx k f } }

/-- A packet formed or passed on along a tree: it leaves at its TREE_PACKET_SEND (R469). -/
def Mod.form (m : Mod) (p : OutPkt) : Mod := { m with lnk := { m.lnk with formed := m.lnk.formed ++ [p] } }

def OutPkt.stream (p : OutPkt) : Nat := streamKey p.dst p.job p.vc

/-- A chip that is lost for a job (R612). -/
def Mod.lostFor (m : Mod) (chip job : Nat) : Bool := match m.job? job with | some j => j.lost.contains chip | none => false

/-- A tracked packet takes its stream's next number and leaves. Where no route is there it waits for one, or for its destination to
be found unreachable (R448). -/
def Mod.sendNow (m : Mod) (p : OutPkt) : Mod :=
  let k := p.stream
  let t := m.tx! k
  let route := if t.unacked.isEmpty ∨ t.route = 0 then m.pickRoute p.dst t.badRoutes else some t.route
  let x : SentPkt := { pkt := p, seq := t.next, retx := false, route := route.getD t.route, sentAt := m.now }
  let m := m.onTx k fun (t : TxStream) => { t with
    next := (t.next + 1) % 2 ^ 32
    unacked := t.unacked ++ [x]
    oldestAt := if t.unacked.isEmpty then m.now else t.oldestAt
    route := route.getD t.route
    due := t.due || (route.isNone && !t.unreachable) }
  if t.unreachable || route.isNone then m
  else { m with lnk := { m.lnk with sent := m.lnk.sent ++ [x] } }.transmit x p.vc

/-- A packet leaves. One of a stream with 4,096 packets unacknowledged waits, and every later one of the stream behind it (R444). A
chip that is lost for the job receives nothing more (R449). -/
def Mod.send (m : Mod) (p : OutPkt) : Mod :=
  if m.lostFor p.dst p.job then m
  else if p.kind = kAck then
    match m.pickRoute p.dst [] with
    | none => m
    | some route =>
      let x : SentPkt := { pkt := p, seq := p.body, retx := false, route := route }
      { m with lnk := { m.lnk with sent := m.lnk.sent ++ [x] } }.transmit x 0
  else if 4096 ≤ (m.tx! p.stream).unacked.length || m.lnk.parked.any fun q => q.stream = p.stream then
    { m with lnk := { m.lnk with parked := m.lnk.parked ++ [p] } }
  else m.sendNow p

/-- The parked packets of a stream leave in order as far as it has room. -/
def Mod.unparkN (k : Nat) : Nat → Mod → Mod
  | 0, m => m
  | n + 1, m =>
    match if 4096 ≤ (m.tx! k).unacked.length then none else m.lnk.parked.find? fun p => p.stream = k with
    | none => m
    | some p => Mod.unparkN k n ({ m with lnk := { m.lnk with parked := m.lnk.parked.erase p } }.sendNow p)

/-- No packet of a context is unsent or unacknowledged (R500). -/
def Mod.allAcked (m : Mod) (ctx : Nat) : Bool :=
  !((m.lnk.formed ++ m.lnk.parked).any fun p => p.ctx = ctx) && !(m.lnk.tx.any fun (p : Nat × TxStream) => p.2.unacked.any fun x => x.pkt.ctx = ctx)

/-- The E2E_ACK of a stream, carrying NEXT (R446). -/
def Mod.ackStream (m : Mod) (src job vc : Nat) : Mod :=
  let k := streamKey src job vc
  let m := m.send { dst := src, job := job, vc := vc, kind := kAck, body := (m.rx! k).next, len := 0, ctx := 0 }
  m.onRx k fun r => { r with unackedN := 0 }

/-- Every packet below NEXT is acknowledged (R446). -/
def Mod.ackedTo (m : Mod) (dst job vc next : Nat) : Mod :=
  let k := streamKey dst job vc
  let t := m.tx! k
  let left := t.unacked.filter fun x => decide ((x.seq + 2 ^ 32 - next) % 2 ^ 32 < 2 ^ 31)
  if left.length = t.unacked.length then m
  else Mod.unparkN k m.lnk.parked.length
    (m.onTx k fun t => { t with unacked := left, oldestAt := (left.head?.map (·.sentAt)).getD m.now, retx := 0 })

/-! ### Receiving (R433, R441, R445, R446, R612) -/

/-- A port that is not UP carries nothing: no packet reaches the module through it (R420, R421). -/
def Mod.silent (m : Mod) (p : Nat) : Bool := (m.port! p).link ≠ .up

/-- A packet that a port drops before its stream looks at it: of another epoch than `epoch`, of an undefined kind, from a port that
is not verified or is out of its bundle, or with the module as destination before its last hop (R432, R433, R435). -/
def Mod.portDrops (m : Mod) (p h epoch : Nat) : Bool :=
  hEpoch h ≠ epoch % 65536 || hKind h = 0 || decide (6 < hKind h) || !(m.port! p).usable || (m.port! p).bundleOut ||
    (hDst h = m.lnk.chip && decide (hHop h < hLast h))

/-! ### The receive buffer (R427, R433, R435) -/

/-- Flits leave the receive buffer of a port: their credits are owed to the peer. -/
def Mod.freeBuf (m : Mod) (p vc n : Nat) : Mod :=
  m.onPort p fun x => { x with owed := x.owed.set vc (x.owed.getD vc 0 + n) }

/-- The packet of a row leaves the receive buffer, with the epoch that it is compared with: the one in force when its first flit
came (R433). One that stands behind another of its port or bundle and channel is not yet delivered (R435). A packet whose flits
were not given arrives as its row comes (log entry 10), through a port that is UP. -/
def Mod.arrival (m : Mod) (p h body : Nat) : Option (Mod × Nat) :=
  match m.lnk.inbox.find? fun x => x.port = p && x.bytes = h + 2 ^ 320 * body with
  | none => if m.silent p then none else some (m, m.lnk.epoch)
  | some x =>
    if (m.lnk.inbox.find? fun y => y.key = x.key) ≠ some x then none
    else some ({ m with lnk := { m.lnk with inbox := m.lnk.inbox.erase x } }.freeBuf p x.vc x.owe, x.epoch)

def heldBytes (m : Mod) : Nat :=
  m.lnk.rx.foldl (fun a (p : Nat × RxStream) => p.2.held.foldl (fun a x => a + 256 * hLen x.hdr) a) 0

/-- Delivers a packet and every held packet that now follows. `gate` drops a packet before delivery (R472, R484); `act`
is its delivery. -/
def deliverRun (gate : Mod → HeldPkt → Mod × Bool) (act : Mod → HeldPkt → Mod) (k : Nat) : Nat → Mod → HeldPkt → Mod
  | 0, m, _ => m
  | fuel + 1, m, x =>
    let g := gate m x
    if !g.2 then g.1 else
      let m := g.1.onRx k fun r => { r with
        next := (r.next + 1) % 2 ^ 32
        unackedN := r.unackedN + 1
        firstAt := if r.unackedN = 0 then g.1.now else r.firstAt
        held := r.held.filter fun y => y.seq ≠ x.seq }
      let m := act m x
      let m := if 64 ≤ (m.rx! k).unackedN then m.ackStream (hSrc x.hdr) (hJob x.hdr) (hVc x.hdr) else m
      match (m.rx! k).held.find? fun y => y.seq = (m.rx! k).next with
      | none => m
      | some y => deliverRun gate act k fuel m y

/-- A tracked packet arrives at its destination (R445). -/
def Mod.receive (m : Mod) (gate : Mod → HeldPkt → Mod × Bool) (act : Mod → HeldPkt → Mod) (p h body : Nat)
    (src : SnapSrc := {}) : Mod :=
  match m.arrival p h body with
  | none => m
  | some (m, epoch) =>
  if m.portDrops p h epoch then m.portCnt p 0x230 1
  else if hDst h ≠ m.lnk.chip ∨ m.lostFor (hSrc h) (hJob h) then m
  else
    let k := streamKey (hSrc h) (hJob h) (hVc h)
    let r := m.rx! k
    let x : HeldPkt := { seq := hSeq h, port := p, hdr := h, body := body, src := src }
    let ahead := (hSeq h + 2 ^ 32 - r.next) % 2 ^ 32
    if ahead = 0 then deliverRun gate act k 4096 m x
    else if ahead < 4096 ∧ !(r.held.any fun y => y.seq = hSeq h) then
      let g := gate m x
      if !g.2 then g.1
      else if 67108864 < heldBytes m + 256 * hLen h then
        (g.1.lnkCnt 0x30 1).ev 0x7022 0 [(0, 3, hSrc h), (3, 2, hJob h), (5, 1, hVc h)]
      else (g.1.lnkCnt 0x38 1).onRx k fun r => { r with held := r.held ++ [x] }
    else (m.lnkCnt 0x28 1).ackStream (hSrc h) (hJob h) (hVc h)

/-! ### Groups and trees (R466, R467) -/

def groupKey (job g : Nat) : Nat := job * 1024 + g
def Mod.group? (m : Mod) (job g : Nat) : Option Group := Tab.find m.col.groups (groupKey job g)
def Group.size (g : Group) : Nat := g.members.length
def Group.rankOf (g : Group) (chip : Nat) : Option Nat := g.members.findIdx? (· = chip)
/-- The relabelled rank of a member in the tree of shard s. -/
def Group.rel (g : Group) (s r : Nat) : Nat := (r + g.size - s % g.size) % g.size
/-- The parent's rank in the tree of shard s; none for the root. -/
def Group.parent (g : Group) (s r : Nat) : Option Nat :=
  let r' := g.rel s r
  if r' = 0 then none else some (((r' - 1) / g.f + s) % g.size)
def Group.children (g : Group) (s r : Nat) : List Nat :=
  let r' := g.rel s r
  ((List.range g.f).filterMap fun i => let c := g.f * r' + 1 + i; if c < g.size then some ((c + s) % g.size) else none)
def Group.chip (g : Group) (r : Nat) : Nat := g.members.getD r 0

/-- The lost member of a barrier's group, if any (R412). -/
def Mod.lostMember (m : Mod) (job g : Nat) : Option Nat :=
  match m.group? job g, m.job? job with
  | some gr, some j => gr.members.find? fun x => j.lost.contains x
  | _, _ => none

/-- Forms a packet to each child of the tree of shard s. -/
def Mod.formDown (m : Mod) (g : Group) (s r : Nat) (p : OutPkt) : Mod :=
  (g.children s r).foldl (fun m c => m.form { p with dst := g.chip c }) m

/-- Forms a packet to the parent of the tree of shard s; nothing at the root. -/
def Mod.formUp (m : Mod) (g : Group) (s r : Nat) (p : OutPkt) : Mod :=
  match g.parent s r with
  | none => m
  | some q => m.form { p with dst := g.chip q }

end Sys2Proof.Machine
end

