-- ==== Sys2Proof/Machine/Power.lean ====
section
/-! DEFINITION. Operating points (R563 to R587): request, target, the ramp, the binding cause; pacing (R520 to R525). -/
namespace Sys2Proof.Machine

/-! ### The point in force (R570 to R573) -/

/-- A job's operating-point preference for a phase; the verdict phase uses that of PH_RED (R569). -/
def Job.pref (j : Job) (phase : Nat) : Nat := j.ops.getD (match phase with | 0 => 0 | 1 => 1 | 2 => 2 | 3 => 2 | _ => 3) 5

/-- The lowest OP of the live notices (R524). -/
def Job.targetOp (j : Job) : Option Nat :=
  j.notices.foldl (fun a n => match a with | none => some n.op | some b => some (min b n.op)) none

/-- The job's point for a phase at its dispatch, as pacing lowers it (R525). -/
def Job.phaseOp (j : Job) (phase : Nat) : Nat :=
  match if j.paceMatch then j.targetOp else none with
  | some t => min (j.pref phase) t
  | none => j.pref phase

/-- A forced source acts, or its hold-off runs (R574). -/
def Pwr.forced (p : Pwr) : Bool := !p.acting.isEmpty || p.holdoff.isSome
def Pwr.forcedSources (p : Pwr) : List Forced := if p.acting.isEmpty then p.released else p.acting

/-- The requested point (R570). -/
def Mod.opRequest (m : Mod) : Nat :=
  let ops := cores.flatMap fun c => (m.core! c).slots.map fun (p : Nat × SlotSt) => p.2.l.op
  if ops.isEmpty then m.pwr.idlePref else ops.foldl max 0

/-- The target point (R571). -/
def Pwr.target (p : Pwr) : Nat := if p.forced then 0 else min p.opReq (min p.capOp p.thermOp)

/-- The core rails are up and the firmware's power control runs: from the end of BOOT on. -/
def Mod.railsOn (m : Mod) : Bool := m.phase ≠ .off && m.phase ≠ .boot && m.pins.coreRails

def Mod.vtab (m : Mod) (op : Nat) : Nat := m.nv.vtab.getD op 0

/-- Brings the set-point and the point in force towards the target: down at once, up by a ramp (R572, R573). A ramp in progress
starts every die's 10 ms of a low rate anew (R568). -/
def Mod.steer (m : Mod) : Mod :=
  let t := m.pwr.target
  let v := m.vtab t
  if !m.railsOn then m
  else if v ≤ m.pwr.setpoint || t ≤ m.pwr.opNow then
    { m with pwr := { m.pwr with setpoint := v, opNow := t, ramping := false, rampHeld := false } }
  else
    let held := m.pwr.die.any fun (d : Nat × DieSt) => d.2.warn
    let m' := if m.pwr.ramping then m else m.pwrCnt 0x230 1
    { m' with pwr := { m'.pwr with
        ramping := true
        rampHeld := held
        die := m'.pwr.die.map fun (d : Nat × DieSt) => (d.1, { d.2 with rateLowFrom := none, rateLowSeen := false })
        rampAt := if m.pwr.ramping then m.pwr.rampAt else m.now } }

/-- THERM_OP or CAP_OP binds the target (R585, Table 16.14). -/
def Pwr.thermBinds (p : Pwr) : Bool := decide (p.thermOp < p.opReq ∧ p.thermOp ≤ p.capOp)
def Pwr.capBinds (p : Pwr) : Bool := decide (p.capOp < p.opReq ∧ p.capOp < p.thermOp)

def Mod.tjMax (m : Mod) : Int := cores.foldl (fun (a : Int) d => max a (m.die! d).tjMax) (-273)
def intByte (t : Int) : Nat := (t % 256).toNat

/-- The binding cause for a point below which the module is held (R587); 0 where none applies. -/
def Pwr.causeFor (p : Pwr) (pref : Nat) : Nat :=
  if pref ≤ p.opNow then 0
  else
    let f := p.forcedSources
    if f.contains .throttle then 2 else if f.contains .alert then 3 else if f.contains .droop then 4
    else if p.thermOp < pref ∧ p.thermOp ≤ p.capOp then 5 else if p.capOp < pref then 1 else 0

def Pwr.cause (p : Pwr) : Nat := p.causeFor p.opReq

/-! ### Pacing (R521 to R524) -/

/-- The preference of the job's running phase, as its dispatch took it (R569). -/
def Mod.runningPref (m : Mod) (job : Nat) : Nat := ((m.job? job).map (·.runPref)).getD 0

/-- The cause that holds the module for a job, 0 where it is not held (R521). -/
def Mod.heldCause (m : Mod) (job : Nat) : Nat := m.pwr.causeFor (m.runningPref job)

/-- The verdict group of a job and this module's rank in it. -/
def Mod.verdictGroup (m : Mod) (job : Nat) : Option (Group × Nat) :=
  match m.job? job with
  | some j =>
    if j.verdictBar = 0 then none
    else match m.group? job (Tab.get ({} : Bar) m.col.mbar (j.verdictBar - 1)).group with
      | some g => (g.rankOf m.lnk.chip).map fun r => (g, r)
      | none => none
  | none => none

/-- A PACE body (Table 14.4). -/
def paceBody (origin : Nat) (active down : Bool) (op cause step spread rate : Nat) : Nat :=
  pack [(0, 4, origin), (4, 1, b2n active + 2 * b2n down), (5, 1, op), (6, 1, cause), (8, 8, step), (16, 8, spread), (24, 4, rate)]

/-- Sends a packet of the verdict tree: up to the root, or down from it where this module is the root. `down` marks the
body of a packet travelling down. -/
def Mod.sendVerdictTree (m : Mod) (job kind up down len : Nat) : Mod :=
  match m.verdictGroup job with
  | none => m
  | some (g, r) =>
    let p : OutPkt := { dst := 0, job := job, vc := 0, kind := kind, body := up, len := len, ctx := 0 }
    if (g.parent 0 r).isNone then m.formDown g 0 r { p with body := down } else m.formUp g 0 r p

/-- Sends a PACE notice of this module (R522); event 0x8050 at the first ACTIVE 1 and at ACTIVE 0. -/
def Mod.sendPace (m : Mod) (job : Nat) (active : Bool) (cause : Nat) : Mod :=
  match m.job? job with
  | none => m
  | some j =>
    let body := fun down => paceBody m.lnk.chip active down j.issueOp cause j.psStep j.psSpread (m.die! 0).rate
    let m' := m.sendVerdictTree job kPace (body false) (body true) 32
    let m' := m'.onJob job fun j => { j with sending := active, lateRun := if active then j.lateRun else 0 }
    if active && j.sending then m'
    else m'.ev 0x8050 0 [(0, 2, job), (2, 1, j.issueOp), (3, 1, cause), (4, 1, b2n active), (5, 8, j.psStep), (13, 8, j.psSpread)]

/-- A module that stops being held says so at once where its notice stands, and its LATE_RUN is 0 (R522). -/
def Mod.paceCheck (m : Mod) : Mod :=
  m.jobs.foldl (fun m (p : Nat × Job) =>
    if m.heldCause p.1 ≠ 0 then m.onJob p.1 fun j => { j with held := true }
    else if p.2.held then
      (if p.2.sending then m.sendPace p.1 false p.2.issueCause else m).onJob p.1 fun j => { j with held := false, lateRun := 0 }
    else m) m

/-- Ends the live notices of an origin (R524); event 0x8052 when the last goes. -/
def Mod.endNotice (m : Mod) (job origin why : Nat) : Mod :=
  match m.job? job with
  | none => m
  | some j =>
    if !(j.notices.any fun n => n.origin = origin) then m
    else
      let left := j.notices.filter fun n => n.origin ≠ origin
      let m := m.onJob job fun j => { j with notices := left }
      if left.isEmpty then m.ev 0x8052 0 [(0, 2, job), (2, 3, origin), (5, 1, why)] else m

/-- A DOWN notice is recorded (R524): a live one is refreshed; with 16 live it replaces the one with the highest OP, if
its own is lower. -/
def Mod.takeNotice (m : Mod) (job origin op : Nat) : Mod :=
  match m.job? job with
  | none => m
  | some j =>
    let n : Notice := { origin := origin, op := op, left := j.paceHold }
    let new := !(j.notices.any fun x => x.origin = origin)
    let rest := j.notices.filter fun x => x.origin ≠ origin
    let top := rest.foldl (fun a x => max a x.op) 0
    let kept := if rest.length < 16 then some rest
      else if op < top then some (match rest.find? fun x => x.op = top with | some x => rest.erase x | none => rest) else none
    match kept with
    | none => m
    | some rest =>
      let m := m.onJob job fun j => { j with notices := rest ++ [n] }
      if new then
        m.ev 0x8051 0 [(0, 2, job), (2, 3, origin), (5, 1, ((rest ++ [n]).foldl (fun a x => min a x.op) 7)), (6, 8, j.step)]
      else m

/-- The pacing work of a verdict release (R521, R522, R524): LATE_RUN, this module's notice, the notices' lapse. -/
def Mod.paceVerdict (m : Mod) (job first last lastChip : Nat) : Mod :=
  match m.job? job with
  | none => m
  | some j =>
    let spread := last - first
    let late := j.issueCause ≠ 0 && lastChip = m.lnk.chip && decide (1000 * j.paceThresh ≤ spread)
    let run := if late then min (j.lateRun + 1) 65535 else 0
    let ns := j.notices.map fun (n : Notice) => { n with left := n.left - 1 }
    let m := m.onJob job fun j => { j with lateRun := run, psSpread := spread, psStep := j.step, notices := ns }
    let gone := ((m.job? job).map (·.notices)).getD [] |>.filter fun n => n.left = 0
    let m := gone.foldl (fun m n => m.endNotice job n.origin 1) m
    let cause := m.heldCause job
    if j.paceK ≤ run ∨ (cause ≠ 0 ∧ j.sending) then m.sendPace job true (if cause = 0 then j.issueCause else cause) else m

/-! ### Power control after any change -/

/-- Re-forms the request, the target, the set-point, the events of a ceiling that begins to bind, and pacing. -/
def Mod.power (m : Mod) : Mod :=
  let m := { m with pwr := { m.pwr with opReq := m.opRequest } }
  let m := m.steer
  let tb := m.pwr.thermBinds
  let cb := m.pwr.capBinds
  let m := if tb && !m.pwr.thermBinding then (m.ev 0xA040 0 [(1, 1, intByte m.tjMax), (2, 1, m.pwr.thermOp)]).async 3 else m
  let m := if cb && !m.pwr.capBinding then m.ev 0xA030 0 [(1, 1, m.pwr.capOp), (2, 2, m.pwr.p1), (4, 2, m.pwr.capW)] else m
  { m with pwr := { m.pwr with thermBinding := tb, capBinding := cb } }.paceCheck

end Sys2Proof.Machine
end

