-- ==== Sys2Proof/Machine/Operands.lean ====
section
/-! DEFINITION. The operand forms: the descriptor header and bodies (Tables 1.8, 2.7, 2.8, 5.1, 7.7, 8.6, 10.6, 11.4 to
11.6, 13.6). A descriptor is its 64 bytes as a little-endian number. -/
namespace Sys2Proof.Machine

/-! ### Descriptor header (Table 1.8) -/

def dOp (d : Nat) : Nat := byf d 0 1
def dFlags (d : Nat) : Nat := byf d 1 1
def dNotify (d : Nat) : Bool := bit d 8
def dFence (d : Nat) : Bool := bit d 9
def dNoLook (d : Nat) : Bool := bit d 10
def dJob (d : Nat) : Nat := fld d 16 12
def dWait (d : Nat) : Nat := byf d 4 6
def dSigs (d : Nat) : Nat := byf d 10 2
def dSeq (d : Nat) : Nat := byf d 12 4
/-- The body, bytes 16 to 63. -/
def dBody (d : Nat) : Nat := byf d 16 48
/-- An enabled signal slot's object (Table 1.11). -/
def dSigA (d : Nat) : Option Nat := if bit (dSigs d) 6 then some (fld (dSigs d) 0 6) else none
def dSigB (d : Nat) : Option Nat := if bit (dSigs d) 14 then some (fld (dSigs d) 8 6) else none
/-- The objects of a 48-bit mask. -/
def maskList (n w : Nat) : List Nat := (List.range n).filter fun i => bit w i

def opArrPass : Nat := 0x10
def opArrLoad : Nat := 0x11
def opVecStream : Nat := 0x20
def opVecReduce : Nat := 0x21
def opMove : Nat := 0x30
def opPrefetch : Nat := 0x31
def opSyncWait : Nat := 0x40
def opSyncSignal : Nat := 0x41
def opBarrier : Nat := 0x42
def opColl : Nat := 0x50
def opUpdLayer : Nat := 0x60
def opRootRefresh : Nat := 0x61
def opHistMark : Nat := 0x70
def opEnd : Nat := 0xFF
/-- Table 1.9. -/
def opcodes : List Nat := [0x10, 0x11, 0x20, 0x21, 0x30, 0x31, 0x40, 0x41, 0x42, 0x50, 0x60, 0x61, 0x70, 0xFF]

/-- The reserved header fields: FLAGS [7:3], header bits [31:28], SIGNAL_IDS bits 7 and 15. -/
def dHeaderRsv (d : Nat) : Nat := fld (dFlags d) 3 5 + fld d 28 4 + fld (dSigs d) 7 1 + fld (dSigs d) 15 1

/-! ### ARR_LOAD and ARR_PASS bodies (Tables 2.7, 2.8) -/

structure LoadOp where
  array : Nat
  xpose : Bool
  fmt : Nat
  rows : Nat
  cols : Nat
  obj : Nat
  k0 : Nat
  n0 : Nat
  rsv : Nat
  deriving DecidableEq, Repr

def loadOp (d : Nat) : LoadOp :=
  { array := fld (byf d 16 1) 0 2, xpose := bit (byf d 16 1) 2, fmt := fld (byf d 17 1) 0 4, rows := fld (byf d 18 2) 0 11,
    cols := fld (byf d 20 2) 0 11, obj := byf d 24 4, k0 := byf d 28 4, n0 := byf d 32 4,
    rsv := fld (byf d 16 1) 3 5 + fld (byf d 17 1) 4 4 + fld (byf d 18 2) 11 5 + fld (byf d 20 2) 11 5 + byf d 22 2 +
      byf d 36 28 }

structure PassOp where
  array : Nat
  xpose : Bool
  accum : Bool
  mode : Nat
  drain : Bool
  stoch : Bool
  mfmt : Nat
  ofmt : Nat
  diag : Nat
  split : Nat
  cls : Nat
  m : Nat
  base : Nat
  mov : Nat
  mrow : Nat
  mcol : Nat
  out : Nat
  orow : Nat
  on : Nat
  layer : Nat
  rsv : Nat
  deriving DecidableEq, Repr

def passOp (d : Nat) : PassOp :=
  let b := byf d 16 1
  { array := fld b 0 2, xpose := bit b 2, accum := bit b 3, mode := fld b 4 2, drain := bit b 6, stoch := bit b 7,
    mfmt := fld (byf d 17 1) 0 4, ofmt := fld (byf d 17 1) 4 4, diag := fld (byf d 18 1) 0 3, split := fld (byf d 18 1) 3 2,
    cls := fld (byf d 18 1) 5 2, m := fld (byf d 20 2) 0 12, base := fld (byf d 22 2) 0 11, mov := byf d 24 4,
    mrow := byf d 28 4, mcol := byf d 32 4, out := byf d 36 4, orow := byf d 40 4, on := byf d 44 4,
    layer := fld (byf d 48 2) 0 14,
    rsv := fld (byf d 18 1) 7 1 + byf d 19 1 + fld (byf d 20 2) 12 4 + fld (byf d 22 2) 11 5 + fld (byf d 48 2) 14 2 +
      byf d 50 14 }

/-! ### VEC_STREAM and VEC_REDUCE (Table 7.7) -/

structure VecOp where
  stoch : Bool
  cls : Nat
  axis : Nat
  accum : Bool
  rsv : Nat
  recipe : Nat
  layer : Nat
  redOp : Nat
  row0 : Nat
  rows : Nat
  inp : List Nat
  out : Nat
  immA : Nat
  immB : Nat
  imm64 : Nat
  deriving DecidableEq, Repr

def vecOp (d : Nat) : VecOp :=
  let b := byf d 16 1
  { stoch := bit b 0, cls := fld b 1 2, axis := fld b 3 1, accum := bit b 4, rsv := fld b 5 3, recipe := byf d 17 1,
    layer := fld (byf d 18 2) 0 14, redOp := fld (byf d 18 2) 14 2, row0 := byf d 20 4, rows := byf d 24 4,
    inp := [byf d 28 4, byf d 32 4, byf d 36 4, byf d 40 4], out := byf d 44 4, immA := byf d 48 4, immB := byf d 52 4,
    imm64 := byf d 56 8 }

/-! ### MOVE and PREFETCH (Table 10.6), HIST_MARK (Table 5.1) -/

structure MoveOp where
  obj : Nat
  lo : Nat
  hi : Nat
  dest : Nat
  op : Nat
  rsv : Nat
  deriving DecidableEq, Repr

def moveOp (d : Nat) : MoveOp :=
  { obj := byf d 16 4, lo := byf d 20 4, hi := byf d 24 4, dest := byf d 28 1, op := fld (byf d 29 1) 0 2,
    rsv := fld (byf d 29 1) 2 6 + byf d 30 34 }

/-- The tiles of a MOVE or PREFETCH, in increasing order. -/
def MoveOp.tiles (p : MoveOp) : List Nat := (List.range (p.hi + 1 - p.lo)).map (· + p.lo)

structure HistOp where
  lo : Nat
  hi : Nat
  mask : Nat
  publish : Bool
  reset : Bool
  markId : Nat
  rsv : Nat
  deriving DecidableEq, Repr

def histOp (d : Nat) : HistOp :=
  { lo := fld (byf d 16 2) 0 14, hi := fld (byf d 18 2) 0 14, mask := fld (byf d 20 1) 0 3, publish := bit (byf d 21 1) 0,
    reset := bit (byf d 21 1) 1, markId := byf d 24 4,
    rsv := fld (byf d 16 2) 14 2 + fld (byf d 18 2) 14 2 + fld (byf d 20 1) 3 5 + fld (byf d 21 1) 2 6 + byf d 22 2 +
      byf d 28 36 }

end Sys2Proof.Machine
end

