-- ==== Sys2Proof/Machine/Array.lean ====
section
/-! DEFINITION. The matrix arrays: list fault checks (Tables 2.9, 6.7), pins, stationary loads, and the entries a pass
writes and drains (02, 04, 06). -/
namespace Sys2Proof.Machine

/-- The tiles of an object's part of a region as pins with one target. -/
def regionPins (m : Mod) (h target r0 nr c0 nc : Nat) : List (Nat × Nat × Nat) :=
  match m.obj? h with
  | none => []
  | some o => (o.tilesIn r0 (min (r0 + nr) o.rows) c0 (min (c0 + nc) o.cols)).map fun t => (h, t, target)

/-- Where (k, n) of a load, or (m, k) of a moving operand, sits in its object: swapped when transposed (R205, R206). -/
def swapIf (x : Bool) (r c : Nat) : Nat × Nat := if x then (c, r) else (r, c)

def causeIf (b : Bool) (c : Nat) : List Nat := if b then [c] else []

/-! ### The maps of a repaired array (R101, R102, R106) -/

def ArrSt.out (x : ArrSt) (col : Bool) : List Nat := (x.splices.filter fun t => t.col = col).map (·.phys)
/-- p(k) or q(n): the k-th physical row or column that is not mapped out. -/
def mapPos (out : List Nat) (k : Nat) : Nat := ((List.range 1040).filter fun i => !out.contains i).getD k 0
/-- skew[k] (R106). -/
def ArrSt.skew (x : ArrSt) (k : Nat) : Nat := mapPos (x.out false) k + k / 32

/-! ### Pairs and splits (Table 2.1, R155, R156) -/

/-- The stationary and moving formats form a pair of Table 2.1. -/
def pairOk (sf mf : Nat) : Bool :=
  (fmtFp8 sf && fmtFp8 mf) || (sf = 8 && mf = 8) || ((sf = 5 || sf = 6) && (mf = 5 || mf = 6)) || (sf = 7 && mf = 7) ||
    (sf = 1 && mf = 1) || (sf = 2 && mf = 2) || (sf = 0 && mf = 0)

/-- Slots T of a pass of M moving rows (Table 2.1). -/
def passSlots (mf rows : Nat) : Nat :=
  match mf with | 7 => (rows + 1) / 2 | 1 => 4 * rows | 2 => 4 * rows | 0 => 16 * rows | _ => rows

/-- hi(a): rounded to nearest-even to a multiple of 2^(E − 11); lo(a) = a − hi(a) (R155). -/
def splitHi (v : Val) : Val :=
  match v with
  | .fin q =>
    let e := max q.log2 (-126)
    let k := (q.abs.mul (Fr.pow2 (11 - e))).rne
    let h := (Fr.ofInt k).mul (Fr.pow2 (e - 11))
    Val.of (if q.neg? then h.neg else h)
  | v => v
def splitLo (v : Val) : Val :=
  match v with
  | .fin q => Val.of (q.sub (splitHi v).fr)
  | _ => .pos0

/-- The moving and the stationary part that a split pass multiplies (R156). -/
def splitMov (s : Nat) (v : Val) : Val := if s = 0 then v else if s = 3 then splitLo v else splitHi v
def splitSta (s : Nat) (v : Val) : Val := if s = 0 then v else if s = 2 then splitLo v else splitHi v

/-! ### Residues (R110, R111) -/

/-- The residue modulo 3 of a value's integer significand; 0 where it is not finite or is 0. -/
def Val.residue : Val → Nat
  | .fin q => (q.num % 3).toNat
  | _ => 0

/-- L of the group fixed-point format, by the moving format (Table 4.5). -/
def groupUnit (mf : Nat) : Nat :=
  match mf with | 0 => 298 | 1 => 266 | 2 => 48 | 5 => 8 | 6 => 8 | 7 => 2 | 8 => 0 | _ => 32

/-- The binary places below the point that a value's significand takes. -/
def Val.places : Val → Nat
  | .fin q => Nat.log2 q.den
  | _ => 0

/-- A cell's predicted residue: the operands' residues and the parity of the alignment shift into units of 2^−L. -/
def cellResidue (l : Nat) (x w : Val) (rw : Nat) : Nat :=
  if x.isFinite && w.isFinite then x.residue * rw * (if (l + x.places + w.places) % 2 = 0 then 1 else 2) % 3 else 0

/-! ### ARR_LOAD -/

def loadCauses (m : Mod) (job d : Nat) : List Nat :=
  let p := loadOp d
  let o := m.objOfJob p.obj job
  let sz := swapIf p.xpose (p.k0 + p.rows) (p.n0 + p.cols)
  causeIf (p.array = 3) 0x20 ++
  causeIf (decide (8 < p.fmt) || (match o with | some o => o.fmt ≠ p.fmt | none => false)) 0x21 ++
  causeIf (p.rows = 0 || decide (1024 < p.rows) || p.cols = 0 || decide (1024 < p.cols)) 0x22 ++
  causeIf o.isNone 0x23 ++
  causeIf (match o with | some o => decide (o.rows < sz.1) || decide (o.cols < sz.2) | none => false) 0x24 ++
  causeIf (p.rsv ≠ 0) 0x29 ++
  causeIf (p.xpose && (match o with | some o => o.blockScaled && o.axis ≠ 0 | none => false)) 0x2A

def loadPins (m : Mod) (c d : Nat) : List (Nat × Nat × Nat) :=
  let p := loadOp d
  let at0 := swapIf p.xpose p.k0 p.n0
  let n := swapIf p.xpose p.rows p.cols
  regionPins m p.obj c at0.1 n.1 at0.2 n.2

/-! ### The transposing buffer (R204, R209, R211, R212) -/

/-- Bytes of each half of an array's buffer. -/
def xposeHalf : Nat := 524288
/-- The moving half holds two blocks of 64 × 64 for each of 16 bands, the stationary half two bands of 64 rows. -/
def xposeBands : Nat := 16
def xposeMovingBlocks : Nat := 2 * xposeBands
def xposeStationaryBands : Nat := 2

/-- The array whose stationary half a load uses: a shared load, array A0's (R212). -/
def loadHalf (d : Nat) : Nat := if (loadOp d).array = 2 then 0 else (loadOp d).array % 2

/-- A transposed pass takes part of its array's moving half from its issue until it retires (R211); one that only drains has no
elements to go through it. -/
def Mod.enterBuffer (m : Mod) (c id d : Nat) : Mod :=
  if (passOp d).xpose && !(passOp d).drain then m.onArr c ((passOp d).array % 2) fun x => { x with moveHalf := x.moveHalf ++ [id] } else m

/-- A transposed load fills the stationary half from when it is the array's oldest load that has not begun, until it retires
(R212). -/
def Mod.fillHalf (m : Mod) (c a : Nat) : Mod :=
  let x := m.arr! c a
  match x.loads.head?.bind fun id => (m.core! c).infl.find? fun f => f.id = id with
  | some f =>
    if (loadOp f.d).xpose && loadHalf f.d = a && !x.statHalf.contains f.id then m.onArr c a fun x => { x with statHalf := x.statHalf ++ [f.id] }
    else m
  | none => m

/-- A descriptor leaves nothing of itself in the buffer (R204). -/
def Mod.leaveBuffer (m : Mod) (c id d : Nat) : Mod :=
  if dOp d = opArrPass ∧ (passOp d).xpose then m.onArr c ((passOp d).array % 2) fun x => { x with moveHalf := x.moveHalf.filter (· ≠ id) }
  else if dOp d = opArrLoad ∧ (loadOp d).xpose then m.onArr c (loadHalf d) fun x => { x with statHalf := x.statHalf.filter (· ≠ id) }
  else m

/-- Fencing and unfencing clear both halves of the buffers of a core (R204). -/
def Mod.clearBuffers (m : Mod) (c : Nat) : Mod :=
  [0, 1].foldl (fun m a => m.onArr c a fun x => { x with moveHalf := [], statHalf := [] }) m

/-- The arrays of a core that a load names (R80). -/
def loadArrays (d : Nat) : List Nat := if (loadOp d).array = 2 then [0, 1] else [(loadOp d).array % 2]

/-- The residues beside the elements of a set: of the value, and for FP32 of its upper or its lower part (R111; log entry
57). -/
def residues (p : LoadOp) (el : Tab Nat) (lo : Bool) : Tab Nat :=
  if lo && p.fmt ≠ 0 then [] else
    el.foldl (fun t kw =>
      let v := elemVal p.fmt kw.2
      Tab.set 0 t kw.1 (if p.fmt ≠ 0 then v else if lo then splitLo v else splitHi v).residue) []

/-- The stationary set that a load writes (R55, R84, R111, R139, R205, R207); rows and columns beyond hold +0. -/
def Obj.stationary (o : Obj) (job : Nat) (p : LoadOp) : ASet :=
  let pos := fun k n => swapIf p.xpose (p.k0 + k) (p.n0 + n)
  let el := (List.range p.rows).foldl (fun t k => (List.range p.cols).foldl (fun t n =>
    Tab.set 0 t (k * 1024 + n) (o.code (pos k n).1 (pos k n).2)) t) []
  let codes := if o.blockScaled then (List.range (cdiv p.rows 32)).foldl (fun t g => (List.range p.cols).foldl (fun t n =>
    Tab.set 0x7F t (g * 1024 + n) (o.blockCode (pos (32 * g) n).1 (pos (32 * g) n).2)) t) [] else []
  { job := job, fmt := p.fmt, rows := p.rows, cols := p.cols, el := el, codes := codes, res := residues p el false,
    resLo := residues p el true,
    sw := if o.fp8 then o.tileScale (o.tileOf (pos 0 0).1 (pos 0 0).2) else 0x3F800000 }

/-! ### The reference order (R149 to R152) -/

/-- Special products and the exact sum of a group. -/
structure Group1 where
  nan : Bool := false
  pinf : Bool := false
  ninf : Bool := false
  s : Fr := ⟨0, 1⟩

def Group1.add (g : Group1) (p : Val) : Group1 :=
  match p with
  | .nan => { g with nan := true }
  | .inf n => if n then { g with ninf := true } else { g with pinf := true }
  | .zero _ => g
  | .fin q => { g with s := g.s.add q }

/-- The group result G (R149): one rounding, after the block scales. -/
def Group1.result (g : Group1) (e : Int) : Nat :=
  if g.nan ∨ (g.pinf ∧ g.ninf) then acc56Nan
  else if g.pinf then acc56Encode (.inf false)
  else if g.ninf then acc56Encode (.inf true)
  else acc56Encode (Val.of (g.s.mul (Fr.pow2 e)))

/-- One group: elements of up to 32 k with the moving and stationary block codes; a code 0xFF makes every product NaN. -/
def groupResult (xs ws : List Val) (cx cw : Nat) : Nat :=
  if cx = 0xFF ∨ cw = 0xFF then acc56Nan
  else ((xs.zip ws).foldl (fun (g : Group1) p => g.add (p.1.mul p.2)) {}).result ((cx : Int) + cw - 254)

/-- A column's accumulator over the groups in increasing k (R151, R153). -/
def columnSum : List (List Val × Nat) → List (List Val × Nat) → Nat → Nat
  | (xs, cx) :: gx, (ws, cw) :: gw, acc => columnSum gx gw (acc56Add acc (groupResult xs ws cx cw))
  | _, _, acc => acc

/-- Cuts a list into groups of 32. -/
def groups32 {α : Type} : Nat → List α → List (List α)
  | 0, _ => []
  | k + 1, l => if l.isEmpty then [] else l.take 32 :: groups32 k (l.drop 32)

/-! ### ARR_PASS -/

/-- The set an ARR_PASS uses: that of the most recent load issued to its array (R81); none where no load has been
issued, or a repair or reset has left the set with JOB 0x000. -/
def ArrSt.passTag (a : ArrSt) : Option SetTag :=
  (match a.curSet with | some i => a.tagged[i]? | none => none).filter fun t => t.job ≠ 0

/-- Table 2.9, and Table 6.7 for a pass. The pair and SPLIT checks (0x21, 0x28) hold for a DRAIN_ONLY pass as for any other
(log entry 44); a field that must be zero in the chosen mode is checked for that alone, 0x29, and with OUT_MODE 3, which no mode uses, OUT_OBJ is
no handle to check, so that the cause is 0x29 (DESIGN CHOICE, log entry 58). -/
def passCauses (m : Mod) (c phase job d : Nat) : List Nat :=
  let p := passOp d
  let a := m.arr! c (p.array % 2)
  let tag := a.passTag.getD { rows := 0, cols := 0 }
  let known := a.passTag.isSome
  let mo := m.objOfJob p.mov job
  let oo := m.objOfJob p.out job
  let writes := p.mode = 1 || p.mode = 2
  let int8 := p.mfmt = 8 && (!known || tag.fmt = 8)
  let ofmtOk := match p.mode with
    | 1 => decide (p.ofmt ≤ 7) || (p.ofmt = 8 && int8)
    | 2 => p.ofmt = 9
    | _ => p.ofmt = 0
  let msz := swapIf p.xpose (p.mrow + p.m) (p.mcol + tag.rows)
  let layer := m.layer! p.layer
  causeIf (decide (2 ≤ p.array)) 0x20 ++
  causeIf (decide (8 < p.mfmt) || (known && !pairOk tag.fmt p.mfmt) || !ofmtOk ||
    (!p.drain && (match mo with | some o => o.fmt ≠ p.mfmt | none => false)) ||
    (writes && (match oo with | some o => o.fmt ≠ p.ofmt || (o.blockScaled && o.axis = 1) | none => false))) 0x21 ++
  causeIf (p.m = 0 || decide (2048 < p.m) || decide (2048 < p.base + p.m)) 0x22 ++
  causeIf ((!p.drain && mo.isNone) || (writes && oo.isNone)) 0x23 ++
  causeIf ((!p.drain && (match mo with | some o => decide (o.rows < msz.1) || decide (o.cols < msz.2) | none => false)) ||
    (writes && (match oo with | some o => decide (o.rows < p.orow + p.m) || decide (o.cols < p.on + tag.cols) | none => false))) 0x24 ++
  causeIf (match a.passTag with | some t => t.job ≠ job | none => true) 0x25 ++
  causeIf ((p.accum || p.drain) && (List.range p.m).any fun i => (Tab.get {} a.tags (p.base + i)).job ≠ job || job = 0) 0x26 ++
  causeIf (p.diag ≠ 0 && (p.mfmt = 7 || p.split ≠ 0 || p.mfmt = 0 || p.drain)) 0x27 ++
  causeIf (if p.mfmt = 0 then p.split = 0 else p.split ≠ 0) 0x28 ++
  causeIf (p.rsv ≠ 0 || p.mode = 3 || p.cls = 3 || (p.drain && p.mode = 0) ||
    (p.mode = 0 && (p.out ≠ 0 || p.orow ≠ 0 || p.on ≠ 0 || p.stoch)) ||
    (p.drain && (p.mov ≠ 0 || p.mrow ≠ 0 || p.mcol ≠ 0 || p.accum))) 0x29 ++
  causeIf (p.xpose && !p.drain && (match mo with | some o => o.blockScaled && o.axis ≠ 1 | none => false)) 0x2A ++
  causeIf (p.cls = 1 && p.mode = 1 && (layer.job ≠ job || p.ofmt ≠ layer.cfg.actFmt)) 0x2B ++
  causeIf (phase = 1 && layer.cfg.frozen && !layer.cfg.passThrough) 0x2C ++
  causeIf (phase = 1 && p.out ≠ 0 && (m.layersOf job).any fun l =>
    let y := (m.layer! l).cfg
    y.frozen && (y.objs[0]? = some p.out || y.objs[1]? = some p.out)) 0x2D ++
  causeIf (p.xpose && p.diag ≠ 0) 0x2E

def passPins (m : Mod) (c d : Nat) : List (Nat × Nat × Nat) :=
  let p := passOp d
  let tag := ((m.arr! c (p.array % 2)).passTag).getD {}
  let at0 := swapIf p.xpose p.mrow p.mcol
  let n := swapIf p.xpose p.m tag.rows
  (if p.drain then [] else regionPins m p.mov c at0.1 n.1 at0.2 n.2) ++
    (if p.mode = 0 then [] else regionPins m p.out c p.orow p.m p.on tag.cols)

/-- The object position of element k of moving row i; with DIAG_REUSE a follower row uses its leader's earlier token
(R76). -/
def PassOp.movPos (p : PassOp) (i k : Nat) : Nat × Nat :=
  let j := k % (p.diag + 1)
  if p.diag ≠ 0 ∧ j ≠ 0 ∧ j ≤ i then swapIf p.xpose (p.mrow + (i - j)) (p.mcol + (k - j))
  else swapIf p.xpose (p.mrow + i) (p.mcol + k)

/-- The groups of moving row i over the set's ROWS (R56, R137). A group takes the block code of the element that stands at
k = 32g of moving row i itself, also where DIAG_REUSE forwards another row's token there (log entry 58). -/
def PassOp.movRow (p : PassOp) (o : Obj) (rows i : Nat) : List (List Val × Nat) :=
  let xs := (List.range rows).map fun k => let q := p.movPos i k; splitMov p.split (o.bare q.1 q.2)
  let cx := fun g => if o.blockScaled then let q := swapIf p.xpose (p.mrow + i) (p.mcol + 32 * g); o.blockCode q.1 q.2 else 127
  let gs := groups32 32 xs
  (gs.zip (List.range gs.length)).map fun g => (g.1, cx g.2)

/-- The groups of column n of a stationary set. -/
def ASet.column (a : ASet) (split n : Nat) : List (List Val × Nat) :=
  let ws := (List.range a.rows).map fun k => splitSta split (elemVal a.fmt (Tab.get 0 a.el (k * 1024 + n)))
  let gs := groups32 32 ws
  (gs.zip (List.range gs.length)).map fun g => (g.1, if fmtBlock a.fmt then Tab.get 0x7F a.codes (g.2 * 1024 + n) else 127)

/-- s_X(m), the scale of the tile that holds the row's first element, and 1.0 off an FP8 pair (R139, R207, R220). -/
def PassOp.sx (p : PassOp) (o : Obj) (i : Nat) : Nat :=
  if o.fp8 then let q := swapIf p.xpose (p.mrow + i) p.mcol; o.tileScale (o.tileOf q.1 q.2) else 0x3F800000

/-- The seed under a change of the recorded pair (R140): one rounding. -/
def reseed (w sxo swo sxn swn : Nat) : Nat :=
  if sxo = sxn ∧ swo = swn then w
  else
    let f := ((f32 sxo).fr.mul (f32 swo).fr).div ((f32 sxn).fr.mul (f32 swn).fr)
    acc56Encode ((acc56Decode w).scale f)

/-- Writes the 1,024 entries of one entry row (R56, R87, R151): columns below the set's COLS from their sums; a column at
or beyond COLS meets +0 cells, so it is NaN where a moving element is not finite and its seed otherwise. The row's JOB is
that of the pass most recently issued to write it (R93, issuePass). -/
def ArrSt.writeEntryRow (a : ArrSt) (p : PassOp) (cols : List (List (List Val × Nat))) (row : List (List Val × Nat))
    (r sxn swn : Nat) : ArrSt :=
  let t := Tab.get {} a.tags r
  let seed := fun n => if p.accum then reseed (Tab.get 0 a.sump (r * 1024 + n)) t.sx t.sw sxn swn else 0
  let vals := (cols.zip (List.range cols.length)).map fun cn => columnSum row cn.1 (seed cn.2)
  let bad := row.any fun g => g.2 = 0xFF || g.1.any fun v => !v.isFinite
  let rest := (List.range (1024 - cols.length)).map fun i =>
    if bad then acc56Nan else acc56Add (seed (cols.length + i)) 0
  { a with
    sump := Tab.setMany 0 a.sump (r * 1024) (vals ++ rest)
    tags := Tab.set {} a.tags r { t with sx := sxn, sw := swn } }

/-- The entries a pass writes (R86, R87): every moving row in order. -/
def ArrSt.runPass (a : ArrSt) (p : PassOp) (o : Obj) (s : ASet) : ArrSt :=
  let cols := (List.range s.cols).map (s.column p.split)
  (List.range p.m).foldl (fun a i =>
    a.writeEntryRow p cols (p.movRow o s.rows i) (p.base + i) (p.sx o i) (if o.fp8 then s.sw else 0x3F800000)) a

/-- The drained values of the entry rows (R163): the accumulator times the recorded pair. -/
def ArrSt.drainSrcs (a : ArrSt) (p : PassOp) (cols : Nat) : List Src :=
  (List.range p.m).flatMap fun i =>
    let t := Tab.get {} a.tags (p.base + i)
    let f := (f32 t.sx).fr.mul (f32 t.sw).fr
    (List.range cols).map fun n =>
      { r := p.orow + i, c := p.on + n, v := (acc56Decode (Tab.get 0 a.sump ((p.base + i) * 1024 + n))).scale f }

/-- SPILL writes the accumulators themselves (R163). -/
def ArrSt.spill (a : ArrSt) (p : PassOp) (cols : Nat) (o : Obj) : Obj :=
  (List.range p.m).foldl (fun o i => o.writeRow (p.orow + i) p.on
    ((List.range cols).map fun n => Tab.get 0 a.sump ((p.base + i) * 1024 + n))) o

/-- Whether a group's residue differs from its prediction, or its ACC56 addition from the second one (R110, R112). -/
def groupWrong (l : Nat) (xs ws : List Val) (rs : List Nat) (acc g : Nat) : Bool :=
  let s := ((xs.zip ws).foldl (fun (q : Group1) p => q.add (p.1.mul p.2)) {}).s
  let side := ((xs.zip ws).zip rs).foldl (fun a p => a + cellResidue l p.1.1 p.1.2 p.2) 0
  decide (((s.mul (Fr.pow2 l)).num % 3).toNat ≠ side % 3) || decide (acc56Add acc g ≠ acc56Add acc g)

/-- The groups of a column whose check fails for one moving row, from group `g` on. -/
def wrongGroups (l : Nat) : List (List Val × Nat) → List (List Val × Nat) → List (List Nat) → Nat → Nat → List Nat
  | (xs, cx) :: gx, (ws, cw) :: gw, rs :: gr, g, acc =>
    let r := groupResult xs ws cx cw
    causeIf (groupWrong l xs ws rs acc r) g ++ wrongGroups l gx gw gr (g + 1) (acc56Add acc r)
  | _, _, _, _, _ => []

/-- The residues of column n, in groups. -/
def ASet.residueColumn (a : ASet) (split n : Nat) : List (List Nat) :=
  groups32 32 ((List.range a.rows).map fun k => Tab.get 0 (if split = 2 then a.resLo else a.res) (k * 1024 + n))

/-- Every (group, column) of a pass whose check fails (R110, R112): none while the stored elements and their residues
agree. -/
def PassOp.wrong (p : PassOp) (o : Obj) (s : ASet) : List (Nat × Nat) :=
  ((List.range s.cols).flatMap fun n =>
    let ws := s.column p.split n
    let rs := s.residueColumn p.split n
    ((List.range p.m).flatMap fun i => wrongGroups (groupUnit p.mfmt) (p.movRow o s.rows i) ws rs 0 0).map fun g => (g, n)).eraseDups

/-- A pass: its sump entries, then its drain of the columns below `cols` (R89, R92). -/
def Mod.runPass (m : Mod) (c job d : Nat) (set : ASet) (cols : Nat) : Mod :=
  let p := passOp d
  let ai := p.array % 2
  let m := if p.drain then m else
    match m.objAny p.mov with
    | some o => m.onArr c ai fun a => a.runPass p o set
    | none => m
  let a := m.arr! c ai
  match p.mode with
  | 1 => m.convWrite { job := job, layer := p.layer, cls := p.cls, seq := dSeq d, core := c, engine := ai, stoch := p.stoch } p.out
      (a.drainSrcs p cols)
  | 2 => (m.onObj p.out fun o => { a.spill p cols o with written := true }).touch p.out
      (match m.objAny p.out with
        | some o => (List.range p.m).flatMap fun i => (List.range cols).map fun n => o.lin (p.orow + i) (p.on + n)
        | none => [])
  | _ => m

end Sys2Proof.Machine
end

