-- ==== Sys2Proof/Machine/Sync.lean ====
section
/-! DEFINITION. Sync objects (R387 to R395, R413): binding, signals, satisfaction, re-initialisation; the bodies of
SYNC_WAIT, SYNC_SIGNAL and BARRIER (Tables 11.4 to 11.6) and their checks (Table 11.7). -/
namespace Sys2Proof.Machine

/-! ### Bodies -/

structure WaitOp where
  obj : Nat
  act : Bool
  toEn : Bool
  toId : Nat
  amount : Nat
  timeout : Nat
  rsv : Nat
  deriving DecidableEq, Repr

def waitOp (d : Nat) : WaitOp :=
  { obj := fld (byf d 16 1) 0 6, act := bit (byf d 17 1) 0, toEn := bit (byf d 17 1) 1, toId := fld (byf d 18 1) 0 6,
    amount := byf d 20 4, timeout := byf d 24 8,
    rsv := fld (byf d 16 1) 6 2 + fld (byf d 17 1) 2 6 + fld (byf d 18 1) 6 2 + byf d 19 1 + byf d 32 32 }

structure SigOp where
  obj : Nat
  core : Nat
  set : Bool
  value : Nat
  rsv : Nat
  deriving DecidableEq, Repr

def sigOp (d : Nat) : SigOp :=
  { obj := fld (byf d 16 1) 0 6, core := fld (byf d 17 1) 0 2, set := bit (byf d 17 1) 2, value := byf d 20 4,
    rsv := fld (byf d 16 1) 6 2 + fld (byf d 17 1) 3 5 + byf d 18 2 + byf d 24 40 }

structure BarOp where
  bar : Nat
  scope : Nat
  verdict : Bool
  src : Nat
  dst : Nat
  timeout : Nat
  rsv : Nat
  deriving DecidableEq, Repr

def barOp (d : Nat) : BarOp :=
  { bar := fld (byf d 16 1) 0 6, scope := fld (byf d 16 1) 6 1, verdict := bit (byf d 16 1) 7, src := byf d 20 4,
    dst := byf d 24 4, timeout := byf d 32 8, rsv := byf d 17 3 + byf d 28 4 + byf d 40 24 }

/-! ### Objects -/

def Mod.sync! (m : Mod) (c i : Nat) : SyncObj := Tab.get {} (m.core! c).sync i
def Mod.onSync (m : Mod) (c i : Nat) (f : SyncObj → SyncObj) : Mod :=
  m.onCore c fun x => { x with sync := Tab.upd {} x.sync i f }
def Mod.bar! (m : Mod) (c j : Nat) : Bar := Tab.get {} (m.core! c).bars j
def Mod.onBar (m : Mod) (c j : Nat) (f : Bar → Bar) : Mod := m.onCore c fun x => { x with bars := Tab.upd {} x.bars j f }
def Mod.mbar! (m : Mod) (j : Nat) : Bar := Tab.get {} m.col.mbar j
def Mod.onMbar (m : Mod) (j : Nat) (f : Bar → Bar) : Mod :=
  { m with col := { m.col with mbar := Tab.upd {} m.col.mbar j f } }
/-- The barrier of a scope: 0 a core barrier, 1 a module barrier. -/
def Mod.barOf (m : Mod) (scope c j : Nat) : Bar := if scope = 0 then m.bar! c j else m.mbar! j
def Mod.onBarOf (m : Mod) (scope c j : Nat) (f : Bar → Bar) : Mod := if scope = 0 then m.onBar c j f else m.onMbar j f

/-- The upper limit of an object's value (R391). -/
def SyncObj.limit (o : SyncObj) : Nat := if o.observe then 2 ^ 32 - 1 else 65535

/-- A sync object is bound to a job. -/
def Mod.syncBound (m : Mod) (c i job : Nat) : Bool := decide (i < 48) && (m.sync! c i).job = job

/-- A signal reaches an object (R392): SET replaces, ADD stops at the limit, which records event 0x6001 once per object
and step, replays included. An object that no job has bound takes none. -/
def Mod.signal (m : Mod) (c i : Nat) (set : Bool) (v : Nat) : Mod :=
  let o := m.sync! c i
  let k := 64 * c + i
  if o.job = 0 then m else
    let m := m.synCnt c 0x10 1
    if set then m.onSync c i fun o => { o with value := v }
    else
      let m' := m.onSync c i fun o =>
        { o with value := min (o.value + v) o.limit, saturated := o.saturated || decide (o.limit < o.value + v) }
      if o.limit < o.value + v ∧ !(match m.job? o.job with | some j => j.satSeen.contains k | none => false) then
        (m'.onJob o.job fun j => { j with satSeen := k :: j.satSeen }).ev 0x6001 0 [(0, 1, c), (1, 1, i), (2, 2, o.job), (4, 8, m.stepOf o.job)]
      else m'

/-- An object satisfies a waiter for an amount or threshold (R394, R395). -/
def Mod.satisfied (m : Mod) (c i a : Nat) : Bool := decide (a ≤ (m.sync! c i).value)
/-- The waiter takes its amount from a CONSUME object. -/
def Mod.takeSync (m : Mod) (c i a : Nat) : Mod :=
  m.onSync c i fun o => if o.observe then o else { o with value := o.value - a }

/-! ### What a descriptor names -/

/-- The sync objects a descriptor names, as (core, object) (cause 0x40). -/
def descSyncs (c d : Nat) : List (Nat × Nat) :=
  (maskList 48 (dWait d)).map (fun i => (c, i)) ++ ((dSigA d).toList ++ (dSigB d).toList).map (fun i => (c, i)) ++
    (if dOp d = opSyncWait then
      let p := waitOp d
      (c, p.obj) :: (if p.toEn then [(c, p.toId)] else [])
    else if dOp d = opSyncSignal then [((sigOp d).core, (sigOp d).obj)] else [])

/-- The barriers a descriptor names, as (scope, core, barrier). -/
def descBars (c d : Nat) : List (Nat × Nat × Nat) :=
  if dOp d = opBarrier then [((barOp d).scope, if (barOp d).scope = 0 then c else 0, (barOp d).bar)] else []

/-! ### Re-initialisation (R390) -/

def SyncObj.reinit (o : SyncObj) : SyncObj := { o with value := o.init, saturated := false, due := false }
/-- A barrier at its initial values; arrivals held for a later step stay held (R408). -/
def Bar.reinit (b : Bar) : Bar :=
  { job := b.job, parties := b.parties, group := b.group, verdict := b.verdict, relFirst := b.relFirst, relLast := b.relLast,
    relChip := b.relChip, held := b.held }

/-- What the refresh lists of a job that hold a slot still name: on core c, sync objects and barriers. -/
def Mod.heldNames (m : Mod) (job : Nat) : List (Nat × Nat) × List (Nat × Nat × Nat) :=
  let ls := cores.flatMap fun c =>
    ((m.core! c).slots.filter fun (p : Nat × SlotSt) => p.2.l.job = job && p.2.l.refresh).map fun (p : Nat × SlotSt) => (c, p.2.l)
  (ls.flatMap fun cl => cl.2.descs.flatMap (descSyncs cl.1), ls.flatMap fun cl => cl.2.descs.flatMap (descBars cl.1))

/-- Returns a core's objects of a job to their initial values, but for those that a refresh list holding a slot names,
which follow when the last such list frees its slot. -/
def Mod.reinitCore (m : Mod) (job c : Nat) : Mod :=
  let held := m.heldNames job
  m.onCore c fun x => { x with
    sync := x.sync.map fun (p : Nat × SyncObj) =>
      (p.1, if p.2.job ≠ job then p.2 else if held.1.contains (c, p.1) then { p.2 with due := true } else p.2.reinit)
    bars := x.bars.map fun (p : Nat × Bar) =>
      (p.1, if p.2.job ≠ job then p.2 else if held.2.contains (0, c, p.1) then { p.2 with due := true } else p.2.reinit) }

def Mod.reinitObjects (m : Mod) (job : Nat) : Mod :=
  let held := m.heldNames job
  let m := cores.foldl (fun m c => m.reinitCore job c) m
  { m with col := { m.col with mbar := m.col.mbar.map fun (p : Nat × Bar) =>
      (p.1, if p.2.job ≠ job then p.2 else if held.2.contains (1, 0, p.1) then { p.2 with due := true } else p.2.reinit) } }

/-- Objects whose re-initialisation waited for a refresh list to free its slot. -/
def Mod.reinitDue (m : Mod) (job : Nat) : Mod :=
  let held := m.heldNames job
  let m := cores.foldl (fun m c => m.onCore c fun x => { x with
    sync := x.sync.map fun (p : Nat × SyncObj) =>
      (p.1, if p.2.job = job && p.2.due && !held.1.contains (c, p.1) then p.2.reinit else p.2)
    bars := x.bars.map fun (p : Nat × Bar) =>
      (p.1, if p.2.job = job && p.2.due && !held.2.contains (0, c, p.1) then p.2.reinit else p.2) }) m
  { m with col := { m.col with mbar := m.col.mbar.map fun (p : Nat × Bar) =>
      (p.1, if p.2.job = job && p.2.due && !held.2.contains (1, 0, p.1) then p.2.reinit else p.2) } }

/-! ### Checks (Table 11.7) -/

def bindCauses (m : Mod) (c job d : Nat) : List Nat :=
  causeIf ((descSyncs c d).any fun p => !m.syncBound p.1 p.2 job) 0x40

def waitCauses (m : Mod) (c d : Nat) : List Nat :=
  let p := waitOp d
  causeIf (p.amount = 0 || decide ((m.sync! c p.obj).limit < p.amount) || (p.toEn && !p.act)) 0x41 ++ causeIf (p.rsv ≠ 0) 0x46

def sigCauses (m : Mod) (d : Nat) : List Nat :=
  let p := sigOp d
  causeIf ((!p.set && (p.value = 0 || decide (65535 < p.value))) || (p.set && decide ((m.sync! p.core p.obj).limit < p.value))) 0x42 ++
  causeIf (p.rsv ≠ 0) 0x46

/-- An object of a job with the format and shape that R405 or R406 asks for. -/
def Mod.isRow (m : Mod) (h job cols : Nat) : Bool :=
  match m.objOfJob h job with
  | some o => o.fmt = 8 && o.rows = 1 && o.cols = cols
  | none => false

/-- The core that carries the verdict: C0, or the lowest unfenced core (R604). -/
def Mod.leadCore (m : Mod) : Nat := (cores.find? fun c => !(m.core! c).fenced).getD 0

def barCauses (m : Mod) (c phase job d : Nat) : List Nat :=
  let p := barOp d
  let b := m.barOf p.scope c p.bar
  causeIf ((p.scope = 0 && decide (8 ≤ p.bar)) || b.job ≠ job) 0x43 ++
  causeIf ((p.src ≠ 0 && !m.isRow p.src job 32) || (p.dst ≠ 0 && !m.isRow p.dst job 64)) 0x44 ++
  causeIf (p.verdict && (p.scope = 0 || phase ≠ 3 || c ≠ m.leadCore ||
    (match m.run? job with | some r => r.verdictSeen | none => false))) 0x45 ++
  causeIf (p.rsv ≠ 0) 0x46

end Sys2Proof.Machine
end

