-- ==== Sys2Proof/Machine/Transc.lean ====
section
/-! DEFINITION. The functions of Table 7.4 whose exact values are irrational, correctly rounded (R242, R243): the value
is enclosed between two fractions with more and more bits until both ends round to the same code. A fixed-point number
x at precision p stands for x / 2^p; every enclosure allows an error of 2^40 units, above what its series makes. -/
namespace Sys2Proof.Machine

def fixOf (p : Nat) (q : Fr) : Int := q.num * 2 ^ p / (q.den : Int)
def fixFr (p : Nat) (x : Int) : Fr := Fr.norm x (2 ^ p)
/-- The enclosure of a fixed-point result. -/
def around (p : Nat) (x : Int) : Fr × Fr := (fixFr p (x - 2 ^ 40), fixFr p (x + 2 ^ 40))

/-- Σ z^(2i+1) / (2i+1), with alternating signs where `alt`. -/
def oddSeries (p : Nat) (z2 : Int) (alt : Bool) : Nat → Nat → Int → Int → Int
  | 0, _, _, acc => acc
  | k + 1, i, pw, acc =>
    let t := pw / ((2 * i + 1 : Nat) : Int)
    oddSeries p z2 alt k (i + 1) (pw * z2 / 2 ^ p) (if alt ∧ i % 2 = 1 then acc - t else acc + t)

def atanhFix (p : Nat) (z : Int) : Int := oddSeries p (z * z / 2 ^ p) false p 0 z 0
def atanFix (p : Nat) (z : Int) : Int := oddSeries p (z * z / 2 ^ p) true p 0 z 0

/-- ln 2 = 2 artanh(1/3). -/
def ln2Fix (p : Nat) : Int := 2 * atanhFix p (2 ^ p / 3)
/-- π = 16 arctan(1/5) − 4 arctan(1/239). -/
def piFix (p : Nat) : Int := 16 * atanFix p (2 ^ p / 5) - 4 * atanFix p (2 ^ p / 239)

/-- Σ r^i / i!. -/
def expSeries (p : Nat) (r : Int) : Nat → Nat → Int → Int → Int
  | 0, _, _, acc => acc
  | k + 1, i, t, acc => expSeries p r k (i + 1) (t * r / 2 ^ p / ((i + 1 : Nat) : Int)) (acc + t)

/-- e^(x) for |x| below 200, enclosed. -/
def expEnc (x : Fr) (p : Nat) : Fr × Fr :=
  let l := ln2Fix p
  let xf := fixOf p x
  let k := (2 * xf + l) / (2 * l)
  let e := around p (expSeries p (xf - k * l) p 0 (2 ^ p) 0)
  (e.1.mul (Fr.pow2 k), e.2.mul (Fr.pow2 k))

/-- ln of a positive fraction, enclosed. -/
def lnEnc (x : Fr) (p : Nat) : Fr × Fr :=
  let e := x.log2
  let m := x.mul (Fr.pow2 (-e))
  let up := Fr.lt ⟨4, 3⟩ m
  let e := if up then e + 1 else e
  let m := if up then m.mul ⟨1, 2⟩ else m
  let z := (m.sub (Fr.ofInt 1)).div (m.add (Fr.ofInt 1))
  around p (2 * atanhFix p (fixOf p z) + e * ln2Fix p)

/-- Division of an enclosure by a positive one. -/
def divEnc (a b : Fr × Fr) : Fr × Fr :=
  (if a.1.neg? then a.1.div b.1 else a.1.div b.2, if a.2.neg? then a.2.div b.2 else a.2.div b.1)

/-- Σ (−1)^i r^(2i) / (2i)! (cosine) or r^(2i+1) / (2i+1)! (sine). -/
def trigSeries (p : Nat) (r2 : Int) : Nat → Nat → Int → Int → Int
  | 0, _, _, acc => acc
  | k + 1, i, t, acc => trigSeries p r2 k (i + 2) (-(t * r2 / 2 ^ p / (((i + 1) * (i + 2) : Nat) : Int))) (acc + t)

/-- sin (quarter 0) or cos (quarter 1) of x, enclosed, after reduction by multiples of π/2. -/
def sinEnc (quarter : Nat) (x : Fr) (p : Nat) : Fr × Fr :=
  let pp := p + 160
  let h := piFix pp / 2
  let xf := fixOf pp x
  let k := (2 * xf + h) / (2 * h)
  let r := (xf - k * h) / 2 ^ 160
  let n := ((k + quarter) % 4).toNat
  let r2 := r * r / 2 ^ p
  let s := if n % 2 = 0 then trigSeries p r2 p 1 r 0 else trigSeries p r2 p 0 (2 ^ p) 0
  around p (if 2 ≤ n then -s else s)

/-- Σ (−1)^i x^(2i+1) / (i! (2i+1)). -/
def erfSeries (p : Nat) (x2 : Int) : Nat → Nat → Int → Int → Int
  | 0, _, _, acc => acc
  | k + 1, i, t, acc =>
    erfSeries p x2 k (i + 1) (-(t * x2 / 2 ^ p / ((i + 1 : Nat) : Int))) (acc + t / ((2 * i + 1 : Nat) : Int))

/-- erf of a fraction below 4 in magnitude, enclosed. -/
def erfEnc (x : Fr) (p : Nat) : Fr × Fr :=
  let xf := fixOf p x
  let s := erfSeries p (xf * xf / 2 ^ p) p 0 xf 0
  let sp := (isqrt (piFix p * 2 ^ p).toNat : Int)
  divEnc (around p (2 * s)) (around p sp)

/-- 1/√x of a positive fraction, enclosed. -/
def rsqrtEnc (x : Fr) (p : Nat) : Fr × Fr :=
  let e := x.log2 / 2
  let m := x.mul (Fr.pow2 (-2 * e))
  let s := around p ((isqrt (fixOf (2 * p) m).toNat : Int))
  let r := divEnc (Fr.ofInt 1, Fr.ofInt 1) s
  (r.1.mul (Fr.pow2 (-e)), r.2.mul (Fr.pow2 (-e)))

/-- Rounds an enclosed value: with more bits until both ends agree. -/
def zivGo (t : Fmt) (enc : Nat → Fr × Fr) : List Nat → Nat → Nat
  | [], last => last
  | p :: ps, _ =>
    let e := enc p
    let a := t.encode .rne (Val.of e.1)
    if a = t.encode .rne (Val.of e.2) then a else zivGo t enc ps a

def ziv (t : Fmt) (enc : Nat → Fr × Fr) : Val := t.decode (zivGo t enc [128, 256, 512, 1024, 2048] 0)

/-- An increasing function of an enclosed value. -/
def mapEnc (f : Fr → Fr) (e : Fr × Fr) : Fr × Fr := (f e.1, f e.2)

def one : Val := .fin (Fr.ofInt 1)

/-! The functions; `t` is the lane format (Table 7.5 gives the special cases). -/

def fnExp (t : Fmt) (x : Val) : Val :=
  match x with
  | .nan => .nan
  | .inf n => if n then .pos0 else .inf false
  | .zero _ => one
  | .fin q =>
    if Fr.le (Fr.ofInt 150) q then .inf false
    else if Fr.le q (Fr.ofInt (-150)) then .pos0
    else ziv t (expEnc q)

def fnExp2 (t : Fmt) (x : Val) : Val :=
  match x with
  | .nan => .nan
  | .inf n => if n then .pos0 else .inf false
  | .zero _ => one
  | .fin q =>
    if Fr.le (Fr.ofInt 200) q then .inf false
    else if Fr.le q (Fr.ofInt (-200)) then .pos0
    else if q.den = 1 then t.decode (t.encode .rne (.fin (Fr.pow2 q.num)))
    else ziv t fun p =>
      let k := q.floor
      let e := around p (expSeries p (fixOf p (q.sub (Fr.ofInt k)) * ln2Fix p / 2 ^ p) p 0 (2 ^ p) 0)
      (e.1.mul (Fr.pow2 k), e.2.mul (Fr.pow2 k))

def fnLog (t : Fmt) (x : Val) : Val :=
  match x with
  | .nan => .nan
  | .inf n => if n then .nan else .inf false
  | .zero _ => .inf true
  | .fin q => if q.neg? then .nan else if q = Fr.ofInt 1 then .pos0 else ziv t (lnEnc q)

def fnLog2 (t : Fmt) (x : Val) : Val :=
  match x with
  | .nan => .nan
  | .inf n => if n then .nan else .inf false
  | .zero _ => .inf true
  | .fin q =>
    if q.neg? then .nan
    else if q = Fr.pow2 q.log2 then Val.of (Fr.ofInt q.log2)
    else ziv t fun p => divEnc (lnEnc q p) (around p (ln2Fix p))

def fnTanh (t : Fmt) (x : Val) : Val :=
  match x with
  | .nan => .nan
  | .inf n => if n then one.neg else one
  | .zero n => .zero n
  | .fin q =>
    if Fr.le (Fr.ofInt 50) q then one
    else if Fr.le q (Fr.ofInt (-50)) then one.neg
    else ziv t fun p => mapEnc (fun e => (e.sub (Fr.ofInt 1)).div (e.add (Fr.ofInt 1))) (expEnc (q.mul (Fr.ofInt 2)) p)

def fnSigmoid (t : Fmt) (x : Val) : Val :=
  match x with
  | .nan => .nan
  | .inf n => if n then .pos0 else one
  | .zero _ => .fin ⟨1, 2⟩
  | .fin q =>
    if Fr.le (Fr.ofInt 150) q then one
    else if Fr.le q (Fr.ofInt (-150)) then .pos0
    else ziv t fun p => mapEnc (fun e => e.div (e.add (Fr.ofInt 1))) (expEnc q p)

def fnErf (t : Fmt) (x : Val) : Val :=
  match x with
  | .nan => .nan
  | .inf n => if n then one.neg else one
  | .zero n => .zero n
  | .fin q =>
    if Fr.le (Fr.ofInt 4) q then one
    else if Fr.le q (Fr.ofInt (-4)) then one.neg
    else ziv t (erfEnc q)

def fnSin (t : Fmt) (x : Val) : Val :=
  match x with
  | .nan => .nan
  | .inf _ => .nan
  | .zero n => .zero n
  | .fin q => ziv t (sinEnc 0 q)

def fnCos (t : Fmt) (x : Val) : Val :=
  match x with
  | .nan => .nan
  | .inf _ => .nan
  | .zero _ => one
  | .fin q => ziv t (sinEnc 1 q)

def fnRsqrt (t : Fmt) (x : Val) : Val :=
  match x with
  | .nan => .nan
  | .inf n => if n then .nan else .pos0
  | .zero n => .inf n
  | .fin q => if q.neg? then .nan else ziv t (rsqrtEnc q)

/-- The square root in a lane format: one rounding of the exact root. -/
def fnSqrt (t : Fmt) (x : Val) : Val :=
  match x with
  | .nan => .nan
  | .inf n => if n then .nan else .inf false
  | .zero n => .zero n
  | .fin q =>
    if q.neg? then .nan else
      let e := q.log2 / 2
      let k := q.sqrtRne (e - t.f)
      Val.of ((Fr.ofInt k).mul (Fr.pow2 (e - t.f)))

end Sys2Proof.Machine
end

