-- ==== Sys2Proof/Machine/Vector.lean ====
section
/-! DEFINITION. The vector engine (07): recipes, list fault checks (Table 7.8), pins, and what a descriptor writes. -/
namespace Sys2Proof.Machine

/-! ### Recipes (Tables 7.1 to 7.4, R237, R245) -/

def rcSteps (w : Nat) : Nat := fld w 0 4
def rcBf16 (w : Nat) : Bool := bit w 4
/-- IN_MODE of input i. -/
def rcMode (w i : Nat) : Nat := fld (byf w 1 1) (2 * i) 2
def rcRedB (w : Nat) : Nat := fld (byf w 2 1) 0 3
def rcRedBEn (w : Nat) : Bool := bit (byf w 2 1) 3
def rcWord (w i : Nat) : Nat := byf w (32 + 4 * i) 4
def stFunc (s : Nat) : Nat := fld s 0 8
/-- The three source codes of a step word. -/
def stSrcs (s : Nat) : List Nat := [fld s 8 5, fld s 13 5, fld s 18 5]
def rcWords (w : Nat) : List Nat := (List.range (rcSteps w)).map (rcWord w)

/-- Sources that a function uses (Table 7.4); none where FUNC is not in the table. -/
def funcArity (f : Nat) : Option Nat :=
  match f with
  | 0x00 => some 1 | 0x01 => some 2 | 0x02 => some 2 | 0x03 => some 2 | 0x04 => some 3 | 0x05 => some 2 | 0x06 => some 2
  | 0x07 => some 1 | 0x08 => some 1 | 0x09 => some 2 | 0x0A => some 2 | 0x0B => some 2 | 0x0C => some 3 | 0x0D => some 0
  | 0x10 => some 1 | 0x11 => some 2 | 0x12 => some 1 | 0x13 => some 1
  | 0x18 => some 1 | 0x19 => some 1 | 0x1A => some 1 | 0x1B => some 1 | 0x1C => some 1 | 0x1D => some 1
  | 0x20 => some 1 | 0x21 => some 1 | 0x22 => some 1
  | _ => none

/-- Lane slots of a function (Table 7.4). -/
def funcSlots (f : Nat) : Nat :=
  if f ≤ 0x0D then 1 else if f ≤ 0x13 then 2 else if f ≤ 0x1D then 4 else 8

/-- A source code that step i may use (R237). -/
def srcOk (w i c : Nat) : Bool :=
  decide (c ≤ 3) || (decide (4 ≤ c ∧ c ≤ 7) && rcMode w (c - 4) ≠ 0) || (decide (8 ≤ c ∧ c ≤ 11) && rcMode w (c - 8) = 2) ||
    c = 0x0C || c = 0x0D || decide (0x10 ≤ c ∧ c < 0x10 + i)

def stepOk (w i : Nat) : Bool :=
  let s := rcWord w i
  match funcArity (stFunc s) with
  | none => false
  | some n => fld s 23 9 = 0 && ((stSrcs s).take n).all (srcOk w i) && ((stSrcs s).drop n).all (· = 0)

/-- A recipe that is not broken (R237, R245). -/
def recipeOk (w : Nat) : Bool :=
  let n := rcSteps w
  decide (1 ≤ n ∧ n ≤ 8) && fld w 5 3 = 0 && fld (byf w 2 1) 4 4 = 0 && byf w 3 29 = 0 &&
    (List.range n).all (stepOk w) && byf w (32 + 4 * n) (32 - 4 * n) = 0 && (!rcRedBEn w || decide (rcRedB w < n))

def CoreSt.recipe? (x : CoreSt) (job task idx : Nat) : Option Nat :=
  (x.recipes.find? fun r => r.job = job && r.task = task && r.idx = idx).map (·.w)

/-- Recipe column 1 of row-broadcast input i is used. -/
def rcUsesCol1 (w i : Nat) : Bool := (rcWords w).any fun s => (stSrcs s).contains (8 + i)
def rcHasRndu (w : Nat) : Bool := (rcWords w).any fun s => stFunc s = 0x0D
/-- C of R254. -/
def rcSlots (w : Nat) : Nat := (rcWords w).foldl (fun a s => a + funcSlots (stFunc s)) 0

/-! ### Functions (R242 to R244) -/

def laneFmt (bf16 : Bool) : Fmt := if bf16 then .bf16 else .fp32
/-- One rounding to the lane format (R239, R242). -/
def laneRound (t : Fmt) (v : Val) : Val := t.decode (t.encode .rne v)

/-- MIN and MAX: a NaN gives NaN; of +0 and −0 the least is −0, the greatest +0 (Table 7.5). -/
def vMin (x y : Val) : Val :=
  if x.isNan || y.isNan then .nan else if x.isZero && y.isZero then .zero (x.sign || y.sign) else if y.lt x then y else x
def vMax (x y : Val) : Val :=
  if x.isNan || y.isNan then .nan else if x.isZero && y.isZero then .zero (x.sign && y.sign) else if x.lt y then y else x

def truth (b : Bool) : Val := if b then one else .pos0

/-- RNDU (R244). -/
def rndu (imm64 idx : Nat) : Val :=
  Val.of (Fr.norm ((mix64 (BitVec.ofNat 64 imm64 ^^^ BitVec.ofNat 64 idx)).toNat / 2 ^ 40 : Nat) (2 ^ 24))

/-- The value of a function on lane values: the exact result rounded once (R242, R243). RNDU is rounded like every function's result,
so a BF16 lane may hold 1.0, though R244 calls its value exact (DESIGN CHOICE, log entry 85). -/
def laneFunc (t : Fmt) (f : Nat) (x y z rnd : Val) : Val :=
  match f with
  | 0x00 => laneRound t x
  | 0x01 => laneRound t (x.add y)
  | 0x02 => laneRound t (x.sub y)
  | 0x03 => laneRound t (x.mul y)
  | 0x04 => laneRound t ((x.mul y).add z)
  | 0x05 => laneRound t (vMin x y)
  | 0x06 => laneRound t (vMax x y)
  | 0x07 => laneRound t x.abs
  | 0x08 => laneRound t x.neg
  | 0x09 => truth (y.lt x)
  | 0x0A => truth (y.le x)
  | 0x0B => truth (x.eq y)
  | 0x0C => laneRound t (if x.isZero then z else y)
  | 0x0D => laneRound t rnd
  | 0x10 => laneRound t (one.div x)
  | 0x11 => laneRound t (x.div y)
  | 0x12 => fnSqrt t x
  | 0x13 => fnRsqrt t x
  | 0x18 => fnExp t x
  | 0x19 => fnExp2 t x
  | 0x1A => fnLog t x
  | 0x1B => fnLog2 t x
  | 0x1C => fnTanh t x
  | 0x1D => fnSigmoid t x
  | 0x20 => fnErf t x
  | 0x21 => fnSin t x
  | _ => fnCos t x

/-! ### The window (R238, R239) -/

/-- What one element position reads. -/
structure Lane where
  ins : List Val
  col1 : List Val
  immA : Val
  immB : Val
  c : Val
  r : Val
  rnd : Val

def Lane.src (l : Lane) (steps : List Val) (code : Nat) : Val :=
  match code with
  | 0 => .pos0
  | 1 => one
  | 2 => l.immA
  | 3 => l.immB
  | 0x0C => l.c
  | 0x0D => l.r
  | c => if c < 8 then l.ins.getD (c - 4) .pos0 else if c < 12 then l.col1.getD (c - 8) .pos0 else steps.getD (c - 16) .pos0

/-- The values of every step, in order (R234). -/
def Lane.steps (l : Lane) (t : Fmt) (ws : List Nat) : List Val :=
  ws.foldl (fun vs s =>
    vs ++ [laneFunc t (stFunc s) (l.src vs (fld s 8 5)) (l.src vs (fld s 13 5)) (l.src vs (fld s 18 5)) l.rnd]) []

/-- C_w: O's columns, or for a row reduction those of the element and column-broadcast inputs (R238). -/
def vecCols (m : Mod) (p : VecOp) (w : Nat) (reduce : Bool) : Option Nat :=
  if reduce && p.axis = 0 then
    ((List.range 4).filterMap fun i => if rcMode w i = 1 ∨ rcMode w i = 3 then (m.obj? (p.inp.getD i 0)).map (·.cols) else none).head?
  else (m.obj? p.out).map (·.cols)

/-- Input i of element (r, c) of the window, as a lane value; `j` is the column of a row-broadcast input. -/
def laneIn (m : Mod) (p : VecOp) (w : Nat) (r c j i : Nat) : Val :=
  match m.objAny (p.inp.getD i 0) with
  | none => .pos0
  | some o =>
    let t := laneFmt (rcBf16 w)
    match rcMode w i with
    | 1 => laneRound t (o.value (p.row0 + r) c)
    | 2 => laneRound t (o.value (p.row0 + r) j)
    | 3 => laneRound t (o.value 0 c)
    | _ => .pos0

def natVal (n : Nat) : Val := Val.of (Fr.ofInt n)

/-- The step values of the element (r, c) of the window. -/
def laneAt (m : Mod) (p : VecOp) (w cw r c : Nat) : List Val :=
  let l : Lane :=
    { ins := (List.range 4).map (laneIn m p w r c 0), col1 := (List.range 4).map (laneIn m p w r c 1),
      immA := f32 p.immA, immB := f32 p.immB, c := natVal c, r := natVal r, rnd := rndu p.imm64 ((p.row0 + r) * cw + c) }
  l.steps (laneFmt (rcBf16 w)) (rcWords w)

/-! ### Reductions (R246, R247) -/

/-- apply32 of R246: SUM, MAX, MIN. -/
def redApply (op : Nat) (a b : Val) : Val := match op with | 0 => f32Add a b | 1 => vMax a b | _ => vMin a b

/-- node of R246 over a run of values padded to 2^k. -/
def treeNode (op : Nat) : Nat → List Val → Val
  | 0, vs => vs.headD .pos0
  | k + 1, vs =>
    let right := vs.drop (2 ^ k)
    if right.isEmpty then treeNode op k vs else redApply op (treeNode op k (vs.take (2 ^ k))) (treeNode op k right)

/-- tree of R246. -/
def redTree (op : Nat) (vs : List Val) : Val :=
  let n := vs.length
  treeNode op (if n ≤ 1 then 0 else Nat.log2 (n - 1) + 1) vs

/-! ### Checks (Table 7.8) -/

def vecShapeBad (m : Mod) (p : VecOp) (w : Nat) (reduce : Bool) : Bool :=
  let o := m.obj? p.out
  let cw := vecCols m p w reduce
  let nRes := if rcRedBEn w then 2 else 1
  (match cw with | none => true | some _ => false) ||
  (match o with
    | none => false
    | some o =>
      decide (16777216 < o.cols) ||
      (if !reduce then decide (o.rows < p.row0 + p.rows)
      else if p.axis = 0 then o.cols ≠ nRes || decide (o.rows < p.row0 + p.rows)
      else o.rows ≠ nRes)) ||
  (List.range 4).any fun i =>
    match m.obj? (p.inp.getD i 0) with
    | none => false
    | some x =>
      match rcMode w i with
      | 1 => some x.cols ≠ cw || decide (x.rows < p.row0 + p.rows)
      | 2 => decide (x.cols ≠ 1 ∧ x.cols ≠ 2) || decide (x.rows < p.row0 + p.rows) || (rcUsesCol1 w i && x.cols ≠ 2)
      | 3 => x.rows ≠ 1 || some x.cols ≠ cw
      | _ => false

def vecCauses (m : Mod) (c task job d : Nat) (reduce : Bool) : List Nat :=
  let p := vecOp d
  match ((m.core! c).recipe? job task p.recipe).filter recipeOk with
  | none => [0x80]
  | some w =>
    let used := fun i => decide (rcMode w i ≠ 0)
    let hs := (List.range 4).map fun i => p.inp.getD i 0
    let isNull := fun (h : Nat) => decide (h = 0)
    let o := m.objOfJob p.out job
    causeIf (isNull p.out || (List.range 4).any fun i => used i = isNull (hs.getD i 0)) 0x81 ++
    causeIf (o.isNone || (List.range 4).any fun i => used i && (m.objOfJob (hs.getD i 0) job).isNone) 0x82 ++
    causeIf (vecShapeBad m p w reduce) 0x83 ++
    causeIf (match o with
      | none => false
      | some o =>
        decide (8 < o.fmt) || (o.blockScaled && (o.cols % 32 ≠ 0 || o.axis = 1)) || (reduce && p.accum && o.fmt ≠ 0) ||
        ((List.range 4).any fun i => decide (2 ≤ rcMode w i) && hs.getD i 0 = p.out) ||
        (m.core! c).infl.any fun f => (dOp f.d = opVecStream || dOp f.d = opVecReduce) && (vecOp f.d).out = p.out) 0x84 ++
    causeIf (p.cls = 3 || (p.cls = 1 && ((m.layer! p.layer).job ≠ job ||
      (match o with | some o => o.fmt ≠ (m.layer! p.layer).cfg.actFmt | none => false)))) 0x85 ++
    causeIf (p.redOp = 3 || p.rsv ≠ 0 || (!rcHasRndu w && p.imm64 ≠ 0) ||
      (!reduce && (rcRedBEn w || p.axis ≠ 0 || p.accum || p.redOp ≠ 0))) 0x86 ++
    causeIf (p.rows = 0 || decide (16777216 < p.rows)) 0x87

/-- Tiles read and written, pinned in the core's Pantry (R96). -/
def vecPins (m : Mod) (c task job d : Nat) (reduce : Bool) : List (Nat × Nat × Nat) :=
  let p := vecOp d
  match (m.core! c).recipe? job task p.recipe with
  | none => []
  | some w =>
    let cw := (vecCols m p w reduce).getD 0
    let ins := (List.range 4).flatMap fun i =>
      let h := p.inp.getD i 0
      match rcMode w i with
      | 1 => regionPins m h c p.row0 p.rows 0 cw
      | 2 => regionPins m h c p.row0 p.rows 0 (match m.obj? h with | some o => o.cols | none => 0)
      | 3 => regionPins m h c 0 1 0 cw
      | _ => []
    let out := match m.obj? p.out with
      | none => []
      | some o => if reduce && p.axis = 1 then regionPins m p.out c 0 o.rows 0 o.cols
          else regionPins m p.out c p.row0 p.rows 0 o.cols
    ins ++ out

/-! ### What a descriptor writes (R238 to R249) -/

def streamSrcs (m : Mod) (p : VecOp) (w cw : Nat) : List Src :=
  (List.range p.rows).flatMap fun r => (List.range cw).map fun c =>
    { r := p.row0 + r, c := c, v := (laneAt m p w cw r c).getLastD .pos0 }

/-- Results A and, with RED_B_EN, B, of a run of element positions. -/
def reduceAt (m : Mod) (p : VecOp) (w cw : Nat) (pos : List (Nat × Nat)) : List Val :=
  let vs := pos.map fun q => laneAt m p w cw q.1 q.2
  let a := redTree p.redOp (vs.map fun l => l.getLastD .pos0)
  if rcRedBEn w then [a, redTree p.redOp (vs.map fun l => l.getD (rcRedB w) .pos0)] else [a]

def reduceSrcs (m : Mod) (p : VecOp) (w cw : Nat) (o : Obj) : List Src :=
  let fin := fun (r c : Nat) (v : Val) => if p.accum then redApply p.redOp (o.value r c) v else v
  if p.axis = 0 then
    (List.range p.rows).flatMap fun r =>
      let vs := reduceAt m p w cw ((List.range cw).map fun c => (r, c))
      (vs.zip (List.range vs.length)).map fun vj => { r := p.row0 + r, c := vj.2, v := fin (p.row0 + r) vj.2 vj.1 }
  else
    let cols := (List.range cw).map fun c => reduceAt m p w cw ((List.range p.rows).map fun r => (r, c))
    (List.range (if rcRedBEn w then 2 else 1)).flatMap fun j =>
      (cols.zip (List.range cw)).map fun vc => { r := j, c := vc.2, v := fin j vc.2 (vc.1.getD j .pos0) }

/-- A vector descriptor writes its results; a quenched one writes nothing (R200). -/
def Mod.runVec (m : Mod) (c task job d : Nat) (reduce : Bool) : Mod :=
  let p := vecOp d
  match (m.core! c).recipe? job task p.recipe, m.objAny p.out with
  | some w, some o =>
    let cw := (vecCols m p w reduce).getD 0
    let e := p.rows * cw
    let m := (m.vecCnt c 0x10 e).vecCnt c 0x18 (e * rcSlots w)
    m.convWrite { job := job, layer := p.layer, cls := p.cls, seq := dSeq d, core := c, engine := 2, stoch := p.stoch } p.out
      (if reduce then reduceSrcs m p w cw o else streamSrcs m p w cw)
  | _, _ => m

end Sys2Proof.Machine
end

