-- ==== Sys2Proof/Machine/Update.lean ====
section
/-! DEFINITION. Parameter update (08): the rules, guarded elements, sparse layers, preconditioner refresh, schedules. -/
namespace Sys2Proof.Machine

/-! ### Objects of a layer entry -/

def LayerCfg.weight (y : LayerCfg) : Nat := y.objs.getD 0 0
def LayerCfg.grad (y : LayerCfg) : Nat := y.objs.getD 1 0
def LayerCfg.state0 (y : LayerCfg) : Nat := y.objs.getD 2 0
def LayerCfg.state1 (y : LayerCfg) : Nat := y.objs.getD 3 0
def LayerCfg.touchObj (y : LayerCfg) : Nat := y.objs.getD 4 0
def LayerCfg.lstat (y : LayerCfg) : Nat := y.objs.getD 5 0
def LayerCfg.rstat (y : LayerCfg) : Nat := y.objs.getD 6 0
def LayerCfg.lroot (y : LayerCfg) : Nat := y.objs.getD 7 0
def LayerCfg.rroot (y : LayerCfg) : Nat := y.objs.getD 8 0
def LayerCfg.dir (y : LayerCfg) : Nat := y.objs.getD 9 0
def LayerCfg.residue (y : LayerCfg) : Nat := y.objs.getD 10 0
def LayerCfg.q (y : LayerCfg) : Nat := y.objs.getD 11 0
/-- The null handle (R336). -/
def isNull (h : Nat) : Bool := h = 0

/-- The element of linear index `l`. -/
def Obj.valueLin (o : Obj) (l : Nat) : Val := o.value (l / o.cols) (l % o.cols)
def Obj.writeLin (o : Obj) (l w : Nat) : Obj := o.writeAt (l / o.cols) (l % o.cols) w
/-- Blocks of 256 × 256 of a rule 2 weight (R270). -/
def Obj.blocks256 (o : Obj) : Nat := o.rows / 256 * (o.cols / 256)

/-! ### Constants (R264, R265) -/

structure UpdC where
  lr : Val
  dcy : Val
  a1 : Val
  a2 : Val
  b1 : Val
  b2 : Val
  k1 : Val
  k2 : Val
  eps : Val
  c : Val
  p1 : Nat
  p2 : Nat

def fp32Sqrt (v : Val) : Val := fnSqrt .fp32 v

/-- The next product of R264. -/
def nextP (t beta p : Nat) : Nat := if t = 1 then beta else (f32Mul (f32 p) (f32 beta)).to32

/-- The clip factor c of R265. -/
def clipFactor (g2 clipNorm : Nat) : Val :=
  let q := fp32Sqrt (f32 g2)
  if (f32 clipNorm).isZero ∨ !((f32 clipNorm).lt q) then one else f32Div (f32 clipNorm) q

/-- The value of a schedule for a job: the last computed where it is set and bound to the job, else +0. -/
def Mod.schedFor (m : Mod) (k job : Nat) : Option Nat :=
  match Tab.find m.upd.scheds k with
  | some s => if s.job = job then some s.val else none
  | none => none

def updConsts (y : Layer) (job : Job) (sched : Nat) : UpdC :=
  let lr := f32Mul (f32 sched) (f32 y.cfg.lrMult)
  let t := y.updCount + 1
  let p1 := nextP t y.cfg.beta1 y.p1
  let p2 := nextP t y.cfg.beta2 y.p2
  { lr := lr, dcy := f32Mul lr (f32 y.cfg.wd), a1 := (one.sub (f32 y.cfg.beta1)).r32, a2 := (one.sub (f32 y.cfg.beta2)).r32,
    b1 := f32 y.cfg.beta1, b2 := f32 y.cfg.beta2,
    k1 := f32Div one (one.sub (f32 p1)).r32, k2 := fnRsqrt .fp32 (one.sub (f32 p2)).r32, eps := f32 y.cfg.eps,
    c := if y.cfg.clipEn then clipFactor job.g2 job.clipNorm else one, p1 := p1, p2 := p2 }

/-! ### The rules (R266 to R270) -/

def sgnVal (v : Val) : Val :=
  if v.isNan then .nan else if v.isZero then .pos0 else if v.sign then one.neg else one

/-- An element's new values: m1, v1 (rules 1 and 2), u. -/
structure UpdEl where
  lin : Nat
  m1 : Val
  v1 : Val
  u : Val

def updRule (rule : Nat) (nesterov : Bool) (k : UpdC) (lin : Nat) (m v g : Val) : UpdEl :=
  match rule with
  | 0 =>
    let m1 := f32Fma k.b1 m g
    { lin := lin, m1 := m1, v1 := .pos0, u := if nesterov then f32Fma k.b1 m1 g else m1 }
  | 3 =>
    { lin := lin, m1 := f32Fma k.b2 m (f32Mul k.a2 g), v1 := .pos0, u := sgnVal (f32Fma k.b1 m (f32Mul k.a1 g)) }
  | _ =>
    let m1 := f32Fma k.b1 m (f32Mul k.a1 g)
    let v1 := f32Fma k.b2 v (f32Mul k.a2 (f32Mul g g))
    { lin := lin, m1 := m1, v1 := v1, u := f32Div (f32Mul m1 k.k1) (f32Fma (fp32Sqrt v1) k.k2 k.eps) }

/-- wx = exact(w − dcy·w − lr·u); an exact zero is +0 (R267, R268). -/
def updWx (k : UpdC) (w u : Val) : Val :=
  let x := (w.sub (k.dcy.mul w)).sub (k.lr.mul u)
  if x.isZero then .pos0 else x

/-- Whether an element's row block is processed (R276). -/
def updLive (m : Mod) (y : LayerCfg) (lin : Nat) : Bool :=
  isNull y.touchObj || (match m.objAny y.touchObj with | some t => t.touched (lin / y.rowBlock) | none => true)

/-- The linear indices of block b's elements, in row-major order of the block. -/
def block256 (o : Obj) (b : Nat) : List Nat :=
  let nb := o.cols / 256
  (List.range 65536).map fun i => o.lin (b / nb * 256 + i / 256) (b % nb * 256 + i % 256)

/-- Grafting of a valid block (R270): u becomes r × dir unless nd is 0. -/
def graft (dir : Obj) (es : List UpdEl) : List UpdEl :=
  let d := fun (e : UpdEl) => (dir.valueLin e.lin).r32
  let n1 := fp32Sqrt (redTree 0 (es.map fun e => f32Mul e.u e.u))
  let nd := fp32Sqrt (redTree 0 (es.map fun e => f32Mul (d e) (d e)))
  let r := f32Div n1 nd
  if nd.isZero then es else es.map fun e => { e with u := f32Mul r (d e) }

/-- The unit of a weight tile: beside the stack that homes it, or that will (R258). -/
def Mod.unitOf (m : Mod) (w t : Nat) : Nat :=
  match ((m.extsOf w t).map (·.home) ++ (match m.moving w t with | some v => [v.home] | none => [])).find? isCellar with
  | some home => home - 64
  | none => (m.pickStack w t).getD 0

/-- The units that hold a share of a layer. -/
def Mod.updUnits (m : Mod) (l : Nat) : List Nat :=
  let w := (m.layer! l).cfg.weight
  match m.objAny w with
  | some o => (o.allTiles.map (m.unitOf w)).eraseDups
  | none => []

/-- One element's m1, v1 and u, before grafting. -/
def updEl (m : Mod) (y : Layer) (k : UpdC) (lin : Nat) : UpdEl :=
  let val := fun h => match m.objAny h with | some o => (o.valueLin lin).r32 | none => .pos0
  let g0 := val y.cfg.grad
  let g := if k.c.eq one then g0 else f32Mul g0 k.c
  updRule y.cfg.rule y.cfg.nesterov k lin (val y.cfg.state0) (val y.cfg.state1) g

/-- Every processed element's m1, v1 and u. -/
def updElems (m : Mod) (y : Layer) (k : UpdC) (w : Obj) : List UpdEl :=
  if y.cfg.rule = 2 then
    (List.range w.blocks256).flatMap fun b =>
      let es := (block256 w b).map (updEl m y k)
      if y.rootL.contains b && y.rootR.contains b then
        (match m.objAny y.cfg.dir with | some d => graft d es | none => es)
      else es
  else ((List.range (w.rows * w.cols)).filter (updLive m y.cfg)).map (updEl m y k)

/-- Some operand of an element lies in a poisoned sector (R316). -/
def updPoisoned (m : Mod) (y : LayerCfg) (lin : Nat) : Bool :=
  [y.weight, y.grad, y.state0, y.state1, if y.rule = 2 then y.dir else 0].any fun h =>
    match m.objAny h with
    | some o => o.poisonedAt (lin / o.cols) (lin % o.cols)
    | none => false

/-! ### Shares and their traffic (R257 to R262) -/

/-- Bytes of each operand that a unit reads for an element, and writes back for one that is not guarded (R267, R272). -/
def updReads (m : Mod) (y : LayerCfg) : List (Nat × Nat) :=
  let gb := match m.objAny y.grad with | some o => fmtBits o.fmt / 8 | none => 0
  [(y.weight, fmtBits y.masterFmt / 8), (y.grad, gb), (y.state0, 4)] ++ (if y.rule = 1 ∨ y.rule = 2 then [(y.state1, 4)] else []) ++
    (if y.rule = 2 then [(y.dir, 4)] else [])
def updWrites (y : LayerCfg) : List (Nat × Nat) :=
  [(y.weight, fmtBits y.masterFmt / 8), (y.state0, 4)] ++ (if y.rule = 1 ∨ y.rule = 2 then [(y.state1, 4)] else [])

/-- Adds the bytes of elements of operands to those of the stacks that home them. -/
def Mod.bytesAt (m : Mod) (ops : List (Nat × Nat)) (lins : List Nat) (t : Tab Nat) : Tab Nat :=
  lins.foldl (fun t lin => ops.foldl (fun t ob =>
    match m.objAny ob.1 with
    | none => t
    | some o => match (m.extsOf ob.1 (o.tileOf (lin / o.cols) (lin % o.cols))).find? fun e => isCellar e.home with
      | some e => Tab.upd 0 t (e.home - 64) (· + ob.2)
      | none => t) t) t

/-- The elements of a unit's share of a layer, and of them those that it processes. -/
def Mod.shareElems (m : Mod) (l u : Nat) : List Nat :=
  let y := (m.layer! l).cfg
  match m.objAny y.weight with
  | none => []
  | some w => (List.range (w.rows * w.cols)).filter fun lin => m.unitOf y.weight (w.tileOf (lin / w.cols) (lin % w.cols)) = u
def Mod.liveElems (m : Mod) (l u : Nat) : List Nat := (m.shareElems l u).filter (updLive m (m.layer! l).cfg)
/-- Row blocks of elements, in order. -/
def LayerCfg.rowBlocks (y : LayerCfg) (lins : List Nat) : List Nat := (lins.map fun lin => lin / y.rowBlock).eraseDups

/-- The traffic of an update on the units' counters and on the update class of every stack that holds an operand, of the
touched bitmap a byte for each of its elements that a unit reads; event 0x3040 for a share that reads over the fabric (R258,
Tables 8.12, 8.18). `good` are the elements written. -/
def Mod.updTraffic (m : Mod) (l : Nat) (good : List Nat) : Mod :=
  let y := (m.layer! l).cfg
  (m.updUnits l).foldl (fun m u =>
    let mine := m.shareElems l u
    let live := m.liveElems l u
    let skipped := (y.rowBlocks (mine.filter fun lin => !updLive m y lin)).length
    let bits := if isNull y.touchObj then [] else ((y.rowBlocks mine).map (· / 8)).eraseDups
    let t := m.bytesAt [(y.touchObj, 1)] bits (m.bytesAt (updWrites y) (live.filter good.contains) (m.bytesAt (updReads m y) live []))
    let own := Tab.get 0 t u
    let far := t.foldl (fun a p => a + p.2) 0 - own
    let m := (((m.unitCnt u 0x10 live.length).unitCnt u 0x20 own).unitCnt u 0x28 far).unitCnt u 0x40 skipped
    let m := t.foldl (fun m (p : Nat × Nat) => m.stackBytes p.1 1 p.2) m
    if far = 0 then m else m.ev 0x3040 0 [(0, 1, u), (1, 2, l), (4, 8, far)]) m

/-- Words of 64 bytes of a block buffer: the block area, then the staging area (R262). -/
def blockWords : Nat := 8192
def stageWords : Nat := 1024
/-- Row blocks of 4 KiB that the staging area holds. -/
def stageBlocks : Nat := 16

/-- The row blocks of a unit's share of a layer. -/
def Mod.shareBlocks (m : Mod) (l u : Nat) : List Nat := (m.layer! l).cfg.rowBlocks (m.liveElems l u)

/-- How far a unit has come with a share is free: the row blocks after the one in flight. -/
def Mod.blocksLeft (m : Mod) (l u : Nat) : List Nat :=
  let bs := m.shareBlocks l u
  bs.drop ((Config.freeValue m.free).toNat % bs.length + 1)

/-- Row blocks of a layer's weights with the values that stand there. -/
def Mod.stagedValues (m : Mod) (l : Nat) (bs : List Nat) : List (Nat × List Nat) :=
  let y := (m.layer! l).cfg
  match m.objAny y.weight with
  | none => []
  | some w => bs.map fun b => (b, (List.range (min y.rowBlock (w.rows * w.cols - b * y.rowBlock))).map fun i =>
      Tab.get 0 w.elems (b * y.rowBlock + i))

/-- An update in flight has done its work. -/
def Mod.updWorked (m : Mod) (id : Nat) : Bool := cores.any fun c => (m.core! c).infl.any fun f => f.id = id && f.worked

/-- The staging area of a unit: of the share that it works on, up to 16 row blocks of new values, from the one that it has
come to, which is free (R262). Before the share is worked nothing stands there. -/
def Mod.fillBuffer (m : Mod) (u : Nat) : Mod :=
  match (m.unit! u).q with
  | [] => m.onUnit u fun x => { x with staged := [], held := none }
  | (id, l) :: _ =>
    if m.updWorked id then
      { m with free := m.free + 1 }.onUnit u fun x => { x with staged := m.stagedValues l ((m.blocksLeft l u).take stageBlocks) }
    else m.onUnit u fun x => { x with staged := [], held := none }

/-- The units whose oldest share is of an update stage its new values. -/
def Mod.fillBuffers (m : Mod) (id : Nat) : Mod :=
  (List.range 32).foldl (fun m u => match (m.unit! u).q with
    | (i, _) :: _ => if i = id then m.fillBuffer u else m
    | [] => m) m

/-- The blocks of a rule 2 layer with valid roots that a unit processes: those whose element (0, 0) its stack homes (R271). -/
def Mod.graftBlocks (m : Mod) (l u : Nat) (w : Obj) : List Nat :=
  let y := m.layer! l
  if y.cfg.rule ≠ 2 then [] else
    (List.range w.blocks256).filter fun b => y.rootL.contains b && y.rootR.contains b &&
      (let lin := (block256 w b).headD 0
       m.unitOf y.cfg.weight (w.tileOf (lin / w.cols) (lin % w.cols)) = u)

/-- A unit that works on a rule 2 layer holds u1 and dir of one such block, which one being free (R262, R270). -/
def Mod.holdBlock (m : Mod) (l u : Nat) (k : UpdC) (w : Obj) : Mod :=
  let y := m.layer! l
  let bs := m.graftBlocks l u w
  let b := bs.getD ((Config.freeValue m.free).toNat % bs.length) 0
  if bs.isEmpty then m else
    let lins := block256 w b
    let dir := match m.objAny y.cfg.dir with | some d => lins.map fun i => (d.valueLin i).r32.to32 | none => []
    { m with free := m.free + 1 }.onUnit u fun x => { x with
      held := some { block := b, u1 := lins.map fun i => (updEl m y k i).u.to32, dir := dir } }

/-- The update of one layer (R264 to R277): the elements whose new values are all finite are written and observed with
CLASS 2; the others are guarded, and those with a poisoned operand too, with POISON in the step's flags (R272, R316). -/
def Mod.applyUpdate (m : Mod) (l jobId : Nat) : Mod :=
  let y := m.layer! l
  match m.job? jobId, m.objAny y.cfg.weight with
  | some job, some w =>
    let step := job.step
    let sched := m.schedFor y.cfg.lrSched jobId
    let m := match sched with
      | some _ => m
      | none => m.ev 0x3051 0 [(0, 1, y.cfg.lrSched), (1, 2, jobId), (3, 2, l), (5, 8, step)]
    let k := updConsts y job (sched.getD 0)
    let sr := y.cfg.masterFmt = 1 && y.cfg.masterSr
    let prod : Prod := { job := jobId, layer := l, cls := 2, seq := 0, core := 0, engine := 0, marks := false, stoch := sr, noNegZero := true }
    let new := (updElems m y k w).map fun e =>
      let wx := updWx k (w.valueLin e.lin) e.u
      let wn := elemVal w.fmt (convert w.fmt (rndOf prod job.seed step e.lin) wx)
      (e, wx, wn.isFinite && e.m1.isFinite && e.v1.isFinite && !updPoisoned m y.cfg e.lin)
    let good := new.filter fun x => x.2.2
    let bad := new.filter fun x => !x.2.2
    let m := (m.updUnits l).foldl (fun m u => match (m.unit! u).q with
      | (_, l') :: _ => if l' = l then m.holdBlock l u k w else m
      | [] => m) m
    let m := m.updTraffic l (good.map fun x => x.1.lin)
    let m := m.convWrite prod y.cfg.weight (good.map fun x => { r := x.1.lin / w.cols, c := x.1.lin % w.cols, v := x.2.1 })
    let m := m.onObj y.cfg.state0 fun o =>
      (good.foldl (fun o x => o.writeLin x.1.lin x.1.m1.to32) o).clearPoisonAt (good.map fun x => x.1.lin)
    let m := if y.cfg.rule = 1 ∨ y.cfg.rule = 2 then
        m.onObj y.cfg.state1 fun o =>
          (good.foldl (fun o x => o.writeLin x.1.lin x.1.v1.to32) o).clearPoisonAt (good.map fun x => x.1.lin)
      else m
    match bad with
    | [] => m
    | _ =>
      let low := bad.foldl (fun a x => min a x.1.lin) (w.rows * w.cols)
      let m := m.onLayer l fun y => { y with guarded := true, guardCnt := y.guardCnt + bad.length }
      let m := bad.foldl (fun m x => m.unitCnt (m.unitOf y.cfg.weight (w.tileOf (x.1.lin / w.cols) (x.1.lin % w.cols))) 0x18 1) m
      let m := if bad.any fun x => updPoisoned m y.cfg x.1.lin then m.stepFlag jobId flagPoison else m
      (m.ev 0x3010 0 [(0, 2, jobId), (2, 2, l), (4, 8, step), (12, 8, bad.length), (20, 8, low)]).stepFlag jobId flagGuarded
  | _, _ => m

/-! ### UPD_LAYER: checks, pins, units (R258, R278 to R290) -/

def updLayerNo (d : Nat) : Nat := fld (byf d 16 2) 0 14

def updCauses (m : Mod) (phase job d : Nat) : List Nat :=
  let y := m.layer! (updLayerNo d)
  causeIf (y.job ≠ job || isNull y.cfg.weight || phase ≠ 4) 0x90 ++
  causeIf (fld (byf d 16 2) 14 2 + byf d 18 46 ≠ 0) 0x91

/-- An UPD_LAYER that will be applied: its layer is not frozen and not yet updated in this step. -/
def Mod.updApplies (m : Mod) (job d : Nat) : Bool :=
  let y := m.layer! (updLayerNo d)
  !y.cfg.frozen && y.lastUpd ≠ m.stepOf job

/-- Every tile of an object, pinned at a home. -/
def allPins (m : Mod) (target h : Nat) : List (Nat × Nat × Nat) :=
  match m.obj? h with
  | some o => o.allTiles.map fun t => (h, t, target)
  | none => []

def updPins (m : Mod) (job d : Nat) : List (Nat × Nat × Nat) :=
  if m.updApplies job d then
    let y := (m.layer! (updLayerNo d)).cfg
    [y.weight, y.grad, y.state0, y.state1, y.touchObj, if y.rule = 2 then y.dir else 0].flatMap (allPins m homeCellar)
  else []

/-- The units accept an UPD_LAYER (R278, R279): a frozen layer is skipped; a repeated update waits for the earlier one;
otherwise every unit of the layer takes its share. The flag answers whether the layer is to be updated. -/
def Mod.acceptUpdate (m : Mod) (job d id : Nat) : Mod × Bool :=
  let l := updLayerNo d
  let y := m.layer! l
  let step := m.stepOf job
  if y.cfg.frozen then
    let m := m.onLayer l fun y => { y with skipCnt := y.skipCnt + 1 }
    ((m.ev 0x3001 0 [(0, 2, job), (2, 2, l), (4, 8, step)]).stepFlag job flagFrozen, false)
  else if y.lastUpd = step then
    let replaying := decide (2 ≤ m.attemptOf job)
    (if replaying then m else m.ev 0x3002 0 [(0, 2, job), (2, 2, l), (4, 8, step), (12, 4, dSeq d)], false)
  else
    let us := m.updUnits l
    let m := m.onLayer l fun y => { y with lastUpd := step, updating := y.updating + 1 }
    let m := us.foldl (fun m u =>
      let first := (m.unit! u).q.isEmpty
      let m := m.onUnit u fun x => { x with q := x.q ++ [(id, l)] }
      if first then m.fillBuffer u else m) m
    (m, true)

/-- The shares of an update leave the units; a unit whose oldest share it was goes on to the next. -/
def Mod.leaveUnits (m : Mod) (id : Nat) : Mod :=
  (List.range 32).foldl (fun m u =>
    if (m.unit! u).q.any fun p => p.1 = id then
      (m.onUnit u fun x => { x with q := x.q.filter fun p => p.1 ≠ id, resuming := false, next := 0 }).fillBuffer u
    else m) m

/-- An update that the units accepted is abandoned: its shares go, its layer no longer waits for it. -/
def Mod.dropUpdate (m : Mod) (l id : Nat) : Mod := (m.onLayer l fun y => { y with updating := y.updating - 1 }).leaveUnits id

/-- Every share of an applied update has completed (R264): UPD_COUNT, P1 and P2 advance. -/
def Mod.finishUpdate (m : Mod) (d id : Nat) : Mod :=
  let l := updLayerNo d
  let m := m.onLayer l fun y =>
    let t := y.updCount + 1
    { y with updCount := t, p1 := nextP t y.cfg.beta1 y.p1, p2 := nextP t y.cfg.beta2 y.p2, updating := y.updating - 1 }
  m.leaveUnits id

/-! ### ROOT_REFRESH (R281 to R286) -/

structure RefOp where
  layer : Nat
  factor : Nat
  force : Bool
  lo : Nat
  hi : Nat
  rsv : Nat
  deriving DecidableEq, Repr

def refOp (d : Nat) : RefOp :=
  { layer := fld (byf d 16 2) 0 14, factor := fld (byf d 18 1) 0 2, force := bit (byf d 18 1) 2, lo := fld (byf d 20 2) 0 14,
    hi := fld (byf d 22 2) 0 14,
    rsv := fld (byf d 16 2) 14 2 + fld (byf d 18 1) 3 5 + byf d 19 1 + fld (byf d 20 2) 14 2 + fld (byf d 22 2) 14 2 +
      byf d 24 40 }

def refCauses (m : Mod) (phase job d : Nat) : List Nat :=
  let p := refOp d
  let y := m.layer! p.layer
  let nb := match m.obj? y.cfg.weight with | some o => o.blocks256 | none => 0
  causeIf (y.job ≠ job || isNull y.cfg.weight || phase ≠ 4) 0x90 ++
  causeIf (p.rsv ≠ 0) 0x91 ++
  causeIf (y.cfg.rule ≠ 2 || p.factor = 0 || decide (p.hi < p.lo) || decide (nb ≤ p.hi)) 0x92

def Mod.refDue (m : Mod) (d : Nat) : Bool :=
  let p := refOp d
  let y := m.layer! p.layer
  p.force || y.updCount % y.cfg.refreshN = 0

def refPins (m : Mod) (c d : Nat) : List (Nat × Nat × Nat) :=
  if !m.refDue d then [] else
    let p := refOp d
    let y := (m.layer! p.layer).cfg
    let rows := fun h => regionPins m h c (256 * p.lo) (256 * (p.hi + 1 - p.lo)) 0 256
    (if bit p.factor 0 then rows y.lstat ++ rows y.lroot else []) ++ (if bit p.factor 1 then rows y.rstat ++ rows y.rroot else [])

abbrev Mat := List (List Val)

def matMap (f : Nat → Nat → Val → Val) (a : Mat) : Mat :=
  (a.zip (List.range a.length)).map fun ri => (ri.1.zip (List.range ri.1.length)).map fun vj => f ri.2 vj.2 vj.1

def transpose : Nat → Mat → Mat
  | 0, _ => []
  | n + 1, a => a.map (fun r => r.headD .pos0) :: transpose n (a.map fun r => r.tail)

/-- A product of a refresh: the split chain of R157 (SPLIT 3, 2, 1), converted to FP32 (R283). -/
def matMul (a b : Mat) : Mat :=
  let gs := fun (f : Val → Val) (r : List Val) => (groups32 r.length (r.map f)).map fun g => (g, 127)
  let bt := transpose (match b with | r :: _ => r.length | [] => 0) b
  let cols := bt.map fun c => gs (splitSta 3) c ++ gs (splitSta 2) c ++ gs (splitSta 1) c
  a.map fun r =>
    let row := gs (splitMov 3) r ++ gs (splitMov 2) r ++ gs (splitMov 1) r
    cols.map fun c => (acc56Decode (columnSum row c 0)).r32

/-- Why a factor fails (Table 8.18). -/
def failSingular : Nat := 1
def failNoConverge : Nat := 2
def failNonfinite : Nat := 3

def matBad (a : Mat) : Bool := a.any fun r => r.any fun v => !v.isFinite
def diagOf (a : Mat) : List Val := (a.zip (List.range a.length)).map fun ri => ri.1.getD ri.2 .pos0
def c025 : Val := f32 0x3E800000
def c25 : Val := f32 0x40200000
def c5 : Val := f32 0x40A00000
def c256 : Val := f32 0x43800000

/-- The iterations of R283; `fuel` counts those that remain. -/
def rootIter : Nat → Mat → Mat → Except Nat Mat
  | 0, _, _ => .error failNoConverge
  | k + 1, x, mm =>
    let t := matMap (fun i j v => f32Mul (if i = j then (c5.sub v).r32 else v.neg) c025) mm
    let x := matMul x t
    let t2 := matMul t t
    let t4 := matMul t2 t2
    let mm := matMul t4 mm
    if matBad x || matBad mm then .error failNonfinite
    else
      let err := redTree 1 ((matMap (fun i j v => (v.sub (if i = j then one else .pos0)).r32.abs) mm).flatten)
      if err.le (f32 0x38800000) then .ok x else rootIter k x mm

/-- The inverse fourth root of a statistic (R283). -/
def rootOf (eps : Nat) (a : Mat) : Except Nat Mat :=
  let tr := redTree 0 (diagOf a)
  if matBad a then .error failNonfinite
  else if !(Val.pos0.lt tr) then .error failSingular
  else
    let dl := f32Mul (f32 eps) (f32Div tr c256)
    let ad := matMap (fun i j v => if i = j then f32Add v dl else v) a
    let fr := fp32Sqrt (redTree 0 (ad.flatten.map fun v => f32Mul v v))
    if !(Val.pos0.lt fr) then .error failSingular
    else
      let z := f32Div c25 fr
      let x0 := fp32Sqrt (fp32Sqrt z)
      rootIter 30 (matMap (fun i j _ => if i = j then x0 else .pos0) ad) (matMap (fun _ _ v => f32Mul z v) ad)

/-- Block b of a factor object: rows 256b to 256b + 255 (R281). -/
def Obj.factor (o : Obj) (b : Nat) : Mat :=
  (List.range 256).map fun i => (List.range 256).map fun j => o.value (256 * b + i) j

def Obj.setFactor (o : Obj) (b : Nat) (x : Mat) : Obj :=
  (x.zip (List.range x.length)).foldl (fun o ri => o.writeRow (256 * b + ri.2) 0 (ri.1.map Val.to32)) o

/-- One factor: its root, or its failure added to the list (R284). -/
def refFactor (eps l : Nat) (right : Bool) (mf : Mod × List (Nat × Nat × Nat)) (b : Nat) : Mod × List (Nat × Nat × Nat) :=
  let m := mf.1
  let y := (m.layer! l).cfg
  match m.objAny (if right then y.rstat else y.lstat) with
  | none => mf
  | some st =>
    match rootOf eps (st.factor b) with
    | .error e => (m, mf.2 ++ [(b, b2n right, e)])
    | .ok x =>
      let m := m.onObj (if right then y.rroot else y.lroot) fun o => o.setFactor b x
      (m.onLayer l fun y =>
        if right then { y with rootR := b :: y.rootR.filter (· ≠ b) } else { y with rootL := b :: y.rootL.filter (· ≠ b) }, mf.2)

/-- The damping a refresh works with (R285). -/
def Mod.refEps (m : Mod) (d : Nat) : Nat :=
  let y := m.layer! (refOp d).layer
  if y.epsAt = y.updCount then y.epsPrev else y.epsCur

/-- A due ROOT_REFRESH computes its factors, then the damping and the events of its failures (R283 to R285). -/
def Mod.runRefresh (m : Mod) (job d : Nat) : Mod :=
  let p := refOp d
  let y := m.layer! p.layer
  let same := decide (y.epsAt = y.updCount)
  let eps := m.refEps d
  let blocks := (List.range (p.hi + 1 - p.lo)).map (· + p.lo)
  let r0 := if bit p.factor 0 then blocks.foldl (refFactor eps p.layer false) (m, []) else (m, [])
  let r1 := if bit p.factor 1 then blocks.foldl (refFactor eps p.layer true) r0 else r0
  let ceil := (f32Mul (f32 y.cfg.rootEps) (f32 0x44800000)).to32
  let atCeil := decide (ceil ≤ y.epsCur)
  match r1.2 with
  | [] => r1.1
  | f0 :: _ =>
    let m := if same ∨ atCeil then r1.1
      else r1.1.onLayer p.layer fun y => { y with
        epsPrev := y.epsCur, epsCur := min (f32Mul (f32 y.epsCur) (f32 0x40000000)).to32 ceil, epsAt := y.updCount }
    let cur := (m.layer! p.layer).epsCur
    let pay := fun (f : Nat × Nat × Nat) =>
      [(0, 2, job), (2, 2, p.layer), (4, 2, f.1), (6, 1, f.2.1), (7, 1, f.2.2), (8, 4, cur), (12, 8, y.updCount)]
    let m := r1.2.foldl (fun m f => m.ev 0x3020 0 (pay f)) m
    if atCeil ∧ !same then m.ev 0x3021 0 (pay f0) else m

/-! ### Schedules (R287, R288) -/

/-- The segment that holds q with j; beyond the last, the last with j = LEN. -/
def segAt : List Seg → Nat → Option (Seg × Nat)
  | [], _ => none
  | s :: [], q => some (s, min q s.len)
  | s :: rest, q => if q < s.len then some (s, q) else segAt rest (q - s.len)

def segValue (s : Seg) (j : Nat) : Nat :=
  let jf := natVal j
  let f := f32Div jf (natVal s.len)
  let v0 := f32 s.v0
  let v1 := f32 s.v1
  let half := f32 0x3F000000
  (match s.type with
  | 0 => v0
  | 1 => f32Fma f (v1.sub v0).r32 v0
  | 2 =>
    let cs := fnCos .fp32 (f32Mul f (f32 0x40490FDB))
    f32Fma (f32Fma cs half half) (v0.sub v1).r32 v1
  | 3 => f32Mul v0 (fnRsqrt .fp32 (f32Add one (f32Div jf (f32 s.param))))
  | _ => f32Mul v0 (fnExp2 .fp32 (f32Mul jf (f32 s.param)))).to32

def Sched.valueNow (s : Sched) : Nat :=
  match segAt s.segs (if s.restart = 0 then s.pos else s.pos % s.restart) with
  | some sj => segValue sj.1 sj.2
  | none => 0

/-- A finite verdict computes every schedule of the job and advances POS (R288), which wraps after 2^64 − 1 (DESIGN CHOICE, log
entry 76). -/
def Mod.runScheds (m : Mod) (job : Nat) : Mod :=
  (m.upd.scheds.filter fun (p : Nat × Sched) => p.2.job = job).foldl (fun m p =>
    let v := p.2.valueNow
    let m := { m with upd := { m.upd with scheds := Tab.put m.upd.scheds p.1 { p.2 with val := v, pos := (p.2.pos + 1) % 2 ^ 64 } } }
    if (f32 v).isFinite then m else m.ev 0x3050 0 [(0, 1, p.1), (1, 2, job), (4, 8, p.2.pos)]) m

end Sys2Proof.Machine
end

