-- ==== Sys2Proof/Machine/Checks.lean ====
section
/-! DEFINITION. The checks before issue (R52): the COLL body and its checks (Tables 13.6, 13.7), those of residency and
watch descriptors (Tables 10.7, 5.1), what a descriptor reads, writes and pins, and the lowest failing cause. -/
namespace Sys2Proof.Machine

/-! ### The COLL body (Table 13.6) -/

structure CollOp where
  op : Nat
  predicted : Bool
  fp32 : Bool
  stoch : Bool
  norm : Bool
  vc : Nat
  cls : Nat
  collId : Nat
  group : Nat
  shift : Int
  src : Nat
  dst : Nat
  stage : Nat
  aux : Nat
  elem0 : Nat
  nelem : Nat
  layer : Nat
  timeout : Nat
  rsv : Nat
  deriving DecidableEq, Repr

def collOp (d : Nat) : CollOp :=
  let a := byf d 16 1
  let b := byf d 17 1
  { op := fld a 0 3, predicted := bit a 3, fp32 := bit a 4, stoch := bit a 5, norm := bit a 6, vc := fld b 0 3, cls := fld b 3 2,
    collId := byf d 18 2, group := fld (byf d 20 2) 0 10, shift := sx 8 (byf d 22 1), src := byf d 24 4, dst := byf d 28 4,
    stage := byf d 32 4, aux := byf d 36 4, elem0 := byf d 40 8, nelem := byf d 48 8, layer := fld (byf d 56 2) 0 14,
    timeout := byf d 60 4,
    rsv := fld a 7 1 + fld b 5 3 + fld (byf d 20 2) 10 6 + byf d 23 1 + fld (byf d 56 2) 14 2 + byf d 58 2 }

def CollOp.blocks (p : CollOp) : Nat := cdiv p.nelem 256

/-! ### Shards (R488) -/

def shardLo (size nb s : Nat) : Nat := s * nb / size
/-- The shard that holds block b. -/
def shardOf (size nb b : Nat) : Nat := ((b + 1) * size + nb - 1) / nb - 1
def shardBlocks (size nb s : Nat) : List Nat :=
  (List.range (shardLo size nb (s + 1) - shardLo size nb s)).map (· + shardLo size nb s)

/-- B of R487: blocks of the shards for which a member of rank r is interior, that is, has children (the root too: with
F = 1 a member is interior for G - 1 shards). -/
def stageNeed (g : Group) (nb r : Nat) : Nat :=
  (List.range g.size).foldl (fun a s => if !(g.children s r).isEmpty then a + (shardBlocks g.size nb s).length else a) 0

/-! ### PMAP_OBJ entries (R495) -/

structure PEntry where
  rank : Nat
  count : Nat
  src : Nat
  dst : Nat
  rsv : Nat
  deriving DecidableEq, Repr

def Obj.pmap (o : Obj) : List PEntry :=
  (List.range (o.rows * o.cols / 32)).map fun i =>
    let w := (List.range 32).foldr (fun j acc => acc * 256 + Tab.get 0 o.elems (32 * i + j)) 0
    { rank := byf w 0 4, count := byf w 4 4, src := byf w 8 8, dst := byf w 16 8, rsv := byf w 24 8 }

/-! ### Checks (Table 13.7) -/

def Obj.elemsN (o : Obj) : Nat := o.rows * o.cols
def ssiFmt (f : Nat) : Bool := decide (f ≤ 4) || f = 9

def collCauses (m : Mod) (job d : Nat) : List Nat :=
  let p := collOp d
  let red := p.op = 0 || p.op = 1
  let so := m.objOfJob p.src job
  let oo := m.objOfJob p.dst job
  let g := m.group? job p.group
  let r := g.bind fun g => g.rankOf m.lnk.chip
  let n := fun (o : Option Obj) => match o with | some o => o.elemsN | none => 0
  let f := fun (o : Option Obj) => match o with | some o => o.fmt | none => 0
  let axis := fun (o : Option Obj) => match o with | some o => o.blockScaled && o.axis = 1 | none => false
  let needAux := (red && p.predicted) || p.op = 3
  let badH := fun h => (m.objOfJob h job).isNone
  let sizeG := match g with | some g => g.size | none => 1
  let rank := r.getD 0
  let own := match g with
    | some g => min p.nelem (256 * shardLo g.size p.blocks (rank + 1)) - 256 * shardLo g.size p.blocks rank
    | none => 0
  let ownDst := if p.op = 0 then own else p.elem0 + p.nelem
  let y := m.layer! p.layer
  let pm := match m.objOfJob p.aux job with | some o => o.pmap | none => []
  causeIf (decide (3 < p.op) || p.vc = 0 || p.cls = 3 || (!red && (p.predicted || p.fp32 || p.norm)) || (p.fp32 && p.predicted)) 0x50 ++
  causeIf (so.isNone || oo.isNone || (p.stage ≠ 0 && badH p.stage) || (needAux && badH p.aux) ||
    (!needAux && p.aux ≠ 0) ||
    (p.stage = 0 && ((red && !p.fp32 && (match g with | some g => decide (0 < stageNeed g p.blocks rank) | none => false)) ||
      (p.op = 3 && p.src = p.dst)))) 0x51 ++
  causeIf ((red && so.isSome && oo.isSome && (!ssiFmt (f so) || !ssiFmt (f oo))) ||
    (!red && so.isSome && oo.isSome && (f so ≠ f oo || fmtFp8 (f so) || axis so || axis oo)) ||
    (match m.objOfJob p.stage job with | some o => o.fmt ≠ 11 | none => false) ||
    (needAux && (match m.objOfJob p.aux job with | some o => o.fmt ≠ 8 | none => false))) 0x52 ++
  causeIf (p.elem0 % 256 ≠ 0 || (p.op = 3 && p.elem0 ≠ 0) || (p.op ≠ 3 && p.nelem = 0) || decide (2 ^ 40 < p.nelem) ||
    (red && so.isSome && decide (n so < p.elem0 + p.nelem)) ||
    (p.op ≠ 3 && oo.isSome && decide (n oo < ownDst)) ||
    (p.op = 2 && so.isSome && g.isSome && decide (n so < own))) 0x53 ++
  causeIf (r.isNone) 0x54 ++
  causeIf ((match m.objOfJob p.stage job, g with
      | some o, some g => red && !p.fp32 && decide (o.elemsN < 256 * stageNeed g p.blocks rank)
      | _, _ => false) ||
    (red && p.predicted && (match m.objOfJob p.aux job with | some o => decide (o.elemsN < p.blocks) | none => false)) ||
    (p.op = 3 && (match m.objOfJob p.aux job with | some o => o.elemsN % 32 ≠ 0 | none => false))) 0x55 ++
  causeIf (match m.run? job with | some x => x.collIds.contains p.collId | none => false) 0x56 ++
  causeIf (p.cls = 1 && (y.job ≠ job || (oo.isSome && f oo ≠ y.cfg.actFmt))) 0x57 ++
  causeIf (p.op = 3 && pm.any fun e => decide (sizeG ≤ e.rank) || e.count % 32 ≠ 0 || e.src % 32 ≠ 0 || e.dst % 32 ≠ 0 || e.rsv ≠ 0) 0x58 ++
  causeIf (p.rsv ≠ 0) 0x59

/-- The target of a COLL's pin on a tile: its home where that is a Pantry or the Cellar, else the Cellar (R464); of a dropped
tile of a borrowed object, its only home (R367). -/
def Mod.collTarget (m : Mod) (h t : Nat) : Nat :=
  match m.homeOf h t with
  | some x => if x = homeAttic then homeCellar else x
  | none => match m.objAny h with | some o => o.borrowed.getD homeCellar | none => homeCellar

/-- The elements (object, first, count) that a COLL reads or writes on this module (Table 13.6, R480, R487, R488, R494 to
R496). Where a PERMUTE's members write its DST_OBJ, and where its received data stands in STAGE_OBJ, it cannot know: the whole
object. -/
def Mod.collRuns (m : Mod) (job d : Nat) : List (Nat × Nat × Nat) :=
  let p := collOp d
  let all := 2 ^ 64
  match m.group? job p.group, (m.group? job p.group).bind fun g => g.rankOf m.lnk.chip with
  | some g, some r =>
    let own := min p.nelem (256 * shardLo g.size p.blocks (r + 1)) - 256 * shardLo g.size p.blocks r
    match p.op with
    | 2 => [(p.src, 0, own), (p.dst, p.elem0, p.nelem)]
    | 3 =>
      let es := match m.objAny p.aux with | some a => a.pmap | none => []
      (es.map fun e => (p.src, e.src, e.count)) ++ [(p.dst, 0, all), (p.aux, 0, all)] ++ if p.src = p.dst then [(p.stage, 0, all)] else []
    | _ =>
      [(p.src, p.elem0, p.nelem), if p.op = 0 then (p.dst, 0, own) else (p.dst, p.elem0, p.nelem)] ++
        (if p.fp32 then [] else [(p.stage, 0, 256 * stageNeed g p.blocks r)]) ++ if p.predicted then [(p.aux, 0, p.blocks)] else []
  | _, _ => []

def collPins (m : Mod) (job d : Nat) : List (Nat × Nat × Nat) :=
  ((m.collRuns job d).flatMap fun x => match m.obj? x.1 with
    | some o => (o.tilesLin x.2.1 x.2.2).map fun t => (x.1, t, m.collTarget x.1 t)
    | none => []).eraseDups

/-! ### Residency and watch descriptors: causes (Tables 10.7, 5.1) -/

def moveCauses (m : Mod) (c job d : Nat) (prefetch : Bool) : List Nat :=
  let p := moveOp d
  let o := m.objOfJob p.obj job
  let tier := p.dest / 64
  let low := p.dest % 64
  let borrowed := match o with | some o => o.borrowed.isSome | none => false
  causeIf o.isNone 0x30 ++
  causeIf (decide (p.hi < p.lo) || (match o with | some o => decide (o.tiles ≤ p.hi) | none => false)) 0x31 ++
  causeIf (tier = 3 || (tier = 0 && (decide (3 < low) || (m.core! low).fenced)) ||
    (tier = 1 && low ≠ 63 && (decide (31 < low) || (m.stack! low).out)) ||
    (prefetch && !(tier = 1 || p.dest = c))) 0x32 ++
  causeIf (decide (2 ≤ p.op) || (prefetch && p.op ≠ 0) || (p.op = 1 && o.isSome && !borrowed) ||
    (!prefetch && p.op = 0 && borrowed)) 0x33 ++
  causeIf (p.rsv ≠ 0 || (tier = 2 && low ≠ 0)) 0x34

def histCauses (m : Mod) (job d : Nat) : List Nat :=
  let p := histOp d
  causeIf (decide (p.hi < p.lo) || p.mask = 0 || (!p.publish && !p.reset)) 0x70 ++
  causeIf ((List.range (p.hi + 1 - p.lo)).any fun i => (m.layer! (p.lo + i)).job ≠ job) 0x71 ++
  causeIf (p.rsv ≠ 0) 0x72

/-! ### Objects a descriptor names, reads and writes -/

/-- A root that a ROOT_REFRESH held in the vector engine's intake writes (R240, Table 1.9). -/
def Mod.rootHeld (m : Mod) (c h : Nat) : Bool :=
  h ≠ 0 && (m.core! c).infl.any fun f => dOp f.d = opRootRefresh &&
    (let p := refOp f.d
     let y := (m.layer! p.layer).cfg
     (bit p.factor 0 && y.lroot = h) || (bit p.factor 1 && y.rroot = h))

/-- The handles a descriptor reads and those it writes. -/
def descHandles (m : Mod) (job d : Nat) : List Nat × List Nat :=
  match dOp d with
  | 0x11 => ([(loadOp d).obj], [])
  | 0x10 => (if (passOp d).drain then [] else [(passOp d).mov], if (passOp d).mode = 0 then [] else [(passOp d).out])
  | 0x20 => ((vecOp d).inp, [(vecOp d).out])
  | 0x21 => ((vecOp d).inp, [(vecOp d).out])
  | 0x30 => ([(moveOp d).obj], [])
  | 0x31 => ([(moveOp d).obj], [])
  | 0x42 => ([(barOp d).src], [(barOp d).dst])
  | 0x50 =>
    let p := collOp d
    (p.src :: (if p.op = 3 ∨ p.predicted then [p.aux] else []), p.dst :: ((if p.predicted then [p.aux] else []) ++ [p.stage]))
  | 0x60 =>
    let y := (m.layer! (updLayerNo d)).cfg
    if m.updApplies job d then
      ([y.weight, y.grad, y.state0, y.state1, y.touchObj, if y.rule = 2 then y.dir else 0], [y.weight, y.state0, y.state1])
    else ([], [])
  | 0x61 =>
    let p := refOp d
    let y := (m.layer! p.layer).cfg
    if m.refDue d then
      ((if bit p.factor 0 then [y.lstat] else []) ++ (if bit p.factor 1 then [y.rstat] else []),
       (if bit p.factor 0 then [y.lroot] else []) ++ (if bit p.factor 1 then [y.rroot] else []))
    else ([], [])
  | _ => ([], [])

/-- A BARRIER pins the tiles of SRC_OBJ and DST_OBJ where they stand; R96 asks for the pins and no rule gives their target
(log entry 61). -/
def barPins (m : Mod) (c d : Nat) : List (Nat × Nat × Nat) :=
  [(barOp d).src, (barOp d).dst].flatMap fun h => match m.obj? h with
    | some o => o.allTiles.map fun t => (h, t, (m.homeOf h t).getD (homePantry c))
    | none => []

/-- The pins a descriptor takes at issue (R96, R347, R464). -/
def descPins (m : Mod) (c task job d : Nat) : List (Nat × Nat × Nat) :=
  match dOp d with
  | 0x11 => loadPins m c d
  | 0x10 => passPins m c d
  | 0x20 => vecPins m c task job d false
  | 0x21 => vecPins m c task job d true
  | 0x42 => barPins m c d
  | 0x50 => collPins m job d
  | 0x60 => updPins m job d
  | 0x61 => refPins m c d
  | _ => []

/-- R368, R369, R498, R512 and the pin limits, which apply to every descriptor: an UPD_LAYER or a ROOT_REFRESH outside PH_UPD
that writes an object of these has cause 0x5A or 0x5B, below the 0x90 of Table 8.8 (R52). -/
def anyCauses (m : Mod) (c task phase job d : Nat) : List Nat :=
  let ps := (descPins m c task job d).eraseDups
  let hs := descHandles m job d
  let live := fun h => decide (h ≠ 0)
  let ws := hs.2.filter live
  let cfgs := (m.layersOf job).map fun l => (m.layer! l).cfg
  let other := decide (phase ≠ 4)
  causeIf (decide (4096 < ps.length) || cores.any fun k => decide (240 < (ps.filter fun p => p.2.2 = homePantry k).length)) 0x35 ++
  causeIf ((hs.1 ++ hs.2).any fun h => live h && (match m.obj? h with
    | some o => (match o.borrowed with | some b => b ≠ c | none => false)
    | none => false)) 0x36 ++
  causeIf (ws.any fun h => match m.obj? h with | some o => o.image | none => false) 0x37 ++
  causeIf (other && ws.any fun h => cfgs.any fun y => y.residue = h || y.q = h) 0x5A ++
  causeIf (other && ws.any fun h => cfgs.any fun y =>
    y.weight = h || y.state0 = h || y.state1 = h || y.lroot = h || y.rroot = h) 0x5B

/-- Every failing check of a descriptor: Table 1.12 and the tables of the engine chapters (R52). -/
def descCauses (m : Mod) (c : Nat) (s : SlotSt) (d : Nat) : List Nat :=
  let job := s.l.job
  let phase := s.l.phase
  let op := dOp d
  let slotBad := fun (x : Option Nat) => match x with | some i => decide (47 < i) | none => false
  let base := causeIf (!opcodes.contains op) 0x01 ++
    causeIf (dJob d ≠ job) 0x02 ++
    causeIf (match s.lastSeq with | some q => decide (dSeq d ≤ q) | none => false) 0x03 ++
    causeIf (dHeaderRsv d ≠ 0 || (op = opEnd && dBody d ≠ 0)) 0x04 ++
    causeIf (slotBad (dSigA d) || slotBad (dSigB d)) 0x05
  let own := match op with
    | 0x10 => passCauses m c phase job d
    | 0x11 => loadCauses m job d
    | 0x20 => vecCauses m c s.l.task job d false ++ causeIf (m.rootHeld c (vecOp d).out) 0x84
    | 0x21 => vecCauses m c s.l.task job d true ++ causeIf (m.rootHeld c (vecOp d).out) 0x84
    | 0x30 => moveCauses m c job d false
    | 0x31 => moveCauses m c job d true
    | 0x40 => waitCauses m c d
    | 0x41 => sigCauses m d
    | 0x42 => barCauses m c phase job d
    | 0x50 => collCauses m job d
    | 0x60 => updCauses m phase job d
    | 0x61 => refCauses m phase job d
    | 0x70 => histCauses m job d
    | _ => []
  base ++ own ++ bindCauses m c job d ++ anyCauses m c s.l.task phase job d

/-- The lowest of the failing causes (R52). -/
def lowest : List Nat → Option Nat
  | [] => none
  | c :: cs => match lowest cs with
    | none => some c
    | some b => some (min c b)

end Sys2Proof.Machine
end

