-- ==== Sys2Proof/Machine/Barrier.lean ====
section
/-! DEFINITION. Retirement (R43, R393 to R397) and barriers (R402 to R412): arrivals, the group phase, release, the
verdict, failure. -/
namespace Sys2Proof.Machine

/-! ### The order of the list slots (R48) -/

def SlotSt.before (a b : SlotSt) : Bool := decide (b.l.prio < a.l.prio) || (a.l.prio = b.l.prio && decide (a.l.order ≤ b.l.order))

def insSlot (x : Nat × SlotSt) : List (Nat × SlotSt) → List (Nat × SlotSt)
  | [] => [x]
  | y :: t => if x.2.before y.2 then x :: y :: t else y :: insSlot x t

/-- The occupied slots of a core: highest priority first, among equals the one dispatched first. -/
def CoreSt.slotOrder (x : CoreSt) : List (Nat × SlotSt) := x.slots.foldr insSlot []

def Mod.onSlot (m : Mod) (c k : Nat) (f : SlotSt → SlotSt) : Mod :=
  m.onCore c fun x => { x with slots := x.slots.map fun (p : Nat × SlotSt) => if p.1 = k then (p.1, f p.2) else p }
def Mod.infl? (m : Mod) (c id : Nat) : Option Infl := (m.core! c).infl.find? fun f => f.id = id
def Mod.onInfl (m : Mod) (c id : Nat) (f : Infl → Infl) : Mod :=
  m.onCore c fun x => { x with infl := x.infl.map fun g => if g.id = id then f g else g }
/-- Descriptors of a slot's list in flight. -/
def CoreSt.inflOfSlot (x : CoreSt) (k : Nat) : List Infl := x.infl.filter fun f => f.slot = k

/-- An UPD_LAYER of the layer of a ROOT_REFRESH is in flight or yet to issue, but for those of its own list, whose order is
the list's own (R32, R286; log entry 59). -/
def Mod.refreshHeld (m : Mod) (c k : Nat) (s : SlotSt) (d : Nat) : Bool :=
  let upd := fun (x : Nat) => dOp x = opUpdLayer && updLayerNo x = (refOp d).layer
  cores.any fun c' => let x := m.core! c'
    (x.inflOf s.l.job).any (fun f => upd f.d) ||
    (x.lq.any fun l => l.job = s.l.job && l.descs.any upd) ||
    x.slots.any fun (p : Nat × SlotSt) => p.2.l.job = s.l.job && (c', p.1) ≠ (c, k) && p.2.rest.any upd

/-- The head of a slot may be evaluated: its list runs, no SYNC_WAIT holds it, FENCE and END find every earlier descriptor
retired (Table 1.10, R49), and a ROOT_REFRESH its layer's update (R32). -/
def Mod.headOpen (m : Mod) (c k : Nat) (s : SlotSt) (d : Nat) : Bool :=
  s.blocked.isNone && !s.stopped && !m.halted s.l.job && !(m.core! c).fenced && (m.core! c).fencing.isNone &&
    (!(dFence d || dOp d = opEnd) || ((m.core! c).inflOfSlot k).isEmpty) &&
    (dOp d ≠ opRootRefresh || !m.refreshHeld c k s d)

/-- The deadline of a SYNC_WAIT or BARRIER has come (R399, R411). -/
def Infl.overdue (f : Infl) (now : Nat) : Bool := match f.deadline with | some e => decide (e ≤ now) | none => false

/-! ### Retirement -/

/-- Header signals (R43): ADD 1 to each named object, 2 where both slots name one. -/
def Mod.headerSignals (m : Mod) (c d : Nat) : Mod :=
  match dSigA d, dSigB d with
  | some a, some b => if a = b then m.signal c a false 2 else (m.signal c a false 1).signal c b false 1
  | some a, none => m.signal c a false 1
  | none, some b => m.signal c b false 1
  | none, none => m

/-- A descriptor leaves: pins released, its slot unblocked, its header signals performed where `sig`. -/
def Mod.retireCore (m : Mod) (c id : Nat) (sig : Bool) : Mod :=
  match m.infl? c id with
  | none => m
  | some f =>
    let m := m.onCore c fun x => { x with
      infl := x.infl.filter fun g => g.id ≠ id
      pan := if x.pan.lent = some (f.job, dSeq f.d) then { x.pan with lent := none } else x.pan }
    let m := (m.leaveBuffer c id f.d).onSlot c f.slot fun s => if s.blocked = some id then { s with blocked := none } else s
    let m := m.dropPins f.pins
    if sig then m.headerSignals c f.d else m

/-- Every object of a descriptor's WAIT_MASK is satisfied (R41). -/
def Mod.waitsMet (m : Mod) (c d : Nat) : Bool := (maskList 48 (dWait d)).all fun i => m.satisfied c i 1

/-- A head whose WAIT_MASK is satisfied takes a count of each object it names, all in one instant (R41). -/
def Mod.takeWaits (m : Mod) (c k d : Nat) : Mod :=
  let os := maskList 48 (dWait d)
  let m := os.foldl (fun m i => m.takeSync c i 1) m
  ((if os.isEmpty then m else m.synCnt c 0x18 1)).onSlot c k fun s => { s with waitDone := true }

/-- One evaluation of a core's waiters in the order of R48; the descriptors answered are the SYNC_WAITs that retired in it,
whose header signals follow it (R393). The flag answers whether a wait was satisfied. A head takes its counts at the
evaluation at which all are there and no check fails, and holds its place in line from then on while its engine has no
room or its pins wait (log entry 60). -/
def Mod.evalPass (m : Mod) (c : Nat) : Mod × List Nat × Bool :=
  (m.core! c).slotOrder.foldl (fun (mb : Mod × List Nat × Bool) (ks : Nat × SlotSt) =>
    let m := mb.1
    match Tab.find (m.core! c).slots ks.1 with
    | none => mb
    | some s =>
      match s.blocked with
      | some id =>
        match m.infl? c id with
        | none => mb
        | some f =>
          let p := waitOp f.d
          if !f.overdue m.now && m.satisfied c p.obj p.amount then
            (((m.takeSync c p.obj p.amount).synCnt c 0x18 1).retireCore c id false, mb.2.1 ++ [f.d], true)
          else mb
      | none =>
        match s.rest with
        | [] => mb
        | d :: _ =>
          if dWait d = 0 || s.waitDone || !m.headOpen c ks.1 s d || !m.waitsMet c d || !(descCauses m c s d).isEmpty then mb
          else (m.takeWaits c ks.1 d, mb.2.1, true)) (m, [], false)

/-- Evaluates a core's waiters until nothing more is satisfied. -/
def Mod.settleN : Nat → Mod → Nat → Mod
  | 0, m, _ => m
  | n + 1, m, c =>
    let r := m.evalPass c
    if r.2.2 then Mod.settleN n (r.2.1.foldl (fun m d => m.headerSignals c d) r.1) c else r.1
def Mod.settle (m : Mod) (c : Nat) : Mod := Mod.settleN 64 m c

def Mod.retire (m : Mod) (c id : Nat) (sig : Bool) : Mod := (m.retireCore c id sig).settle c

/-- Several descriptors retire in one instant. -/
def Mod.retireAll (m : Mod) (ps : List (Nat × Nat)) : Mod :=
  let m := ps.foldl (fun m p => m.retireCore p.1 p.2 true) m
  cores.foldl (fun m c => m.settle c) m

/-! ### Payloads (Table 11.2, R405, R406) -/

def Payload.combine (a b : Payload) : Payload :=
  { and32 := a.and32 &&& b.and32, or32 := a.or32 ||| b.or32, max64 := max a.max64 b.max64, sum128 := a.sum128 + b.sum128 }

def i128 (x : Int) : Nat := (x % 2 ^ 128).toNat

def Payload.bits (p : Payload) : Nat := pack [(0, 4, p.and32), (4, 4, p.or32), (8, 8, p.max64), (16, 16, i128 p.sum128)]
def payloadOf (w : Nat) : Payload := { and32 := byf w 0 4, or32 := byf w 4 4, max64 := byf w 8 8, sum128 := sx 128 (byf w 16 16) }

/-- The raw bytes of a one-row INT8 object. -/
def Obj.rawRow (o : Obj) : Nat := (List.range o.cols).foldr (fun c acc => acc * 256 + o.code 0 c) 0

/-- The contribution of SRC_OBJ; null contributes the identity (R405). -/
def Mod.contribution (m : Mod) (src : Nat) : Payload :=
  match m.objAny src with
  | some o => payloadOf o.rawRow
  | none => {}

/-- 2^100, beyond which the norm accumulator saturates (R493). -/
def normCap : Int := 2 ^ 100

/-- The verdict barrier's contribution (R410, R493). -/
def Mod.verdictContribution (m : Mod) (job src : Nat) : Mod × Payload :=
  match m.job? job with
  | none => (m, {})
  | some j =>
    let p := m.contribution src
    let p := if j.nonfinite then { p with and32 := p.and32 &&& 0xFFFFFFFE } else p
    let sat := decide (j.norm < -normCap ∨ normCap ≤ j.norm)
    let p := { p with sum128 := if sat then normCap - 1 else j.norm, or32 := if sat then p.or32 ||| 1 else p.or32 }
    let m := m.onJob job fun j => { j with issueCause := m.heldCause job, issueOp := m.pwr.opNow, normSat := j.normSat || sat }
    (if sat then m.ev 0x8041 0 [(0, 2, job), (2, 8, j.step)] else m, p)

/-- Writes the 64-byte result of Table 11.3 into a DST_OBJ. -/
def Mod.writeResult (m : Mod) (dst : Nat) (pay : Payload) (first last chip count episode : Nat) : Mod :=
  let w := pay.bits + pack [(32, 8, first), (40, 8, last), (48, 4, chip), (52, 4, count), (56, 8, episode)]
  m.onObj dst fun o => { o.writeRow 0 0 ((List.range 64).map fun i => byf w i 1) with written := true }

/-! ### Failure (R411, R412) -/

/-- What a barrier's failure on this module records and sets (R411, R412): the event with the failed episode's number and
arrivals, FAILED, the end of the job's step. -/
def Mod.barFailed (m : Mod) (scope c j code status lost episode arrived : Nat) : Mod :=
  let b := m.barOf scope c j
  let m := m.ev code 0 ([(0, 1, scope), (1, 1, j), (2, 2, b.job), (4, 8, m.stepOf b.job), (12, 8, episode), (20, 7, arrived)] ++
    if code = 0x6022 then [(27, 4, lost)] else [])
  (m.onBarOf scope c j fun b => { b with failed := true }).stopStep b.job status (if code = 0x6022 then lost else 0)

/-- The party of a later arrival. -/
def LaterArr.party (l : LaterArr) : Nat × Nat := (l.core, l.id)
/-- The parties that wait in the current and in later episodes of a barrier. -/
def Bar.gathering (b : Bar) : List (Nat × Nat) := b.waiting ++ b.later.map LaterArr.party

/-- The barrier takes no further part: nothing gathers on it. -/
def Bar.emptied (b : Bar) : Bar := { b with waiting := [], later := [], awaiting := false }

/-- A verdict barrier that ends with a lost partner counts as not finite (R412): the verdict stands so, the reply's NONFINITE
sets (R198), the windows close ABORTED (Table 5.5). -/
def Mod.verdictLost (m : Mod) (job : Nat) : Mod :=
  match m.run? job with
  | none => m
  | some r =>
    if r.verdict.isSome then m
    else (m.onRun job fun r => { r with verdict := some false, flags := r.flags ||| 2 ^ flagNonfinite }).closeWindows job true

/-- The current and later episodes of a module barrier end with the loss of a partner (R412). -/
def Mod.loseBarrier (m : Mod) (j lost : Nat) : Mod :=
  let b := m.mbar! j
  let verdict := b.gathering.any fun p => match m.infl? p.1 p.2 with | some f => (barOp f.d).verdict | none => false
  let m := (m.barFailed 1 0 j 0x6022 stPartnerLost lost b.episode b.arrived).onMbar j Bar.emptied
  (if verdict then m.verdictLost b.job else m).retireAll b.gathering

/-- The episode in which a party waits ends at its deadline (R411): a complete episode of a core barrier that awaits its
release, the current one, or a later one of a module barrier that awaits its group, of which LOCAL_PARTIES arrivals each make one.
Its parties retire without a result, and those of the episodes that gather after it as later arrivals do; the episodes before
it go on (log entry 66). -/
def Mod.failBarrier (m : Mod) (scope c j : Nat) (p : Nat × Nat) : Mod :=
  let b := m.barOf scope c j
  match b.releasable.find? fun r => r.1.contains p with
  | some r =>
    ((m.barFailed scope c j 0x6021 stBarrierTimeout 0 r.2.2.2.2.2 r.2.2.2.2.1).onBarOf scope c j fun b =>
      { b.emptied with releasable := b.releasable.erase r }).retireAll (r.1 ++ b.gathering)
  | none =>
    if b.waiting.contains p then
      ((m.barFailed scope c j 0x6021 stBarrierTimeout 0 b.episode b.arrived).onBarOf scope c j Bar.emptied).retireAll b.gathering
    else
      let k := (b.later.map LaterArr.party).idxOf p / b.parties
      let ps := (b.later.drop (k * b.parties)).map LaterArr.party
      ((m.barFailed scope c j 0x6021 stBarrierTimeout 0 (b.episode + 1 + k) (min b.parties ps.length)).onBarOf scope c j fun b =>
        { b with later := b.later.take (k * b.parties) }).retireAll ps

/-! ### The verdict (R410, R31) -/

/-- The verdict barrier releases on this module: the step's verdict stands, with all that it completes. One that is not finite
is a cause of the step's end, first where STEP_ABORT or a fault comes after it (R553). What a finite one completes of the underflow
watch, the scale histories and the schedules it completes once in a step, in whichever attempt comes first (R613). -/
def Mod.verdictRelease (m : Mod) (job : Nat) (pay : Payload) (first last chip : Nat) : Mod :=
  match m.job? job with
  | none => m
  | some j =>
    let finite := bit pay.and32 0
    let m := m.ev 0x6020 0 [(0, 2, job), (2, 8, j.step), (10, 8, first), (18, 8, last), (26, 4, chip), (30, 1, b2n finite)]
    let g2 := (Val.of ((Fr.ofInt pay.sum128).mul (Fr.pow2 (j.z - 64)))).to32
    let m := m.onJob job fun j => { j with g2 := g2 }
    let m := m.onRun job fun r => { r with
      verdict := some finite
      spread := last - first
      causes := if finite then r.causes else r.causes ++ [(m.now, stNonfinite, 0)]
      flags := r.flags ||| (b2n (j.nonfinite || !finite) * 2 ^ flagNonfinite) }
    let m := m.closeWindows job (!finite)
    let once := finite && !(match j.run with | some r => r.credited | none => false)
    let m := if once then m.underflowEval job else m
    let m := m.clearTotals job
    let m := if once then ((m.mapObjs job Obj.pushScale).metaTraffic.runScheds job).onRun job fun r => { r with credited := true } else m
    m.paceVerdict job first last chip

/-! ### Core barriers (R402, R403, R407) -/

/-- An arrival on a core barrier at stamp now. -/
def Mod.arriveCore (m : Mod) (c j id : Nat) (pay : Payload) : Mod :=
  let b := m.bar! c j
  if b.failed then m.retire c id true
  else
    let now := m.now
    let first := if b.arrived = 0 then now else min b.first now
    let b1 := { b with
      arrived := b.arrived + 1
      pay := b.pay.combine pay
      first := first
      last := max b.last now
      waiting := b.waiting ++ [(c, id)] }
    if b1.arrived = b.parties then
      m.onBar c j fun _ => { b1 with
        sense := !b.sense
        arrived := 0
        pay := {}
        first := 0
        last := 0
        waiting := []
        episode := b.episode + 1
        releasable := b.releasable ++ [(b1.waiting, b1.pay, b1.first, b1.last, b1.arrived, b.episode)] }
    else m.onBar c j fun _ => b1

/-- A party whose deadline has passed: a release stamped now would come too late (R411). -/
def Mod.tooLate (m : Mod) (ps : List (Nat × Nat)) : Option (Nat × Nat) :=
  ps.find? fun p => match m.infl? p.1 p.2 with | some f => f.overdue m.now | none => false

/-- Writes the result for every party and retires them in one instant (R406). -/
def Mod.releaseParties (m : Mod) (ps : List (Nat × Nat)) (pay : Payload) (first last chip count episode : Nat) : Mod :=
  let m := ps.foldl (fun m p => match m.infl? p.1 p.2 with
    | some f => m.writeResult (barOp f.d).dst pay first last chip count episode
    | none => m) m
  m.retireAll ps

/-- The release of the oldest complete episode of a core barrier. -/
def Mod.releaseCore (m : Mod) (c j : Nat) : Mod :=
  match (m.bar! c j).releasable with
  | [] => m
  | (ps, pay, first, last, count, ep) :: rest =>
    match m.tooLate ps with
    | some p => m.failBarrier 0 c j p
    | none =>
      let m := (m.onBar c j fun b => { b with releasable := rest }).synCnt c 0x30 1
      m.releaseParties ps pay first last m.lnk.chip count ep

/-! ### Module barriers (R408, R409, R468) -/

/-- A BARRIER body (Table 11.16). -/
def barBody (bar flags attempt arrivals step episode first last chip pay : Nat) : Nat :=
  let w := pack [(0, 1, bar), (1, 1, flags), (2, 1, attempt), (4, 4, arrivals), (8, 8, step), (16, 8, episode), (24, 8, first),
    (32, 8, last), (40, 4, chip), (48, 32, pay)]
  w + ((List.range 10).foldl (fun a i => a + byf w (8 * i) 8) 0) % 2 ^ 64 * 2 ^ 640

/-- CHECK of a BARRIER body (Table 11.16). -/
def barCheckOk (w : Nat) : Bool := ((List.range 10).foldl (fun a i => a + byf w (8 * i) 8) 0) % 2 ^ 64 = byf w 80 8

def barPkt (job body : Nat) : OutPkt := { dst := 0, job := job, vc := 0, kind := kBarrier, body := body, len := 204, ctx := 0 }

/-- A module's stamp joins those combined so far: FIRST by minimum, LAST by maximum, LAST_CHIP follows LAST, the lower
chip among equals (R468). -/
def Bar.stampIn (b : Bar) (first last chip mods : Nat) : Bar :=
  if b.mods = 0 then { b with first := first, last := last, lastChip := chip, mods := mods }
  else { b with
    first := min b.first first
    last := max b.last last
    lastChip := if b.last < last then chip else if last < b.last then b.lastChip else min b.lastChip chip
    mods := b.mods + mods }

/-- The parties and the payload of an episode are released on this module (R408, R410); one that has failed here is not. -/
def Mod.releaseMod (m : Mod) (j : Nat) (pay : Payload) (first last chip count : Nat) : Mod :=
  let b := m.mbar! j
  if !b.awaiting then m else
  match m.tooLate b.waiting with
  | some p => m.failBarrier 1 0 j p
  | none =>
    let verdict := b.waiting.any fun p => match m.infl? p.1 p.2 with | some f => (barOp f.d).verdict | none => false
    let m := m.onMbar j fun b => { b with
      sense := !b.sense
      arrived := 0
      awaiting := false
      pay := {}
      first := 0
      last := 0
      lastChip := 0
      episode := b.episode + 1
      waiting := []
      got := []
      mods := 0
      relFirst := first
      relLast := last
      relChip := chip }
    let m := if verdict then m.verdictRelease b.job pay first last chip else m
    m.releaseParties b.waiting pay first last chip count b.episode

/-- Once the local phase has ended and every child's arrival is in, the combined arrival goes up, or at the root the
result goes down. -/
def Mod.groupPhase (m : Mod) (j : Nat) : Mod :=
  let b := m.mbar! j
  match m.group? b.job b.group with
  | none => m
  | some g =>
    match g.rankOf m.lnk.chip with
    | none => m
    | some r =>
      if !b.awaiting || !((g.children 0 r).all fun c => b.got.contains c) then m
      else
        let up := barBody j 0 (m.attemptOf b.job) b.mods (m.stepOf b.job) b.episode b.first b.last b.lastChip b.pay.bits
        let down := barBody j 1 (m.attemptOf b.job) b.mods (m.stepOf b.job) b.episode b.first b.last b.lastChip b.pay.bits
        if (g.parent 0 r).isNone then
          (m.formDown g 0 r (barPkt b.job down)).releaseMod j b.pay b.first b.last b.lastChip b.mods
        else m.formUp g 0 r (barPkt b.job up)

/-- An arrival joins the current episode; the stamp of the local phase is that of its last arrival (R408). -/
def Mod.joinMod (m : Mod) (j : Nat) (a : LaterArr) : Mod :=
  let b := m.mbar! j
  let b1 := { b with arrived := b.arrived + 1, pay := b.pay.combine a.pay, waiting := b.waiting ++ [a.party] }
  match m.lostMember b.job b.group with
  | some x => (m.onMbar j fun _ => b1).loseBarrier j x
  | none =>
    if b1.arrived = b.parties then
      (m.onMbar j fun _ => { b1 with awaiting := true }.stampIn a.stamp a.stamp m.lnk.chip 1).groupPhase j
    else m.onMbar j fun _ => b1

/-- A local arrival on a module barrier: one that comes while the episode awaits its group belongs to a later one. -/
def Mod.arriveMod (m : Mod) (c j id : Nat) (pay : Payload) (verdict : Bool) : Mod :=
  let b := m.mbar! j
  let a : LaterArr := { core := c, id := id, pay := pay, verdict := verdict, stamp := m.now }
  if b.failed then m.retire c id true
  else if b.awaiting then m.onMbar j fun b => { b with later := b.later ++ [a] }
  else m.joinMod j a

/-- Where a BARRIER packet stands against the module's own step, attempt and episode (R408): 0 earlier, 1 current,
2 later. -/
def Mod.barWhen (m : Mod) (job j body : Nat) : Nat :=
  let b := m.mbar! j
  let step := byf body 8 8
  let att := byf body 2 1
  let ep := byf body 16 8
  match m.run? job with
  | some r =>
    if r.dispatched then
      if step < r.step then 0 else if r.step < step then 2
      else if att < r.attempt then 0 else if r.attempt < att then 2
      else if ep < b.episode then 0 else if b.episode < ep then 2 else 1
    else if step < r.step then 0 else 2
  | none => if step < m.stepOf job then 0 else 2

/-- A current arrival from a child, or the result from the parent (R468); an episode that has failed here takes no arrival. -/
def Mod.takeBarPkt (m : Mod) (j hdr body : Nat) : Mod :=
  let b := m.mbar! j
  match m.group? b.job b.group with
  | none => m
  | some g =>
    match g.rankOf m.lnk.chip, g.rankOf (hSrc hdr) with
    | some r, some q =>
      let pay := payloadOf (byf body 48 32)
      if bit (byf body 1 1) 0 then
        let m := m.formDown g 0 r (barPkt b.job body)
        m.releaseMod j pay (byf body 24 8) (byf body 32 8) (fld (byf body 40 4) 0 20) (byf body 4 4)
      else if b.failed && b.waiting.isEmpty then m
      else
        (m.onMbar j fun b =>
          { b with got := b.got ++ [q], pay := b.pay.combine pay }.stampIn (byf body 24 8) (byf body 32 8)
            (fld (byf body 40 4) 0 20) (byf body 4 4)).groupPhase j
    | _, _ => m

/-- After an episode or a step begins: local arrivals and packets held for it are taken. -/
def Mod.resumeBarN : Nat → Mod → Nat → Mod
  | 0, m, _ => m
  | n + 1, m, j =>
    let b := m.mbar! j
    match if b.awaiting then none else b.later.head? with
    | some a => Mod.resumeBarN n ((m.onMbar j fun b => { b with later := b.later.tail }).joinMod j a) j
    | none =>
      match b.held.find? fun h => m.barWhen b.job j h.2.1 ≤ 1 with
      | none => m
      | some h =>
        let m := m.onMbar j fun b => { b with held := b.held.erase h }
        Mod.resumeBarN n (if m.barWhen b.job j h.2.1 = 1 then m.takeBarPkt j h.1 h.2.1 else m) j
def Mod.resumeBar (m : Mod) (j : Nat) : Mod := Mod.resumeBarN 256 m j
def Mod.resumeBars (m : Mod) (job : Nat) : Mod :=
  (m.col.mbar.filter fun (p : Nat × Bar) => p.2.job = job).foldl (fun m p => m.resumeBar p.1) m

/-- A delivered arrival or result (not a notice). -/
def Mod.barArrive (m : Mod) (hdr body : Nat) : Mod :=
  let j := fld (byf body 0 1) 0 6
  let b := m.mbar! j
  if b.job ≠ hJob hdr ∨ hJob hdr = 0 then m
  else match m.barWhen b.job j body with
    | 0 => m
    | 1 => (m.takeBarPkt j hdr body).resumeBar j
    | _ => m.onMbar j fun b => { b with held := b.held ++ [(hdr, body, 0)] }

/-- A BARRIER descriptor arrives (R403, R410). -/
def Mod.arrive (m : Mod) (c job id d : Nat) : Mod :=
  let p := barOp d
  let mv := if p.verdict then
      (m.onRun job fun r => { r with verdictSeen := true }).verdictContribution job p.src
    else (m, m.contribution p.src)
  if p.scope = 0 then mv.1.arriveCore c p.bar id mv.2 else (mv.1.arriveMod c p.bar id mv.2 p.verdict).resumeBar p.bar

/-- BARRIER_TIMEOUT (R411): the waiting descriptor's deadline has come. -/
def Mod.barTimeout (m : Mod) (c id : Nat) : Mod :=
  match m.infl? c id with
  | none => m
  | some f =>
    if dOp f.d = opBarrier ∧ f.overdue m.now then
      m.failBarrier (barOp f.d).scope c (barOp f.d).bar (c, id)
    else m

end Sys2Proof.Machine
end

