-- ==== Sys2Proof/Machine/Coll.lean ====
section
/-! DEFINITION. The collective engine (13): contexts, scale codes, SSI lanes, adders, shard delivery,
gathers, permutations, the FP32 wire path. -/
namespace Sys2Proof.Machine

/-! ### Contexts (R470 to R473) -/

def ctxKey (job collId : Nat) : Nat := 1 + job * 65536 + collId
def Ctx.key (x : Ctx) : Nat := ctxKey x.job x.collId
def Mod.ctx? (m : Mod) (k : Nat) : Option Ctx := m.col.ctx.find? fun x => x.key = k
def Mod.onCtx (m : Mod) (k : Nat) (f : Ctx → Ctx) : Mod :=
  { m with col := { m.col with ctx := m.col.ctx.map fun x => if x.key = k then f x else x } }
def Mod.onBlock (m : Mod) (k b : Nat) (f : BlockSt → BlockSt) : Mod :=
  m.onCtx k fun x => { x with blocks := Tab.upd {} x.blocks b f }
def Ctx.block (x : Ctx) (b : Nat) : BlockSt := Tab.get {} x.blocks b
/-- The context, its COLL, group and this module's rank. -/
structure Env where
  x : Ctx
  p : CollOp
  g : Group
  r : Nat

def Mod.env? (m : Mod) (k : Nat) : Option Env :=
  match m.ctx? k with
  | none => none
  | some x =>
    let p := collOp x.d
    match m.group? x.job p.group with
    | none => none
    | some g => (g.rankOf m.lnk.chip).map fun r => { x := x, p := p, g := g, r := r }

def Env.shard (e : Env) (b : Nat) : Nat := shardOf e.g.size e.p.blocks b
def Env.ownBlocks (e : Env) : List Nat := shardBlocks e.g.size e.p.blocks e.r
/-- Elements of block b: their count. -/
def CollOp.blockLen (p : CollOp) (b : Nat) : Nat := min 256 (p.nelem - 256 * b)

/-! ### Packets (Table 13.3) -/

def fWide : Nat := 1
def fNonfin : Nat := 2
def fCodes : Nat := 4
def fFp32 : Nat := 8
def fDown : Nat := 16

def laneCheck (ls : List Int) : Nat := (ls.foldl (fun a l => a + (l % 2 ^ 64).toNat) 0) % 2 ^ 64
def laneBytes (flags : Nat) : Nat := if bit flags 0 then 16 else if bit flags 3 then 4 else 8
def packLanes (w : Nat) (ls : List Int) : Nat := ls.foldr (fun l acc => acc * 2 ^ (8 * w) + (l % 2 ^ (8 * w)).toNat) 0
/-- The 256 lanes of a REDUCE body; FP32 lanes are FP32 codes. -/
def bodyLanes (body : Nat) : List Int :=
  let fl := byf body 2 1
  let w := laneBytes fl
  (List.range 256).map fun i => if bit fl 3 then (byf body (32 + 4 * i) 4 : Int) else sx (8 * w) (byf body (32 + w * i) w)

def blockHdr (x : Ctx) (flags code lmax count shard blk check : Nat) : Nat :=
  pack [(0, 2, x.collId), (2, 1, flags), (3, 1, code), (4, 1, lmax), (5, 1, x.attempt), (8, 4, count), (12, 4, shard), (16, 4, blk),
    (20, 4, x.step), (24, 8, check)]

def collPkt (x : Ctx) (kind vc dst body len : Nat) : OutPkt :=
  { dst := dst, job := x.job, vc := vc, kind := kind, body := body, len := len, ctx := x.key }

/-- A lane packet of one block. -/
def lanePkt (e : Env) (dst flags code lmax count blk : Nat) (ls : List Int) : OutPkt :=
  let w := laneBytes flags
  collPkt e.x kReduce e.p.vc dst
    (blockHdr e.x flags code lmax count (e.shard blk) blk (laneCheck ls) + packLanes w ls * 2 ^ 256) (32 + 256 * w)

/-- A CODES packet from block `first` on (R478). -/
def codesPkt (e : Env) (down : Bool) (shard first : Nat) (cs : List Nat) : OutPkt :=
  collPkt e.x kReduce e.p.vc 0
    (blockHdr e.x (fCodes + (if down then fDown else 0)) 0 0 cs.length shard first 0 +
      cs.foldr (fun c acc => acc * 256 + c) 0 * 2 ^ 256) (32 + cs.length)

/-- Elements of raw data in one EXCHANGE packet: at most 8,192 bytes with the scale codes (log entry 16). -/
def exchElems (fmt : Nat) : Nat := 65536 / max 8 (fmtBits fmt)

def wordSum (w : Nat) : Nat := ((List.range 1024).foldl (fun a i => a + byf w (8 * i) 8) 0) % 2 ^ 64

/-- An EXCHANGE packet: raw element codes packed by the format's width, then the scale codes of a block-scaled object. -/
def exchPkt (e : Env) (dst fmt shard first : Nat) (ws cs : List Nat) : OutPkt :=
  let b := fmtBits fmt
  let eb := cdiv (b * ws.length) 8
  let data := ws.foldr (fun w acc => acc * 2 ^ b + w) 0 + cs.foldr (fun c acc => acc * 256 + c) 0 * 2 ^ (8 * eb)
  collPkt e.x kExchange e.p.vc dst
    (blockHdr e.x 0 0 0 ws.length shard first (wordSum data) + data * 2 ^ 256) (32 + eb + cs.length)

/-- The element codes and scale codes that an EXCHANGE body carries for the elements of an object from l on: one code for each
block that the elements reach into (R494; log entry 16). -/
def Obj.exchData (o : Obj) (l body : Nat) : List Nat × List Nat :=
  let n := byf body 8 4
  let b := fmtBits o.fmt
  let d := body / 2 ^ 256
  let eb := cdiv (b * n) 8
  ((List.range n).map fun i => fld d (b * i) b, (List.range (o.blockStarts l n).length).map fun i => byf d (eb + i) 1)

/-- R484: CHECK of a REDUCE or EXCHANGE body. -/
def collCheckOk (kind body : Nat) : Bool :=
  if kind = kExchange then wordSum (body / 2 ^ 256) = byf body 24 8
  else if bit (byf body 2 1) 2 then byf body 24 8 = 0
  else laneCheck (bodyLanes body) = byf body 24 8

/-! ### Raw copies (R494 to R496) -/

/-- Element codes from linear index l on. -/
def Obj.rawCodes (o : Obj) (l n : Nat) : List Nat := (List.range n).map fun i => Tab.get 0 o.elems (l + i)
/-- The scale codes of the blocks that n elements from l reach into, row by row (BLOCK_AXIS 0). -/
def Obj.rawScales (o : Obj) (l n : Nat) : List Nat := (o.blockStarts l n).map fun e => o.blockCode (e / o.cols) (e % o.cols)

def Obj.putRaw (o : Obj) (l : Nat) (ws cs : List Nat) : Obj :=
  let o1 := (ws.zip (List.range ws.length)).foldl (fun o wi => o.writeLin (l + wi.2) wi.1) o
  let o2 := (cs.zip (o.blockStarts l ws.length)).foldl (fun o ci => o.setBlockCode (ci.2 / o.cols) (ci.2 % o.cols) ci.1) o1
  { o2.clearPoisonAt ((List.range ws.length).map (· + l)) with written := true }

/-- Writes raw data into DST_OBJ at linear index l; a quenched COLL writes nothing there (R502). -/
def Mod.rawWrite (m : Mod) (e : Env) (l : Nat) (ws cs : List Nat) : Mod :=
  if e.x.quenched then m
  else ((m.onCtx e.x.key fun x => { x with wrote := (l, ws.length) :: x.wrote }).onObj e.p.dst fun o => o.putRaw l ws cs).touch
    e.p.dst ((List.range ws.length).map (· + l))

/-! ### Source values, codes, lanes (R475 to R477) -/

def Mod.srcBlock (m : Mod) (e : Env) (b : Nat) : List Val :=
  match m.objAny e.p.src with
  | some o => (List.range (e.p.blockLen b)).map fun i => o.valueLin (e.p.elem0 + 256 * b + i)
  | none => []

def big128 (v : Val) : Bool := match v with | .fin q => decide (128 ≤ q.log2) | .zero _ => false | _ => true

def localCode (vs : List Val) : Nat :=
  if vs.any big128 then 0xFF
  else if vs.all Val.isZero then 0
  else
    let top := vs.foldl (fun (a : Int) v => match v with | .fin q => max a q.log2 | _ => a) (-1000000)
    (min (max (top + 127) 1) 254).toNat

/-- ssi_in of R476: the lane; none where `over` is set. -/
def ssiIn (v : Val) (code : Nat) : Option Int :=
  match v with
  | .fin q =>
    let n : Int := (q.mul (Fr.pow2 (166 - code))).abs.rne
    let n := if q.neg? then -n else n
    if n ≤ -(2 ^ 106) ∨ 2 ^ 106 ≤ n then none else some n
  | .zero _ => some 0
  | _ => none

def narrow (n : Int) : Bool := decide (-(2 ^ 63) ≤ n ∧ n < 2 ^ 63)
def padLanes (ls : List Int) : List Int := ls ++ List.replicate (256 - ls.length) 0

/-! ### Adders (R485, R486) -/

/-- An input of a block joins its sum; whether the sum needs wide lanes is seen once all inputs are in (R485). -/
def BlockSt.add (s : BlockSt) (rank : Nat) (ls : List Int) (count code lmax : Nat) (nonfin wide : Bool) : BlockSt :=
  let sum := if s.lanes.isEmpty then ls else (s.lanes.zip ls).map fun p => p.1 + p.2
  let clash : Bool := match s.code with | some c => c ≠ code | none => false
  { s with
    from_ := s.from_ ++ [rank]
    lanes := sum
    count := s.count + count
    code := some (s.code.getD code)
    lmax := max s.lmax lmax
    nonfin := s.nonfin || nonfin || clash
    wide := s.wide || wide }

/-- Bytes 0 to 19 of the events of one block (Table 13.16). -/
def Env.blockPay (e : Env) (b : Nat) : List (Nat × Nat × Nat) :=
  [(0, 2, e.x.job), (2, 2, e.x.collId), (4, 4, e.shard b), (8, 4, b), (12, 8, e.x.step)]

/-- Adds an input: event 0x8003 where its CODE differs (R486). -/
def Mod.addInput (m : Mod) (k b rank : Nat) (ls : List Int) (count code lmax : Nat) (nonfin wide : Bool) : Mod :=
  match m.env? k with
  | none => m
  | some e =>
    let s0 := e.x.block b
    let s1 := s0.add rank ls count code lmax nonfin wide
    let m := m.onBlock k b fun _ => s1
    match s0.code with
    | some c => if c ≠ code then m.ev 0x8003 0 (e.blockPay b ++ [(20, 1, c), (21, 1, code)]) else m
    | none => m

/-! ### Results (R488 to R492) -/

/-- The final value of element i of a block (R489, R499). -/
def finalVal (p : CollOp) (s : BlockSt) (i : Nat) : Val :=
  let code := s.code.getD 0
  if s.nonfin then .nan
  else if p.fp32 then f32 ((s.lanes.getD i 0).toNat)
  else if code = 0xFF then .nan
  else if code = 0 then .pos0
  else Val.of ((Fr.ofInt (s.lanes.getD i 0)).mul (Fr.pow2 ((code : Int) - 166 + p.shift)))

/-- Where element i of block b of the range is written in DST_OBJ. -/
def Env.dstLin (e : Env) (b i : Nat) : Nat :=
  if e.p.op = 0 then 256 * b + i - 256 * shardLo e.g.size e.p.blocks e.r else e.p.elem0 + 256 * b + i

/-- Squares of finite elements join the norm accumulator (R492). -/
def Mod.normAdd (m : Mod) (e : Env) (lins : List Nat) : Mod :=
  if !e.p.norm then m else
    match m.objAny e.p.dst, m.job? e.x.job with
    | some o, some j =>
      let s := lins.foldl (fun (a : Nat) l => match o.valueLin l with
        | .fin q => a + ((q.mul q).mul (Fr.pow2 (64 - j.z))).rne
        | _ => a) 0
      m.onJob e.x.job fun j => { j with norm := j.norm + s, normSat := j.normSat || decide (normCap ≤ j.norm + s) }
    | _, _ => m

/-- Converts elements (block, index) into DST_OBJ in order of their place there, observed by the numeric watch (R490). -/
def Mod.collConvert (m : Mod) (e : Env) (els : List (Nat × Nat)) : Mod :=
  if e.x.quenched then m else
    match m.objAny e.p.dst with
    | none => m
    | some o =>
      let prod : Prod := { job := e.x.job, layer := e.p.layer, cls := e.p.cls, seq := dSeq e.x.d, core := 0, engine := 3, stoch := e.p.stoch, pantry := some e.x.core }
      let m := m.onCtx e.x.key fun x => { x with wrote := els.map (fun (bi : Nat × Nat) => (e.dstLin bi.1 bi.2, 1)) ++ x.wrote }
      let m := m.convWrite prod e.p.dst (els.map fun bi =>
        let l := e.dstLin bi.1 bi.2
        { r := l / o.cols, c := l % o.cols, v := finalVal e.p (e.x.block bi.1) bi.2 })
      m.normAdd e ((els.filter fun bi => e.shard bi.1 = e.r).map fun bi => e.dstLin bi.1 bi.2)

/-- The blocks whose results an FP8 DST_OBJ takes here: the whole range, or the own shard. -/
def Env.hereBlocks (e : Env) : List Nat := if e.p.op = 0 then e.ownBlocks else List.range e.p.blocks

/-- Converts each tile of an FP8 DST_OBJ whose blocks within the range have all arrived (R488). -/
def Mod.convertTiles (m : Mod) (k : Nat) : Mod :=
  match m.env? k with
  | none => m
  | some e =>
    match m.objAny e.p.dst with
    | none => m
    | some o =>
      let all := e.hereBlocks.flatMap fun b => (List.range (e.p.blockLen b)).map fun i => (b, i)
      let tileOf := fun (bi : Nat × Nat) => let l := e.dstLin bi.1 bi.2; o.tileOf (l / o.cols) (l % o.cols)
      let tiles := ((all.map tileOf).eraseDups).filter fun t => !e.x.tilesDone.contains t
      tiles.foldl (fun m t =>
        let els := all.filter fun bi => tileOf bi = t
        if els.all fun bi => (e.x.block bi.1).got then
          (m.collConvert e els).onCtx k fun x => { x with tilesDone := t :: x.tilesDone }
        else m) m

/-- Writes a byte of PRED_OBJ from a final LMAX (R482). -/
def predByte (lmax : Nat) : Nat := if lmax = 0 then 1 else if lmax = 0xFF then 0 else min (lmax + 2) 0xFE
def Mod.writePred (m : Mod) (k b lmax : Nat) : Mod :=
  match m.env? k with
  | none => m
  | some e =>
    if !e.p.predicted then m else
      (m.onObj e.p.aux fun o => { o.writeLin b (predByte lmax) with written := true }).onCtx k fun x =>
        { x with predW := if x.predW.contains b then x.predW else b :: x.predW }

/-- Cuts a shard's blocks into runs of 8,192 codes (R478). -/
def chunks : Nat → List Nat → List (List Nat)
  | 0, _ => []
  | n + 1, l => if l.isEmpty then [] else l.take 8192 :: chunks n (l.drop 8192)

/-- The owner's final LMAX codes go down once every block of a chunk of its shard has its sum (R482). -/
def Mod.sendLmax (m : Mod) (k : Nat) : Mod :=
  match m.env? k with
  | none => m
  | some e =>
    if !e.p.predicted then m else
      (chunks (e.ownBlocks.length + 1) e.ownBlocks).foldl (fun m ch =>
        match ch with
        | [] => m
        | b0 :: _ =>
          match m.ctx? k with
          | none => m
          | some x =>
            if x.lmaxSent.contains b0 ∨ !(ch.all fun b => (x.block b).sent) then m
            else
              let cs := ch.map fun b => (x.block b).lmax
              let m := m.onCtx k fun x => { x with lmaxSent := b0 :: x.lmaxSent }
              let m := m.formDown e.g e.r e.r (codesPkt e true e.r b0 cs)
              (ch.zip cs).foldl (fun m bc => m.writePred k bc.1 bc.2) m) m

/-- A block whose sum counts fewer contributions than the group has members: event 0x8002, and it is NONFIN (R489). -/
def Mod.shortBlock (m : Mod) (k b : Nat) : Mod :=
  match m.env? k with
  | none => m
  | some e =>
    let s := e.x.block b
    if e.g.size ≤ s.count then m
    else (m.onBlock k b fun s => { s with nonfin := true }).ev 0x8002 0 (e.blockPay b ++ [(20, 4, s.count)])

/-- The owner has a block's final sum (R489): it is converted into DST_OBJ, and under ALL_REDUCE gathered to every member
down the shard's tree. -/
def Mod.ownerDone (m : Mod) (k b : Nat) : Mod :=
  let m := (m.shortBlock k b).onBlock k b fun s => { s with sent := true, got := true }
  match m.env? k with
  | none => m
  | some e =>
    let s := e.x.block b
    match m.objAny e.p.dst with
    | none => m
    | some o =>
      let els := (List.range (e.p.blockLen b)).map fun i => (b, i)
      let m :=
        if o.fp8 then
          let m := if e.p.op = 1 then
              let fl := fDown + (if s.wide then fWide else 0) + (if s.nonfin then fNonfin else 0) + (if e.p.fp32 then fFp32 else 0)
              (e.g.children e.r e.r).foldl (fun m c =>
                (m.form (lanePkt e (e.g.chip c) fl (s.code.getD 0) s.lmax e.g.size b (padLanes s.lanes))).colCnt 0x10 1) m
            else m
          m.convertTiles k
        else
          let m := m.collConvert e els
          if e.p.op = 1 then
            let seed := match m.job? e.x.job with | some j => j.seed | none => 0
            let prod : Prod := { job := e.x.job, layer := e.p.layer, cls := e.p.cls, seq := 0, core := 0, engine := 3, stoch := e.p.stoch }
            let ws := els.map fun bi => convert o.fmt (rndOf prod seed e.x.step (e.dstLin b bi.2)) (finalVal e.p s bi.2)
            let src := PktSrc.raw e.p.dst (e.dstLin b 0) ws.length
            (e.g.children e.r e.r).foldl (fun m c =>
              (m.send { exchPkt e (e.g.chip c) o.fmt e.r (256 * b) ws [] with src := some src }).colCnt 0x10 1) m
          else m
      m.sendLmax k

/-- The inputs of a block are all in: it is WIDE where one of them is, or where a sum does not fit its lane (R485); the first
of a context records event 0x8001. -/
def Mod.formBlock (m : Mod) (k b : Nat) : Mod :=
  match m.env? k with
  | none => m
  | some e =>
    let s := e.x.block b
    if !s.wide && s.lanes.all narrow then m
    else
      let m := (m.onBlock k b fun s => { s with wide := true }).colCnt 0x20 1
      if e.x.widened then m else (m.onCtx k fun x => { x with widened := true }).ev 0x8001 0 (e.blockPay b)

/-- A block whose inputs are all in goes up to the parent, or at the owner is finished (R485). -/
def Mod.advanceBlock (m : Mod) (k b : Nat) : Mod :=
  match m.env? k with
  | none => m
  | some e =>
    let s := e.x.block b
    let sh := e.shard b
    let kids := e.g.children sh e.r
    if s.sent ∨ !(s.from_.contains e.r) ∨ !(kids.all fun c => s.from_.contains c) then m
    else
      let m := m.formBlock k b
      if sh = e.r then m.ownerDone k b
      else
        let s := match m.ctx? k with | some x => x.block b | none => s
        let fl := (if s.wide then fWide else 0) + (if s.nonfin then fNonfin else 0)
        let parent := (e.g.parent sh e.r).getD 0
        let pkt := lanePkt e (e.g.chip parent) fl (s.code.getD 0) s.lmax s.count b (padLanes s.lanes)
        let m := (m.onBlock k b fun s => { s with sent := true }).colCnt 0x10 1
        if kids.isEmpty then m.send { pkt with src := some (.lanes b) } else m.form pkt

/-- This module's own contribution to a block under a code (R476, R477, R502). A lane that is too big sets both flags of
R476; so does a NaN or an infinity under a predicted code (log entry 79). -/
def Mod.contribute (m : Mod) (k b code : Nat) : Mod :=
  match m.env? k with
  | none => m
  | some e =>
    let vs := if e.x.quenched then [] else m.srcBlock e b
    let ns := vs.map fun v => ssiIn v code
    let tooBig := ns.any Option.isNone
    let ls := padLanes (if tooBig then [] else ns.map fun n => n.getD 0)
    let lm := if e.x.quenched then 0 else localCode vs
    (m.addInput k b e.r ls 1 code lm tooBig (tooBig || ls.any fun n => !narrow n)).advanceBlock k b

/-- A block's agreed code has arrived (R478, R479). -/
def Mod.agree (m : Mod) (k b code : Nat) : Mod :=
  match m.env? k with
  | none => m
  | some e =>
    let m := m.onBlock k b fun s => { s with agreed := some code }
    if code = 0 ∨ code = 0xFF then
      let m := m.onBlock k b fun s => { s with code := some code, lmax := code, count := e.g.size, lanes := padLanes [] }
      if e.shard b = e.r then m.ownerDone k b else m.onBlock k b fun s => { s with sent := true }
    else m.contribute k b code

/-- A chunk of a shard's codes whose inputs are all in goes up, or at the root comes down as the agreed codes (R478). -/
def Mod.advanceCodes (m : Mod) (k s : Nat) : Mod :=
  match m.env? k with
  | none => m
  | some e =>
    let kids := e.g.children s e.r
    let bs := shardBlocks e.g.size e.p.blocks s
    (chunks (bs.length + 1) bs).foldl (fun m ch =>
      match ch, m.ctx? k with
      | b0 :: _, some x =>
        let ready := ch.all fun b => let t := x.block b
          !t.codeSent && t.codeFrom.contains e.r && kids.all fun c => t.codeFrom.contains c
        if !ready then m
        else
          let cs := ch.map fun b => (x.block b).codeMax
          let m := ch.foldl (fun m b => m.onBlock k b fun t => { t with codeSent := true }) m
          if s = e.r then
            (ch.zip cs).foldl (fun m bc => m.agree k bc.1 bc.2) (m.formDown e.g s e.r (codesPkt e true s b0 cs))
          else m.formUp e.g s e.r (codesPkt e false s b0 cs)
      | _, _ => m) m

def Mod.codeInput (m : Mod) (k b rank code : Nat) : Mod :=
  m.onBlock k b fun t => { t with codeFrom := t.codeFrom ++ [rank], codeMax := max t.codeMax code }

/-! ### The FP32 wire path (R499) -/

/-- An FP32 contribution joins the chain of its shard; `arriving` are the lanes, COUNT and LMAX of the packet that came for it.
LMAX combines by maximum as in every lane packet (R482). -/
def Mod.fp32Step (m : Mod) (k b : Nat) (arriving : Option (List Int × Nat × Nat)) : Mod :=
  match m.env? k with
  | none => m
  | some e =>
    let sh := e.shard b
    let vs := m.srcBlock e b
    let own := padLanes (if e.x.quenched then [] else vs.map fun v => ((convert 0 .rne v : Nat) : Int))
    let sum := match arriving with
      | none => own
      | some (ls, _) => (ls.zip own).map fun p => (((f32Add (f32 p.1.toNat) (f32 p.2.toNat)).to32 : Nat) : Int)
    let count := 1 + (match arriving with | some a => a.2.1 | none => 0)
    let lmax := max (if e.x.quenched then 0 else localCode vs) (match arriving with | some a => a.2.2 | none => 0)
    let m := m.onBlock k b fun s => { s with lanes := sum, count := count, from_ := [e.r], code := some 1, lmax := lmax }
    if sh = e.r then m.ownerDone k b
    else
      let pkt := lanePkt e (e.g.chip ((e.r + 1) % e.g.size)) fFp32 0 lmax count b sum
      let m := (m.onBlock k b fun s => { s with sent := true }).colCnt 0x10 1
      if arriving.isNone then m.send { pkt with src := some (.lanes b) } else m.form pkt

/-! ### The local COLL (R471, R478 to R481, R494, R495) -/

/-- Sends raw data in EXCHANGE packets, `first` numbering its first element. -/
def Mod.sendRaw (m : Mod) (e : Env) (o : Obj) (chips : List Nat) (shard first l n : Nat) : Mod :=
  let step := exchElems o.fmt
  (List.range (cdiv n step)).foldl (fun m i =>
    let k := min step (n - step * i)
    let ws := o.rawCodes (l + step * i) k
    let cs := o.rawScales (l + step * i) k
    let src := PktSrc.raw e.p.src (l + step * i) k
    chips.foldl (fun m c => (m.send { exchPkt e c o.fmt shard (first + step * i) ws cs with src := some src }).colCnt 0x10 1) m) m

/-- Writes the data that a PERMUTE in place holds, once every entry it sent is acknowledged (R496). -/
def Mod.flushStage (m : Mod) (k : Nat) : Mod :=
  match m.env? k with
  | none => m
  | some e =>
    if e.x.stagePend.isEmpty ∨ !m.allAcked k then m
    else
      let m := e.x.stagePend.foldl (fun m x => m.rawWrite e x.1 x.2.1 x.2.2) m
      m.onCtx k fun x => { x with stagePend := [] }

/-- Data of a PERMUTE reaches this member. -/
def Mod.permuteIn (m : Mod) (k l : Nat) (ws cs : List Nat) : Mod :=
  match m.env? k with
  | none => m
  | some e =>
    let m := m.onCtx k fun x => { x with received := x.received + ws.length }
    if e.p.src = e.p.dst then m.onCtx k fun x => { x with stagePend := x.stagePend ++ [(l, ws, cs)] } else m.rawWrite e l ws cs

/-- Elements b to b + n − 1 of a gather's range stand here; a block is delivered with its last one. -/
def Mod.gathered (m : Mod) (k : Nat) (p : CollOp) (b n : Nat) : Mod :=
  ((List.range (cdiv (b + n) 256 - b / 256)).map (· + b / 256)).foldl (fun m j =>
    let part := min (b + n) (256 * j + 256) - max b (256 * j)
    m.onBlock k j fun s => { s with gotN := s.gotN + part, got := decide (p.blockLen j ≤ s.gotN + part) }) m

def Mod.startGather (m : Mod) (k : Nat) (e : Env) : Mod :=
  match m.objAny e.p.src with
  | none => m
  | some o =>
    let lo := 256 * shardLo e.g.size e.p.blocks e.r
    let n := min e.p.nelem (256 * shardLo e.g.size e.p.blocks (e.r + 1)) - lo
    let m := m.rawWrite e (e.p.elem0 + lo) (o.rawCodes 0 n) (o.rawScales 0 n)
    let m := (m.onCtx k fun x => { x with received := x.received + n }).gathered k e.p lo n
    m.sendRaw e o ((e.g.children e.r e.r).map e.g.chip) e.r lo 0 n

def Mod.startPermute (m : Mod) (k : Nat) (e : Env) : Mod :=
  match m.objAny e.p.src, m.objAny e.p.aux with
  | some o, some a =>
    (a.pmap.foldl (fun m x =>
      if x.rank = e.r then m.permuteIn k x.dst (o.rawCodes x.src x.count) (o.rawScales x.src x.count)
      else m.sendRaw e o [e.g.chip x.rank] 0 x.dst x.src x.count) m).flushStage k
  | _, _ => m

def Mod.startReduce (m : Mod) (k : Nat) (e : Env) : Mod :=
  let bs := List.range e.p.blocks
  if e.p.fp32 then
    bs.foldl (fun m b => if e.r = (e.shard b + 1) % e.g.size then m.fp32Step k b none else m) m
  else if e.x.prepass then
    let m := m.colCnt 0x48 1
    let m := bs.foldl (fun m b => m.codeInput k b e.r (if e.x.quenched then 0 else localCode (m.srcBlock e b))) m
    (List.range e.g.size).foldl (fun m s => m.advanceCodes k s) m
  else
    match m.objAny e.p.aux with
    | some o => bs.foldl (fun m b => m.contribute k b (Tab.get 0 o.elems b)) m
    | none => m

/-- A delivered packet of the context's own step and attempt (R485, R488, R494, R495). -/
def Mod.collTake (m : Mod) (k hdr body : Nat) : Mod :=
  match m.env? k with
  | none => m
  | some e =>
    let fl := byf body 2 1
    let sh := byf body 12 4
    let b := byf body 16 4
    let q := (e.g.rankOf (hSrc hdr)).getD 0
    let again := fun (m : Mod) (s : Nat) =>
      (e.g.children s e.r).foldl (fun m c =>
        m.form (collPkt e.x kReduce e.p.vc (e.g.chip c) body (32 + if bit fl 2 then byf body 8 4 else 256 * laneBytes fl))) m
    if hKind hdr = kExchange then
      match m.objAny e.p.dst with
      | none => m
      | some o =>
        let d := o.exchData (if e.p.op = 3 then b else e.p.elem0 + b) body
        if e.p.op = 3 then (m.permuteIn k b d.1 d.2).flushStage k
        else
          let m := (e.g.children sh e.r).foldl (fun m c =>
            m.send { collPkt e.x kExchange e.p.vc (e.g.chip c) body (32 + cdiv (fmtBits o.fmt * d.1.length) 8 + d.2.length) with
              src := some (.raw e.p.dst (e.p.elem0 + b) d.1.length) }) m
          let m := m.rawWrite e (e.p.elem0 + b) d.1 d.2
          (m.onCtx k fun x => { x with received := x.received + d.1.length }).gathered k e.p b d.1.length
    else if bit fl 2 then
      let n := byf body 8 4
      let cs := (List.range n).map fun i => (b + i, byf body (32 + i) 1)
      if bit fl 4 then
        let m := again m sh
        cs.foldl (fun m bc =>
          match m.ctx? k with
          | some x => if x.prepass && (x.block bc.1).agreed.isNone then m.agree k bc.1 bc.2 else m.writePred k bc.1 bc.2
          | none => m) m
      else (cs.foldl (fun m bc => m.codeInput k bc.1 q bc.2) m).advanceCodes k sh
    else
      let m := m.colCnt 0x18 1
      if bit fl 4 then
        let m := again m sh
        (m.onBlock k b fun s => { s with
          lanes := bodyLanes body, code := some (byf body 3 1), nonfin := bit fl 1, wide := bit fl 0, got := true }).convertTiles k
      else if bit fl 3 then m.fp32Step k b (some (bodyLanes body, byf body 8 4, byf body 4 1))
      else (m.addInput k b q (bodyLanes body) (byf body 8 4) (byf body 3 1) (byf body 4 1) (bit fl 1) (bit fl 0)).advanceBlock k b

/-- Whether a packet belongs to the job's current step and attempt (Table 13.1): 0 earlier or abandoned, 1 current,
2 later. -/
def Mod.collWhen (m : Mod) (job body : Nat) : Nat :=
  let st := byf body 20 4
  let att := byf body 5 1
  match m.job? job with
  | none => 0
  | some j =>
    let d := (st + 2 ^ 32 - j.step % 2 ^ 32) % 2 ^ 32
    if d = 0 then
      match j.run with
      | some r => if att < r.attempt then 0 else if r.attempt < att then 2 else 1
      | none => 2
    else if d < 2 ^ 31 then 2 else 0

/-- An adder's results disagree (R465): the block is not sent, a contained fault; the caller contains it. -/
def Mod.reducerFault (m : Mod) (port hdr body : Nat) : Mod :=
  m.ev 0x8040 2 [(0, 1, port), (1, 2, hJob hdr), (3, 2, byf body 0 2), (5, 4, byf body 16 4)]

/-- What parked packets take of the park area. -/
def parkedBytes (l : List (Nat × Nat × Nat × Bool)) : Nat := l.foldl (fun a q => if q.2.2.2 then a + 256 * hLen q.2.1 else a) 0
/-- The parked packets of a context whose step and attempt come before `w` (Table 13.1) leave the park area as stale. -/
def Mod.dropStale (m : Mod) (x : Ctx) (w : Nat) : Mod :=
  let old := x.parked.filter fun q => decide (m.collWhen x.job q.2.2.1 < w)
  ({ m with col := { m.col with parkBytes := m.col.parkBytes - parkedBytes old } }).colCnt 0x40 old.length

/-- Packets parked for a context whose COLL has now issued (R472). -/
def Mod.unpark (m : Mod) (k : Nat) : Mod :=
  match m.ctx? k with
  | none => m
  | some x =>
    let now := x.parked.filter fun q => m.collWhen x.job q.2.2.1 = 1
    let m := (m.dropStale x 1).onCtx k fun y => { y with parked := x.parked.filter fun q => m.collWhen x.job q.2.2.1 = 2 }
    let m := { m with col := { m.col with parkBytes := m.col.parkBytes - parkedBytes now } }
    now.foldl (fun m q => m.collTake k q.2.1 q.2.2.1) m

/-- The lanes of STAGE_OBJ that a context has used hold what the engine's own layout left there, which is free (R487,
R496). -/
def Mod.leaveStage (m : Mod) (k : Nat) : Mod :=
  match m.env? k with
  | none => m
  | some e =>
    if !e.x.started then m
    else if e.p.op < 2 ∧ !e.p.fp32 then m.leavePartial e.p.stage [(0, 256 * stageNeed e.g e.p.blocks e.r)]
    else if e.p.op = 3 ∧ e.p.src = e.p.dst then
      match m.objAny e.p.stage with
      | some o => m.leavePartial e.p.stage [(0, o.elemsN)]
      | none => m
    else m

/-- The context closes (R471, R503); parked packets whose step and attempt are not before `w` keep it (Table 13.1). -/
def Mod.closeCtx (m : Mod) (k : Nat) (w : Nat := 2) : Mod :=
  match m.ctx? k with
  | none => m
  | some x =>
    let m := (m.leaveStage k).dropStale x w
    let keep := x.parked.filter fun q => decide (w ≤ m.collWhen x.job q.2.2.1)
    let rest := m.col.ctx.filter fun (y : Ctx) => y.key ≠ k
    let m := { m with lnk := { m.lnk with formed := m.lnk.formed.filter (fun q => q.ctx ≠ k), parked := m.lnk.parked.filter fun q => q.ctx ≠ k } }
    { m with col := { m.col with ctx :=
        if keep.isEmpty then rest else rest ++ [{ job := x.job, collId := x.collId, step := 0, attempt := 0, parked := keep }] } }

/-- The descriptor of a context leaves without retiring a result; its step ends with the status given. -/
def Mod.endColl (m : Mod) (k code status lost : Nat) : Mod :=
  match m.ctx? k with
  | none => m
  | some x =>
    let done := if (collOp x.d).op = 3 then x.received else x.blocks.foldl (fun a (p : Nat × BlockSt) => a + b2n p.2.got) 0
    let m := m.ev code 0 ([(0, 2, x.job), (2, 2, x.collId), (4, 8, x.step), (12, 8, done)] ++ if code = 0x8021 then [(20, 4, lost)] else [])
    let m := m.stopStep x.job status (if code = 0x8021 then lost else 0)
    let m := m.closeCtx k
    match x.local_ with
    | some id => m.retire x.core id true
    | none => m

/-- The COLL issues and opens its context (R471); with a member of its group lost it ends at once (R412, R501). -/
def Mod.openColl (m : Mod) (c job id d : Nat) (quenched : Bool) : Mod :=
  let p := collOp d
  let k := ctxKey job p.collId
  let x0 : Ctx := (m.ctx? k).getD { job := job, collId := p.collId, step := 0, attempt := 0 }
  let x : Ctx := { x0 with
    step := m.stepOf job
    attempt := m.attemptOf job
    local_ := some id
    core := c
    d := d
    quenched := quenched
    blocks := [] }
  let m := { m with col := { m.col with ctx := (m.col.ctx.filter fun (y : Ctx) => y.key ≠ k) ++ [x] } }
  let m := m.onRun job fun r => { r with collIds := p.collId :: r.collIds }
  match m.lostMember job p.group with
  | some chip => m.endColl k 0x8021 stPartnerLost chip
  | none => m

/-- The COLL begins its work on a context that is open: its predicted codes are read, its own part is sent or added, and the
packets that came for it are taken (R351, R472, R478 to R481). -/
def Mod.beginColl (m : Mod) (k : Nat) : Mod :=
  match m.ctx? k with
  | none => m
  | some x =>
    let p := collOp x.d
    let red := p.op = 0 || p.op = 1
    let preds := match m.objAny p.aux with | some o => (List.range p.blocks).map fun b => (b, Tab.get 0 o.elems b) | none => []
    let missing := if red && p.predicted then preds.find? fun bc => bc.2 = 0 else none
    let m := m.onCtx k fun x => { x with started := true, prepass := red && !p.fp32 && (!p.predicted || missing.isSome) }
    let m := match missing with
      | some bc => m.ev 0x8030 0 [(0, 2, x.job), (2, 2, p.collId), (4, 8, m.stepOf x.job), (12, 8, bc.1)]
      | none => m
    match m.env? k with
    | none => m
    | some e =>
      (if red then m.startReduce k e else if p.op = 2 then m.startGather k e else m.startPermute k e).unpark k

/-- A COLL may retire (R500): everything it must write is written, every packet acknowledged, PRED_OBJ written. -/
def Mod.collReady (m : Mod) (k : Nat) : Bool :=
  match m.env? k with
  | none => true
  | some e =>
    let p := e.p
    e.x.started && m.allAcked k && e.x.stagePend.isEmpty &&
    (if p.op = 2 ∨ p.op = 3 then decide (p.nelem ≤ e.x.received)
    else
      (List.range p.blocks).all (fun b => (e.x.block b).sent) &&
      e.hereBlocks.all (fun b => (e.x.block b).got) &&
      (!p.predicted || (List.range p.blocks).all fun b => e.x.predW.contains b))

/-! ### Delivery of REDUCE and EXCHANGE packets (Table 13.1, R484) -/

/-- A packet to be parked finds the park area of 256 MiB full. -/
def Mod.parkRoom (m : Mod) (x : HeldPkt) (pay : List (Nat × Nat × Nat)) : Mod × Bool :=
  if 268435456 < m.col.parkBytes + 256 * hLen x.hdr then
    (({ m with col := { m.col with parkFull := true } }.colCnt 0x38 1).ev 0x8012 0 pay, false)
  else (m, true)

/-- Drops before delivery: a bad CHECK, no context, a full park area. -/
def Mod.collGate (m : Mod) (x : HeldPkt) : Mod × Bool :=
  let kind := hKind x.hdr
  let pay := [(0, 1, x.port), (1, 3, hSrc x.hdr), (4, 2, hJob x.hdr), (6, 2, byf x.body 0 2)]
  if kind ≠ kReduce ∧ kind ≠ kExchange then (m, true)
  else if !collCheckOk kind x.body then ((m.colCnt 0x28 1).ev 0x8010 1 pay, false)
  else
    let k := ctxKey (hJob x.hdr) (byf x.body 0 2)
    if m.collWhen (hJob x.hdr) x.body = 0 then (m, true)
    else match m.ctx? k with
      | none => if 256 ≤ m.col.ctx.length then ((m.colCnt 0x30 1).ev 0x8011 0 pay, false) else m.parkRoom x pay
      | some y => if m.collWhen (hJob x.hdr) x.body = 1 ∧ y.local_.isSome then (m, true) else m.parkRoom x pay

/-- What a packet brings needs no tile of the COLL: lanes on their way to the root, which its sums take, and codes (R472); the
rest is written, forwarded or added to the member's own elements once its tiles are there (R351; log entry 79). -/
def needsNoTile (x : HeldPkt) : Bool :=
  let fl := byf x.body 2 1
  hKind x.hdr = kReduce && !bit fl 4 && !bit fl 3

/-- A delivered REDUCE or EXCHANGE packet is added or written, parked, or discarded as stale. -/
def Mod.collDeliver (m : Mod) (x : HeldPkt) : Mod :=
  let job := hJob x.hdr
  let k := ctxKey job (byf x.body 0 2)
  let w := m.collWhen job x.body
  if w = 0 then m.colCnt 0x40 1
  else
    let m := if (m.ctx? k).isSome then m
      else { m with col := { m.col with ctx := m.col.ctx ++ [{ job := job, collId := byf x.body 0 2, step := 0, attempt := 0 }] } }
    match m.ctx? k with
    | some y =>
      if w = 1 ∧ y.local_.isSome ∧ (y.started ∨ needsNoTile x) then m.collTake k x.hdr x.body
      else if w = 1 ∧ y.local_.isSome then m.onCtx k fun y => { y with parked := y.parked ++ [(x.port, x.hdr, x.body, false)] }
      else
        let m := m.onCtx k fun y => { y with parked := y.parked ++ [(x.port, x.hdr, x.body, true)] }
        { m with col := { m.col with parkBytes := m.col.parkBytes + 256 * hLen x.hdr } }
    | none => m

/-! ### Ends of a COLL (R501) -/

/-- COLL_TIMEOUT: the deadline has come and the COLL has not retired. -/
def Mod.collTimeout (m : Mod) (job collId : Nat) : Mod :=
  match m.ctx? (ctxKey job collId) with
  | none => m
  | some x =>
    match x.local_.bind fun id => m.infl? x.core id with
    | some f => if f.overdue m.now then m.endColl (ctxKey job collId) 0x8020 stCollTimeout 0 else m
    | none => m

end Sys2Proof.Machine
end

