-- ==== Sys2Proof/Machine/Seq.lean ====
section
/-! DEFINITION. The sequencers (R36 to R54): list slots, intakes, issue and arbitration, list
faults, lookahead, END. -/
namespace Sys2Proof.Machine

/-! ### List slots (R44) -/

def DList.before (a b : DList) : Bool :=
  decide (a.phase < b.phase) || (a.phase = b.phase && (decide (b.prio < a.prio) || (a.prio = b.prio && decide (a.order ≤ b.order))))
def insList (l : DList) : List DList → List DList
  | [] => [l]
  | x :: t => if l.before x then l :: x :: t else x :: insList l t

def CoreSt.freeSlot (x : CoreSt) : Option Nat := (List.range 16).find? fun k => (Tab.find x.slots k).isNone

/-- Queued lists enter free slots by phase, priority and dispatch order; the lowest free slot first (log entry 20). -/
def CoreSt.fill : Nat → CoreSt → CoreSt
  | 0, x => x
  | n + 1, x =>
    match x.freeSlot, x.lq with
    | some k, l :: t => CoreSt.fill n { x with slots := Tab.put x.slots k { l := l, rest := l.descs }, lq := t }
    | _, _ => x

def Mod.fillSlots (m : Mod) (c : Nat) : Mod :=
  if (m.core! c).fenced then m else (m.onCore c fun x => CoreSt.fill 16 x).settle c

/-- A list slot frees (R49): queued lists enter, objects that waited for a refresh list return to their initial values. -/
def Mod.freeSlotOf (m : Mod) (c k job : Nat) : Mod :=
  ((m.onCore c fun x => { x with slots := Tab.del x.slots k }).reinitDue job).fillSlots c

/-! ### Intakes (R46) and readiness -/

/-- The engines whose intake a descriptor enters: 10 + a array a of the core, 20 vector engine, 30 residency, 50
collective, 60 update units, 70 numeric watch. The sequencer's own descriptors (SYNC_WAIT, SYNC_SIGNAL, BARRIER, END) take no
place, and the sequencer is no engine for the order of R45 (DESIGN CHOICE, log entry 85). A ROOT_REFRESH enters the
vector engine's and both arrays' (Table 1.9). -/
def enginesOf (d : Nat) : List Nat :=
  match dOp d with
  | 0x10 => [10 + (passOp d).array % 2]
  | 0x11 => (loadArrays d).map (10 + ·)
  | 0x20 => [20]
  | 0x21 => [20]
  | 0x61 => [20, 10, 11]
  | 0x30 => [30]
  | 0x31 => [30]
  | 0x50 => [50]
  | 0x60 => [60]
  | 0x70 => [70]
  | _ => []

def Mod.inflightOps (m : Mod) (ops : List Nat) : Nat :=
  cores.foldl (fun a c => a + ((m.core! c).infl.filter fun f => ops.contains (dOp f.d)).length) 0

/-- The places held in an array's intake: passes before their stage 0, loads before their first stage, refreshes until they
retire (R46; log entry 62). -/
def Mod.arrHeld (m : Mod) (c a : Nat) : Nat :=
  let x := m.arr! c a
  x.q.length + x.loads.length + ((m.core! c).infl.filter fun f => dOp f.d = opRootRefresh).length

/-- The places held in the vector engine's intake, each until its descriptor retires (log entry 62). -/
def Mod.vecHeld (m : Mod) (c : Nat) : Nat :=
  ((m.core! c).infl.filter fun f => [0x20, 0x21, 0x61].contains (dOp f.d)).length

/-- A ROOT_REFRESH has taken the vector engine and the arrays of a core, which then accept nothing else (R283). -/
def Mod.refreshRuns (m : Mod) (c : Nat) : Bool := (m.core! c).infl.any fun f => dOp f.d = opRootRefresh && f.began

/-- The intakes of its engines have room for a descriptor (R46): two places in an array, four in any other engine, each held
until the descriptor retires where R46 does not say when it leaves (log entry 62); a COLL also needs a context (R471), an
UPD_LAYER a place in each unit it gives work (R260). -/
def descRoom (m : Mod) (c job d : Nat) : Bool :=
  match dOp d with
  | 0x10 => !m.refreshRuns c && decide (m.arrHeld c ((passOp d).array % 2) < 2)
  | 0x11 => !m.refreshRuns c && (loadArrays d).all fun i => decide (m.arrHeld c i < 2)
  | 0x20 => !m.refreshRuns c && decide (m.vecHeld c < 4)
  | 0x21 => !m.refreshRuns c && decide (m.vecHeld c < 4)
  | 0x61 => !m.refreshRuns c && decide (m.vecHeld c < 4 ∧ m.arrHeld c 0 < 2 ∧ m.arrHeld c 1 < 2)
  | 0x30 => decide (m.inflightOps [0x30, 0x31] < 4)
  | 0x31 => decide (m.inflightOps [0x30, 0x31] < 4)
  | 0x50 => decide (m.inflightOps [0x50] < 4) &&
      (decide (m.col.ctx.length < 256) || (m.ctx? (ctxKey job (collOp d).collId)).isSome)
  | 0x60 => !m.updApplies job d || (m.updUnits (updLayerNo d)).all fun u => decide ((m.unit! u).q.length < 4)
  | _ => true

/-- Descriptors that early abort quenches (R200). -/
def quenchable (d : Nat) : Bool := [0x10, 0x11, 0x20, 0x21, 0x61].contains (dOp d)

/-- The job's descriptors are being quenched. -/
def Mod.quenched (m : Mod) (job : Nat) : Bool := match m.job? job with | some j => j.nonfinite && j.quenching | none => false

/-- A snapshot export has not yet read the layer that an UPD_LAYER names (R516). -/
def Mod.snapUnread (m : Mod) (job l : Nat) : Bool :=
  match (m.job? job).bind (·.snap) with
  | some x => x.captured.isSome && x.unread.contains l
  | none => false

/-- The header wait of a head is satisfied (R41). -/
def waited (s : SlotSt) (d : Nat) : Bool := dWait d = 0 || s.waitDone

/-- A head at rest in its slot: 0 not ready, 1 ready but for its engine (room, pins, an unread layer), 2 ready. -/
def Mod.readiness (m : Mod) (c k : Nat) (s : SlotSt) : Nat :=
  match s.rest with
  | [] => 0
  | d :: _ =>
    if !m.headOpen c k s d || !waited s d || !(descCauses m c s d).isEmpty then 0
    else if !descRoom m c s.l.job d then 1
    else if m.quenched s.l.job && quenchable d then 2
    else if dOp d = opUpdLayer && m.snapUnread s.l.job (updLayerNo d) then 1
    else if (m.takePins c s.l.job (descPins m c s.l.task s.l.job d)).isNone then 1
    else 2

/-- Engines that every core's descriptors share: their intakes are the module's (Table 1.9). -/
def sharedEngine (e : Nat) : Bool := e = 30 || e = 50 || e = 60 || e = 70

/-- A head of another core that asked for a shared engine earlier still waits at issue there: a later one does not overtake it
(R46, R471). -/
def Mod.overtakes (m : Mod) (c : Nat) (s : SlotSt) (es : List Nat) : Bool :=
  es.any sharedEngine && cores.any fun c' => c' ≠ c && (m.core! c').slots.any fun (p : Nat × SlotSt) =>
    match p.2.asked, p.2.rest with
    | some n, d :: _ => (match s.asked with | some n' => decide (n < n') | none => true) && (enginesOf d).any es.contains &&
        m.readiness c' p.1 p.2 = 1
    | _, _ => false

/-- The slot that issues at this opportunity (R48): the first ready one in order that overtakes no waiting head of its
engine (R46, R349). -/
def Mod.winnerIn (m : Mod) (c : Nat) : List (Nat × SlotSt) → List Nat → Option Nat
  | [], _ => none
  | (k, s) :: t, held =>
    let es := match s.rest with | d :: _ => enginesOf d | [] => []
    match m.readiness c k s with
    | 2 => if es.any held.contains || m.overtakes c s es then Mod.winnerIn m c t (held ++ es) else some k
    | 1 => Mod.winnerIn m c t (held ++ es)
    | _ => Mod.winnerIn m c t held
def Mod.winner (m : Mod) (c : Nat) : Option Nat := m.winnerIn c (m.core! c).slotOrder []

/-! ### List faults (R52 to R54) -/

def Mod.listFault (m : Mod) (c k : Nat) (s : SlotSt) (d cause : Nat) : Mod :=
  let m := m.onSlot c k fun s => { s with stopped := true }
  let m := m.onCore c fun x => { x with
    faultSlot := k
    listFault := true
    faultSeq := dSeq d
    faultJob := dJob d
    faultOp := dOp d
    faultCause := cause }
  let m := m.ev 0xD110 0 [(0, 1, c), (1, 1, k), (2, 2, dJob d), (4, 4, dSeq d), (8, 1, dOp d), (9, 1, cause)]
  m.stopStep s.l.job stListFault c

/-! ### Issue (R45 to R48) -/

/-- A head that waits at issue for an engine that all cores share has asked for it from now on (R46, R471). -/
def Mod.ask (m : Mod) (c k : Nat) (s : SlotSt) (d : Nat) : Mod :=
  if s.asked.isSome || !(enginesOf d).any sharedEngine || m.readiness c k s ≠ 1 then m
  else { m with orders := m.orders + 1 }.onSlot c k fun s => { s with asked := some m.orders }

/-- The head of a slot leaves it and is in flight; its 64 bytes were fetched from a reserved area, as class 0 (R36, Table 9.2). -/
def Mod.takeHead (m : Mod) (c k : Nat) (s : SlotSt) (d : Nat) (pins : List (Nat × Nat × Nat)) : Mod :=
  let f : Infl := { id := m.ids, slot := k, task := s.l.task, job := s.l.job, d := d, pins := pins }
  let m := { m with ids := m.ids + 1 }.reservedTraffic 0 64
  let m := m.onSlot c k fun s => { s with rest := s.rest.drop 1, pos := s.pos + 1, lastSeq := some (dSeq d), waitDone := false, asked := none }
  m.onCore c fun x => { x with infl := x.infl ++ [f] }

/-- What becomes of the head of slot k at a row that issues opcode `op`. `act m id s d` is the descriptor's own effect at
issue; a quenched descriptor writes nothing and retires at once, `quench` being what remains of it (R200): at once also where an
earlier one of its list on its engine is in flight, which R45 alone would have retire first (DESIGN CHOICE, log entry 85). The
head of another valid opcode is not this row's. The checks of R52 are made once the header wait is satisfied, and those of its
sync objects' binding (0x40) at once (log entry 60). -/
def Mod.issue (m : Mod) (c k op : Nat) (act : Mod → Nat → SlotSt → Nat → Mod) (quench : Mod → SlotSt → Nat → Mod) : Mod :=
  match Tab.find (m.core! c).slots k with
  | none => m
  | some s =>
    match s.rest with
    | [] => m
    | d :: _ =>
      if (dOp d ≠ op && opcodes.contains (dOp d)) || !m.headOpen c k s d then m
      else if !waited s d && !m.waitsMet c d && (bindCauses m c s.l.job d).isEmpty then m
      else match lowest (descCauses m c s d) with
        | some cause => m.listFault c k s d cause
        | none =>
          if dOp d = opUpdLayer && m.snapUnread s.l.job (updLayerNo d) then
            act m 0 s d
          else if !waited s d then m.settle c
          else if m.winner c ≠ some k then m.ask c k s d
          else if m.quenched s.l.job && quenchable d then
            let id := m.ids
            ((quench (m.takeHead c k s d []) s d).retire c id true).settle c
          else
            let pins := descPins m c s.l.task s.l.job d
            match m.takePins c s.l.job pins with
            | none => m
            | some m' => (act (m'.takeHead c k s d pins) m.ids s d).settle c

/-! ### An engine's work on a descriptor (R351: it waits for every tile that the descriptor pins) -/

/-- Descriptors of a core that issued before f. -/
def CoreSt.earlier (x : CoreSt) (f : Infl) : List Infl := x.infl.takeWhile fun g => g.id ≠ f.id

/-- A ROOT_REFRESH that issued earlier to the core and acts is in flight: the core's arrays and vector engine do nothing
issued after it (R46, R283). -/
def CoreSt.refreshFirst (x : CoreSt) (f : Infl) : Bool := (x.earlier f).any fun g => dOp g.d = opRootRefresh && g.result

def Mod.inflAt (m : Mod) (id : Nat) : Option Infl := cores.findSome? fun c => m.infl? c id

/-- Every share that stands before an update's own in a unit has been processed (R260). -/
def Mod.sharesFirst (m : Mod) (id : Nat) : Bool :=
  m.upd.units.all fun (p : Nat × UnitSt) => !(p.2.q.any fun q => q.1 = id) ||
    (p.2.q.takeWhile fun q => q.1 ≠ id).all fun q => match m.inflAt q.1 with | some g => g.worked | none => true

/-- The results of a pass are withheld: a run-out began with it or with an earlier pass of its array (R114). -/
def Mod.withheld (m : Mod) (c : Nat) (f : Infl) : Bool :=
  match (m.arr! c (passOp f.d).array).runOut with | some p => decide (p ≤ f.id) | none => false

/-- An engine may now do its work on a descriptor: every tile it pins is there, and what stands before it in its engine is
done. A pass needs its set loaded, a DRAIN_ONLY pass does not (R68, R85), and writes nothing in a run-out that
withholds its results (R114); a ROOT_REFRESH takes its engines when nothing
issued before it is left on them (R283; log entry 59). -/
def Mod.mayWork (m : Mod) (c : Nat) (f : Infl) : Bool :=
  let x := m.core! c
  !f.worked && m.pinsMet f.pins &&
  match dOp f.d with
  | 0x11 => f.began
  | 0x10 =>
    f.began && !m.withheld c f && ((passOp f.d).drain || x.infl.all fun g => g.id ≠ f.load || g.worked) &&
      (x.earlier f).all fun g => dOp g.d ≠ opArrPass || (passOp g.d).array ≠ (passOp f.d).array || g.worked
  | 0x20 => !x.refreshFirst f && (x.earlier f).all fun g => (dOp g.d ≠ opVecStream && dOp g.d ≠ opVecReduce) || g.worked
  | 0x21 => !x.refreshFirst f && (x.earlier f).all fun g => (dOp g.d ≠ opVecStream && dOp g.d ≠ opVecReduce) || g.worked
  | 0x61 => f.result && (x.earlier f).all fun g => !quenchable g.d
  | 0x60 => f.result && m.sharesFirst f.id
  | 0x50 => true
  | _ => false

/-- A load fills the set it was issued to fill, on each array it names (R80, R81, R84). -/
def Mod.fillSets (m : Mod) (c : Nat) (f : Infl) : Mod :=
  match m.objAny (loadOp f.d).obj with
  | none => m
  | some o =>
    let s := o.stationary f.job (loadOp f.d)
    (loadArrays f.d).foldl (fun m a => m.onArr c a fun x =>
      { x with sets := x.sets.set (if a = 0 then f.set else f.load) s }) m

/-- The work itself. A refresh takes its engines here and writes its roots as it retires. -/
def Mod.work (m : Mod) (c : Nat) (f : Infl) : Mod :=
  let m := m.onInfl c f.id fun f => { f with worked := true }
  match dOp f.d with
  | 0x11 => m.fillSets c f
  | 0x10 => m.runPass c f.job f.d (((m.arr! c ((passOp f.d).array % 2)).sets).getD f.set {}) f.cols
  | 0x20 => m.runVec c f.task f.job f.d false
  | 0x21 => m.runVec c f.task f.job f.d true
  | 0x61 => m.onInfl c f.id fun f => { f with began := true }
  | 0x60 => (m.applyUpdate (updLayerNo f.d) f.job).fillBuffers f.id
  | 0x50 => m.beginColl f.collKey
  | _ => m

/-- The work of one descriptor, where it may be done now. -/
def Mod.tryWork (m : Mod) (c id : Nat) : Mod :=
  match m.infl? c id with
  | some f => if m.mayWork c f then m.work c f else m
  | none => m

/-- A descriptor that must retire before f is in flight: one of its list on an engine of it (R45); a pass, or a load,
issued earlier to the same array (R94); a vector or refresh descriptor issued earlier to the core (R251). -/
def CoreSt.behind (x : CoreSt) (f : Infl) : Bool :=
  let es := enginesOf f.d
  let both := fun (ops : List Nat) (g : Infl) => ops.contains (dOp g.d) && ops.contains (dOp f.d)
  (x.earlier f).any fun g =>
    (g.slot = f.slot && (enginesOf g.d).any es.contains) ||
    (both [opArrPass] g && (passOp g.d).array = (passOp f.d).array) ||
    (both [opArrLoad] g && (loadArrays g.d).any (loadArrays f.d).contains) ||
    both [opVecStream, opVecReduce, opRootRefresh] g

/-! ### What each opcode does at issue -/

/-- The next set of each array that a load names is tagged with the job and what it will hold, and the alternation advances
(R81, R93). -/
def Mod.tagLoad (m : Mod) (c id job d : Nat) : Mod :=
  let p := loadOp d
  (loadArrays d).foldl (fun m a => m.onArr c a fun x =>
    { x with
      tagged := x.tagged.set x.nextSet { job := job, fmt := p.fmt, rows := p.rows, cols := p.cols, load := id }
      curSet := some x.nextSet
      nextSet := 1 - x.nextSet
      loads := x.loads ++ [id] }) m

/-- ARR_LOAD: it is to fill the next set of each array, `set` of array 0 and `load` of array 1. -/
def Mod.issueLoad (m : Mod) (c id : Nat) (s : SlotSt) (d : Nat) : Mod :=
  let m := (m.onInfl c id fun f => { f with set := (m.arr! c 0).nextSet, load := (m.arr! c 1).nextSet }).tagLoad c id s.l.job d
  (m.fillHalf c 0).fillHalf c 1

/-- A quenched ARR_LOAD advances the alternation; contents and tag stay (R200). It counts as retired (R99). -/
def Mod.quenchLoad (m : Mod) (c : Nat) (d : Nat) : Mod :=
  (loadArrays d).foldl (fun m a => (m.onArr c a fun x => { x with curSet := some x.nextSet, nextSet := 1 - x.nextSet }).arrCnt c a
    0x28 1) m

/-- ARR_PASS: it uses the set of the most recent load; the entry rows it writes take its JOB (R81, R93). -/
def Mod.issuePass (m : Mod) (c id : Nat) (s : SlotSt) (d : Nat) : Mod :=
  let p := passOp d
  let a := p.array % 2
  let x := m.arr! c a
  let set := x.curSet.getD 0
  let tag := x.tagged.getD set {}
  let m := (m.onInfl c id fun f => { f with set := set, load := tag.load, rows := tag.rows, cols := tag.cols }).enterBuffer c id d
  m.onArr c a fun x => { x with
    q := x.q ++ [id]
    tags := if p.drain then x.tags else
      (List.range p.m).foldl (fun t i => Tab.upd {} t (p.base + i) fun r => { r with job := s.l.job }) x.tags }

/-- A request of a core's sequencer for a tile. -/
def tileReq (obj tile dest kind core job : Nat) : Req :=
  { obj := obj, tile := tile, dest := dest, seq := 0, kind := kind, core := core, job := job, since := 0 }

/-- MOVE and DROP: one request per tile, in increasing order (R372). -/
def Mod.issueMove (m : Mod) (c : Nat) (s : SlotSt) (d : Nat) : Mod :=
  let p := moveOp d
  p.tiles.foldl (fun m t => m.request (tileReq p.obj t (if p.op = 1 then homeDrop else p.dest) 2 c s.l.job)) m

/-- A descriptor whose work is done retires, unless R45 keeps it behind an earlier one of its list (log entry 63). -/
def Mod.retireUnless (m : Mod) (c id : Nat) : Mod :=
  match m.infl? c id with
  | some f => if (m.core! c).behind f then m else m.retire c id true
  | none => m

/-- PREFETCH: its requests are numbered, and it retires (R373). -/
def Mod.issuePrefetch (m : Mod) (c id : Nat) (s : SlotSt) (d : Nat) : Mod :=
  let p := moveOp d
  (p.tiles.foldl (fun m t => m.request (tileReq p.obj t p.dest 5 c s.l.job)) m).retireUnless c id

/-- SYNC_WAIT: its own wait begins at issue and holds its list (R398, R399). -/
def Mod.issueWait (m : Mod) (c k id : Nat) (d : Nat) : Mod :=
  let t := (waitOp d).timeout
  (m.onSlot c k fun s => { s with blocked := some id }).onInfl c id fun f =>
    { f with deadline := if t = 0 then none else some (m.now + t) }

/-- SYNC_SIGNAL: to its own core it acts and retires at once; to another it travels; to a fenced one it has no effect
(R396). -/
def Mod.issueSignal (m : Mod) (c id : Nat) (d : Nat) : Mod :=
  let p := sigOp d
  if (m.core! p.core).fenced then m.retire c id true
  else if p.core = c then (m.signal c p.obj p.set p.value).retire c id true
  else m.onCore c fun x => { x with remote := x.remote ++ [(p.core, p.obj, p.set, p.value, id)] }

/-- BARRIER: arrives at issue (R402). -/
def Mod.issueBarrier (m : Mod) (c id : Nat) (s : SlotSt) (d : Nat) : Mod :=
  let t := (barOp d).timeout
  (m.onInfl c id fun f => { f with deadline := if t = 0 then none else some (m.now + t) }).arrive c s.l.job id d

/-- VEC_STREAM and VEC_REDUCE: the engine runs them in issue order (R251). -/
def Mod.issueVec (m : Mod) (c id : Nat) : Mod := m.tryWork c id

/-- COLL: opens its context (R471), and works once its tiles are there; its deadline counts microseconds (R501). -/
def Mod.issueColl (m : Mod) (c id : Nat) (s : SlotSt) (d : Nat) : Mod :=
  let t := (collOp d).timeout
  let m := m.onInfl c id fun f => { f with
    deadline := if t = 0 then none else some (m.now + 1000 * t)
    collKey := ctxKey s.l.job (collOp d).collId }
  (m.openColl c s.l.job id d (m.quenched s.l.job)).tryWork c id

/-- UPD_LAYER: a layer that an export has not read is read next (R516); otherwise the units accept the update. -/
def Mod.issueUpd (m : Mod) (c id : Nat) (s : SlotSt) (d : Nat) : Mod :=
  let l := updLayerNo d
  if m.snapUnread s.l.job l then
    match (m.job? s.l.job).bind (·.snap) with
    | none => m
    | some x =>
      if x.waited.contains l then m else
        let m := m.onJob s.l.job fun j => { j with snap := j.snap.map fun x =>
          { x with unread := l :: x.unread.filter (· ≠ l), waited := l :: x.waited, waits := min (x.waits + 1) 65535 } }
        if x.waited.isEmpty then m.ev 0x8061 0 [(0, 2, s.l.job), (2, 2, l), (4, 8, m.stepOf s.l.job)] else m
  else
    let r := m.acceptUpdate s.l.job d id
    (r.1.onInfl c id fun f => { f with result := r.2 }).tryWork c id

/-- ROOT_REFRESH: one that is due takes its engines once they are free; one that is not retires at once, and counts among the
vector engine's descriptors (R255, R282, R283). -/
def Mod.issueRefresh (m : Mod) (c id : Nat) (d : Nat) : Mod :=
  if m.refDue d then (m.onInfl c id fun f => { f with result := true }).tryWork c id
  else match m.infl? c id with
    | some f => if (m.core! c).behind f then m else (m.vecCnt c 0x28 1).retire c id true
    | none => m

/-- HIST_MARK: publishes, resets, and retires (R178). -/
def Mod.issueHist (m : Mod) (c id : Nat) (s : SlotSt) (d : Nat) : Mod :=
  let p := histOp d
  let ls := (List.range (p.hi + 1 - p.lo)).map (· + p.lo)
  (ls.foldl (fun m l => (maskList 3 p.mask).foldl (fun m cl =>
    let m := if p.publish then m.publishWin s.l.job l cl false true p.markId else m
    if p.reset then m.resetWin l cl else m) m) m).retire c id true

/-- END: retires at once, signals, and frees its slot (R49). -/
def Mod.issueEnd (m : Mod) (c k id : Nat) (s : SlotSt) : Mod :=
  (((m.retireCore c id true).freeSlotOf c k s.l.job).settle c).power

/-! ### Rows that issue -/

def noQuench (m : Mod) (_ : SlotSt) (_ : Nat) : Mod := m

def execArrPass (c : Core) (k : Slot) (s : State) : Host.Outcome State Fault Refusal :=
  run (fun m => m.issue c k opArrPass (fun m id s d => m.issuePass c id s d)
    (fun m _ d => m.arrCnt c ((passOp d).array % 2) 0x20 1)) s
def execArrLoad (c : Core) (k : Slot) (s : State) : Host.Outcome State Fault Refusal :=
  run (fun m => m.issue c k opArrLoad (fun m id s d => m.issueLoad c id s d) (fun m _ d => m.quenchLoad c d)) s
def execVecStream (c : Core) (k : Slot) (s : State) : Host.Outcome State Fault Refusal :=
  run (fun m => m.issue c k opVecStream (fun m id _ _ => m.issueVec c id) (fun m _ _ => m.vecCnt c 0x28 1)) s
def execVecReduce (c : Core) (k : Slot) (s : State) : Host.Outcome State Fault Refusal :=
  run (fun m => m.issue c k opVecReduce (fun m id _ _ => m.issueVec c id) (fun m _ _ => m.vecCnt c 0x28 1)) s
def execMove (c : Core) (k : Slot) (s : State) : Host.Outcome State Fault Refusal :=
  run (fun m => m.issue c k opMove (fun m _ s d => m.issueMove c s d) noQuench) s
def execPrefetch (c : Core) (k : Slot) (s : State) : Host.Outcome State Fault Refusal :=
  run (fun m => m.issue c k opPrefetch (fun m id s d => m.issuePrefetch c id s d) noQuench) s
def execSyncWait (c : Core) (k : Slot) (s : State) : Host.Outcome State Fault Refusal :=
  run (fun m => m.issue c k opSyncWait (fun m id _ d => m.issueWait c k id d) noQuench) s
def execSyncSignal (c : Core) (k : Slot) (s : State) : Host.Outcome State Fault Refusal :=
  run (fun m => m.issue c k opSyncSignal (fun m id _ d => m.issueSignal c id d) noQuench) s
def execBarrier (c : Core) (k : Slot) (s : State) : Host.Outcome State Fault Refusal :=
  run (fun m => m.issue c k opBarrier (fun m id s d => m.issueBarrier c id s d) noQuench) s
def execColl (c : Core) (k : Slot) (s : State) : Host.Outcome State Fault Refusal :=
  run (fun m => m.issue c k opColl (fun m id s d => m.issueColl c id s d) noQuench) s
def execUpdLayer (c : Core) (k : Slot) (s : State) : Host.Outcome State Fault Refusal :=
  run (fun m => m.issue c k opUpdLayer (fun m id s d => m.issueUpd c id s d) noQuench) s
def execRootRefresh (c : Core) (k : Slot) (s : State) : Host.Outcome State Fault Refusal :=
  run (fun m => m.issue c k opRootRefresh (fun m id _ d => m.issueRefresh c id d) (fun m _ _ => m.vecCnt c 0x28 1)) s
def execHistMark (c : Core) (k : Slot) (s : State) : Host.Outcome State Fault Refusal :=
  run (fun m => m.issue c k opHistMark (fun m id s d => m.issueHist c id s d) noQuench) s
def execEndList (c : Core) (k : Slot) (s : State) : Host.Outcome State Fault Refusal :=
  run (fun m => m.issue c k opEnd (fun m id s _ => m.issueEnd c k id s) noQuench) s

/-! ### Lookahead (R50, R51) -/

/-- The tiles a descriptor reads. -/
def descReads (m : Mod) (c task job d : Nat) : List (Nat × Nat) :=
  let rs := (descHandles m job d).1
  ((descPins m c task job d).filter fun p => rs.contains p.1).map fun p => (p.1, p.2.1)

/-- The descriptors past the head that lookahead decodes: up to the first that carries NO_LOOKAHEAD, or whose WAIT_MASK is
not satisfied. -/
def Mod.aheadOf (m : Mod) (c : Nat) : List Nat → List Nat
  | [] => []
  | d :: t =>
    if dNoLook d || !(maskList 48 (dWait d)).all (fun i => m.satisfied c i 1) then [] else d :: Mod.aheadOf m c t

/-- The tiles that descriptors of a list will read, with the sets that its loads before them will have tagged (R81, R85). -/
def Mod.readsAhead (c task job : Nat) : Mod → List Nat → List (Nat × Nat)
  | _, [] => []
  | m, d :: t => descReads m c task job d ++ Mod.readsAhead c task job (if dOp d = opArrLoad then m.tagLoad c 0 job d else m) t

/-- LOOKAHEAD: a request for every tile that the descriptors ahead read (R50); each is numbered, also where it moves nothing or
cancels an eviction (R355 to R357). -/
def Mod.lookahead (m : Mod) (c k : Nat) : Mod :=
  match Tab.find (m.core! c).slots k with
  | none => m
  | some s =>
    match s.rest with
    | [] => m
    | h :: t =>
      if s.blocked.isSome || s.stopped || m.halted s.l.job || (m.core! c).fenced || dNoLook h ||
        !(s.waitDone || (maskList 48 (dWait h)).all (fun i => m.satisfied c i 1)) then m
      else
        let first := if dOp h = opArrLoad then m.tagLoad c 0 s.l.job h else m
        let tiles := (Mod.readsAhead c s.l.task s.l.job first (m.aheadOf c (t.take 8))).eraseDups
        (sortTiles tiles).foldl (fun m p => m.request (tileReq p.1 p.2 c 5 c s.l.job)) m

def execLookahead (c : Core) (k : Slot) (s : State) : Host.Outcome State Fault Refusal := run (fun m => m.lookahead c k) s

end Sys2Proof.Machine
end

