-- ==== Sys2Proof/Machine/Stacks.lean ====
section
/-! DEFINITION. The stacks' capacity, drains and errors (R295 to R298, R312 to R323), and the lines of a Pantry (R324 to
R326). -/
namespace Sys2Proof.Machine

/-! ### Capacity (R295, R323) -/

/-- Frames of a stack that serve the reserved area of one that is mapped out whole (R323). -/
def Mod.lentFrames (m : Mod) (s : Nat) : Nat :=
  ((List.range 32).filter fun i => (m.stack! i).out && (m.stack! i).reservedIn = some s).length * 256
/-- Usable bytes of the Cellar. -/
def Mod.celCap (m : Mod) : Nat :=
  (List.range 32).foldl (fun a i => a + ((m.stack! i).usable - m.lentFrames i) * 1048576) 0

/-! ### Ganged frames (R298) -/

/-- The gang size that CEL_GANG sets for a stack's Shelf: 1, 2, 4 or 8. -/
def Mod.gangSize (m : Mod) (st : Nat) : Nat := 2 ^ (m.cel.gang.getD (st / 8) 0)
/-- The stacks of a stack's group: consecutive, from the Shelf's first on. -/
def Mod.gangOf (m : Mod) (st : Nat) : List Nat :=
  let g := m.gangSize st
  (List.range g).map (· + (st / 8 * 8 + st % 8 / g * g))
/-- The stack that holds byte `off` of a frame ganged over the group of a stack: stripes of 4 KiB in turn. The model places no
tile in a ganged frame, as R298 allows (log entry 7). -/
def Mod.gangStack (m : Mod) (st off : Nat) : Nat := (m.gangOf st).getD (off / 4096 % m.gangSize st) st
/-- The byte within that stack's part of the frame: its stripes one after another. -/
def Mod.gangOff (m : Mod) (st off : Nat) : Nat := off / 4096 / m.gangSize st * 4096 + off % 4096

/-! ### Errors of the stacks (R312 to R323) -/

/-- The active pseudo-channels of a stack, in order. -/
def StackSt.actives (x : StackSt) : List Nat := (List.range 32).filter fun h => !(Tab.get {} x.pc h).mapped
/-- Where a logical offset lies (R296): its pseudo-channel and the byte within that pseudo-channel. -/
def StackSt.place (x : StackSt) (off : Nat) : Nat × Nat :=
  (x.actives.getD (off / 256 % x.actives.length) 0, off / 256 / x.actives.length * 256 + off % 256)
/-- Where byte `off` of a ganged frame lies (R298): its stack, and there, in the part of the frame that begins at logical offset
`base` of each stack of the group, the pseudo-channel and the byte within it (R296). -/
def Mod.gangPlace (m : Mod) (st base off : Nat) : Nat × Nat × Nat :=
  let s := m.gangStack st off
  (s, (m.stack! s).place (base + m.gangOff st off))
def StackSt.pcOf (x : StackSt) (off : Nat) : Nat := (x.place off).1
def Mod.onPc (m : Mod) (st h : Nat) (f : PcSt → PcSt) : Mod := m.onStack st fun x => { x with pc := Tab.upd {} x.pc h f }

/-- The object tile that holds a frame of a stack. -/
def Mod.tileAtFrame (m : Mod) (home frame : Nat) : Option (Nat × Nat) :=
  (m.res.ext.find? fun e => e.home = home && decide (e.frame ≤ frame ∧ frame < e.frame + e.n)).map fun e =>
    (e.obj, e.tile + (frame - e.frame))

/-- The bytes of a reserved area. -/
def areaBytes : Nat := 268435456

/-- The reserved area of a draining stack is copied into usable frames of another stack of its Shelf, once one has 256 free
(R319); both copies are residency traffic (Table 9.2). -/
def Mod.copyReserved (m : Mod) (st : Nat) : Mod :=
  if (m.stack! st).reservedIn.isSome then m else
    let mates := ((List.range 8).map (· + st / 8 * 8)).filter fun i => i ≠ st && m.eligible.contains i
    match mates.findSome? fun i => (m.takeFrames (homeStack i) 256).map fun fs => (i, fs) with
    | some (i, fs) =>
      let copies : List Ext := fs.map fun f => { obj := 0, tile := st, n := f.2, home := homeStack i, frame := f.1 }
      let m := { m with res := { m.res with area := m.res.area ++ copies } }
      let m := (m.stackBytes st 3 areaBytes).stackBytes i 3 areaBytes
      m.onStack st fun x => { x with reservedIn := some i }
    | none => m

/-- A stack begins to drain (R319): its tiles are asked away, its reserved area is copied. -/
def Mod.startDrain (m : Mod) (st : Nat) : Mod :=
  if (m.stack! st).draining || (m.stack! st).out then m
  else
    let m := m.onStack st fun x => { x with draining := true }
    -- a stack that is HOT may already keep tiles that find no room
    let m := if m.drainBlocked st then m.blockDrain st else m
    (m.copyReserved st).clearStack st

/-- A pseudo-channel becomes SUSPECT (R318). -/
def Mod.suspect (m : Mod) (st h cause : Nat) : Mod :=
  if (Tab.get {} (m.stack! st).pc h).suspect then m
  else ((m.onPc st h fun p => { p with suspect := true }).ev 0x4031 0 [(0, 1, st), (1, 1, h), (2, 1, cause)]).startDrain st

/-- The hour window of an operating second starts the window counts again (R318). -/
def Mod.rollHour (m : Mod) (opsec : Nat) : Mod :=
  if m.cel.hour = opsec / 3600 then m
  else { m with cel := { m.cel with
    hour := opsec / 3600
    st := m.cel.st.map fun (p : Nat × StackSt) =>
      (p.1, { p.2 with pc := p.2.pc.map fun (q : Nat × PcSt) => (q.1, { q.2 with corrHour := 0 }) }) } }

/-- A sector corrected by the controller's code (R313). -/
def Mod.sectorCorr (m : Mod) (st off symbols : Nat) : Mod :=
  let h := (m.stack! st).pcOf off
  let n := (Tab.get {} (m.stack! st).pc h).corrHour + 1
  let m := (m.onPc st h fun p => { p with corrHour := n, corr := if m.cel.freeze then p.corr else p.corr + 1 }).stackCnt st 0x328 1
  let m := m.ev 0x4001 1 [(0, 1, st), (1, 1, h), (2, 8, off), (10, 1, symbols)]
  if 16384 < n then m.suspect st h 3 else m

/-- A sector of a tile is poisoned, with free contents (R314): of an image tile, in the copy that stands at a home alone. -/
def Mod.poisonAt (m : Mod) (h t home sec : Nat) : Mod :=
  if m.isImage h then m.onObj h fun o =>
    let k := (home, t * 16384 + sec)
    if o.copies.contains k then o else { o with copies := k :: o.copies }
  else { m with free := m.free + 8 }.onObj h fun o => o.poisonSector t sec m.free

/-- A sector that cannot be corrected is poisoned (R314); more than four of a pseudo-channel in 24 hours of operating
time make it SUSPECT. -/
def Mod.sectorBad (m : Mod) (opsec st off : Nat) : Mod :=
  let h := (m.stack! st).pcOf off
  let recent := opsec :: ((Tab.get {} (m.stack! st).pc h).poisoned24.filter fun t => opsec < t + 86400)
  let m := (m.onPc st h fun p => { p with poisoned24 := recent, poison := if m.cel.freeze then p.poison else p.poison + 1 }).stackCnt
    st 0x330 1
  let m := m.ev 0x4010 0 [(0, 1, st), (1, 1, h), (2, 8, off / 64 * 64)]
  let m := match m.tileAtFrame (homeStack st) (off / 1048576) with
    | some ht => m.poisonAt ht.1 ht.2 (homeStack st) (off % 1048576 / 64)
    | none =>
      let fw := Tab.setMany 0 m.cel.freeWrites (st * 2 ^ 36 + off / 64 * 64) (List.replicate 64 256)
      { m with cel := { m.cel with freeWrites := fw } }
  if 4 < recent.length then m.suspect st h 2 else m

/-- Event 0x4011: a read of a job found a poisoned sector of a tile, in the copy that extent e holds (R315, Table 9.20). -/
def Mod.poisonRead (m : Mod) (job h t sec : Nat) (e : Option Ext) : Mod :=
  let off := match e with | some e => (e.frame + (t - e.tile)) * 1048576 + sec * 64 | none => 0
  let st := match e with | some e => if isCellar e.home then e.home - 64 else 0 | none => 0
  let pc := match e with | some e => if isCellar e.home then (m.stack! st).pcOf off else 0 | none => 0
  m.ev 0x4011 0 [(0, 1, st), (1, 1, pc), (2, 8, off), (10, 2, job), (12, 8, m.stepOf job), (20, 4, h)]

/-! ### Pantry lines (R324 to R326) -/

/-- The bank of a line, and its position within the bank (R325). -/
def lineBank (l : Nat) : Nat := (l % 64) ^^^ (l / 64 % 64)
def linePos (l : Nat) : Nat := l / 64 % 65536
/-- The line at a position of a bank. -/
def lineOf (bank pos : Nat) : Nat := pos * 64 + (bank ^^^ (pos % 64))
/-- The frame of a line: frame f holds lines 16,384 f to 16,384 f + 16,383 (R326). -/
def lineFrame (l : Nat) : Nat := l / 16384
/-- The line that holds an 8-byte word of a bank of 4 MiB (R324). -/
def wordLine (bank word : Nat) : Nat := lineOf bank (word / 8)

/-- The tile sectors that lie in lines of a Pantry. -/
def Mod.linesOf (m : Mod) (c : Nat) (ls : List Nat) : List (Nat × Nat × Nat) :=
  ls.filterMap fun l => (m.tileAtFrame (homePantry c) (lineFrame l)).map fun ht => (ht.1, ht.2, l % 16384)

end Sys2Proof.Machine
end

