-- ==== Sys2Proof/Machine/Faults.lean ====
section
/-! DEFINITION. Containment, fencing, replay and lost partners (17). -/
namespace Sys2Proof.Machine

/-! ### What a running step binds -/

/-- The cores that a task's lists bind, in order. -/
def Task.binds (t : Task) : List Nat := cores.filter fun c => t.lists.any fun l => l.core = c
/-- A running step has lists on a core, active there or still to be dispatched in this attempt (R594). A step of which no list has
been dispatched takes its variants when the first is. -/
def Mod.stepBinds (m : Mod) (job : Nat) (j : Job) (c : Nat) : Bool :=
  match j.run with
  | none => false
  | some r => r.dispatched &&
    ((((m.core! c).listsOf job).any fun l => r.phase = 4 || l.phase ≠ 4) ||
      r.actualTasks.any fun t => match Tab.find j.tasks t with
        | some k => k.lists.any fun l => l.core = c && decide (r.phase < l.phase)
        | none => false)

/-! ### Abandoning (R591, R599) -/

/-- How far an abandoned ROOT_REFRESH has come with one factor (R284), which is free: it has not reached it, it has cleared
the bit and written some of the root, or it has written the root and set the bit. A factor that fails is as it was. -/
def Mod.leaveRoot (m : Mod) (l eps : Nat) (right : Bool) (b : Nat) : Mod :=
  let y := (m.layer! l).cfg
  let h := if right then y.rroot else y.lroot
  let how := (Config.freeValue m.free).toNat % 3
  let setBit := fun (m : Mod) (on : Bool) => m.onLayer l fun y =>
    let new := fun (old : List Nat) => (if on then [b] else []) ++ old.filter (· ≠ b)
    if right then { y with rootR := new y.rootR } else { y with rootL := new y.rootL }
  match m.objAny (if right then y.rstat else y.lstat) with
  | none => m
  | some st =>
    match rootOf eps (st.factor b) with
    | .error _ => m
    | .ok x =>
      let m := { m with free := m.free + 1 }
      if how = 0 then m
      else
        let m := m.onObj h fun o => o.setFactor b x
        if how = 2 then setBit m true
        else match m.objAny h with
          | some o => (setBit m false).leavePartial h (o.runsOf (256 * b) 256 0 256)
          | none => m

/-- What an abandoned ROOT_REFRESH leaves of the factors it selects. -/
def Mod.leaveRoots (m : Mod) (d : Nat) : Mod :=
  let p := refOp d
  let eps := m.refEps d
  [false, true].foldl (fun m right =>
    if bit p.factor (b2n right) then
      ((List.range (p.hi + 1 - p.lo)).map (· + p.lo)).foldl (fun m b => m.leaveRoot p.layer eps right b) m
    else m) m

/-- The slots that a begun pass has released when it is cut short or replayed: free, up to all of them (R99). -/
def Mod.slotsReleased (m : Mod) (c : Nat) (f : Infl) : Mod :=
  let p := passOp f.d
  if !f.began || p.drain then m
  else { m with free := m.free + 1 }.arrCnt c p.array 0x10 ((Config.freeValue m.free).toNat % (passSlots p.mfmt p.m + 1))

/-- The writes that a descriptor had begun may be partial (R591, R599): a pass's drain, a vector descriptor's results, the
roots of a refresh, what a COLL has written of DST_OBJ and PRED_OBJ. -/
def Mod.leaveWrites (m : Mod) (f : Infl) : Mod :=
  let rect := fun (h r0 nr c0 nc : Nat) => match m.objAny h with
    | some o => m.leavePartial h (o.runsOf r0 nr c0 nc)
    | none => m
  match dOp f.d with
  | 0x10 =>
    let p := passOp f.d
    if f.began && p.mode ≠ 0 then rect p.out p.orow p.m p.on f.cols else m
  | 0x20 => let p := vecOp f.d; if f.worked then rect p.out p.row0 p.rows 0 (2 ^ 32) else m
  | 0x21 =>
    let p := vecOp f.d
    if !f.worked then m else if p.axis = 0 then rect p.out p.row0 p.rows 0 (2 ^ 32) else rect p.out 0 2 0 (2 ^ 32)
  | 0x61 => if f.began then m.leaveRoots f.d else m
  | 0x50 => match m.ctx? f.collKey with
    | some x => (m.leavePartial (collOp f.d).dst x.wrote).leavePartial (collOp f.d).aux (x.predW.map fun b => (b, 1))
    | none => m
  | _ => m

/-- Counters of an array rise by free amounts: what a descriptor that is cut short had counted by then (R99). -/
def Mod.freeCnts (m : Mod) (c a : Nat) (offs : List Nat) : Mod :=
  offs.foldl (fun m off => { m with free := m.free + 1 }.arrCnt c a off (Config.freeValue m.free).toNat) m

/-- An abandoned pass or load is nothing more to its arrays; the stages that it counted by then are free (R99; log entry 64). -/
def Mod.leaveArray (m : Mod) (c a : Nat) (f : Infl) : Mod :=
  let load := dOp f.d = opArrLoad
  let m := m.onArr c a fun x => { x with
    q := x.q.filter (· ≠ f.id)
    loads := x.loads.filter (· ≠ f.id)
    replays := x.replays.filter (· ≠ f.id)
    runOut := if x.runOut = some f.id then none else x.runOut }
  (m.freeCnts c a (if load then 0x40 :: if (loadOp f.d).xpose then [0x50] else []
    else (if f.began then [0x18, 0x30, 0x38, 0x48, 0x118] else []) ++ if (passOp f.d).xpose then [0x50] else [])).fillHalf c a

/-- The arrival of an abandoned BARRIER is withdrawn (R599): the episode no longer awaits its group, and what was combined of it is
forgotten until R390 re-initialises the barrier. -/
def Bar.withdraw (b : Bar) (p : Nat × Nat) : Bar :=
  if b.waiting.contains p then { b with
    waiting := b.waiting.erase p
    arrived := b.arrived - 1
    awaiting := false
    pay := {}
    first := 0
    last := 0
    lastChip := 0
    mods := 0 }
  else { b with
    later := b.later.filter fun l => l.party ≠ p
    releasable := (b.releasable.map fun r => (r.1.erase p, r.2)).filter fun r => !r.1.isEmpty }

/-- An issued descriptor is abandoned: no signals, no further result; its pins are released. -/
def Mod.abandon (m : Mod) (c : Nat) (f : Infl) : Mod :=
  let m := (m.retireCore c f.id false).leaveWrites f
  match dOp f.d with
  | 0x10 => (m.slotsReleased c f).leaveArray c ((passOp f.d).array % 2) f
  | 0x11 => (loadArrays f.d).foldl (fun m a => m.leaveArray c a f) m
  | 0x60 => if f.result then m.dropUpdate (updLayerNo f.d) f.id else m
  | 0x50 => m.closeCtx f.collKey
  | 0x42 =>
    let p := barOp f.d
    m.onBarOf p.scope c p.bar fun b => b.withdraw (c, f.id)
  | 0x41 => m.onCore c fun x => { x with remote := x.remote.filter fun r => r.2.2.2.2 ≠ f.id }
  | _ => m

/-- The descriptors of a job that wait without holding an engine are abandoned: SYNC_WAIT, BARRIER, COLL (R599). -/
def Mod.abandonWaiting (m : Mod) (job : Nat) : Mod :=
  cores.foldl (fun m c => (((m.core! c).inflOf job).filter fun f => [0x40, 0x42, 0x50].contains (dOp f.d)).foldl
    (fun m f => m.abandon c f) m) m

/-! ### A replay falls due (R594, R599, R607) -/

def Run.point (r : Run) : Nat := if r.verdict.isSome then 1 else 0

/-- The running step of a job is to be replayed for an event; one that a cause or its verdict has ended is not (R550). -/
def Mod.needReplay (m : Mod) (job code die : Nat) : Mod :=
  match m.run? job with
  | none => m
  | some r =>
    if r.halted || r.verdict = some false then m
    else if 8 ≤ r.attempt then m.fatalFail 5 die
    else
      let m := if r.replay.isSome then m else m.onRun job fun r => { r with replay := some { point := r.point, code := code } }
      m.abandonWaiting job

/-! ### Fencing a core (R591 to R597) -/

def Mod.liveCores (m : Mod) : List Nat := cores.filter fun c => !(m.core! c).fenced && (m.core! c).fencing.isNone

/-- The jobs with a list in a slot of a core. -/
def CoreSt.slotJobs (x : CoreSt) : List Nat := (x.slots.map fun (p : Nat × SlotSt) => p.2.l.job).eraseDups

/-- The sequencer of a core stops: its descriptors in flight are abandoned, its lists are gone; evacuation begins. An UPD_LAYER
is not the core's: it completes on the units and retires as any other, of no list slot, with its signals (R259, R593).
`kind` is byte 1 of event 0xD001: 0 contained, 1 CORE_FENCE, 2 exhausted spares. -/
def Mod.startFence (m : Mod) (c kind code : Nat) : Mod :=
  let jobs := (m.core! c).slotJobs
  let m := ((m.core! c).infl.filter fun f => dOp f.d ≠ opUpdLayer).foldl (fun m f => m.abandon c f) m
  let m := m.onCore c fun x => { x with
    fencing := some (kind, code)
    slots := []
    lq := []
    remote := []
    infl := x.infl.map fun f => { f with slot := 16 + f.id } }
  let m := [0, 1].foldl (fun m a => m.onArr c a fun x =>
    { x with q := [], loads := [], runOut := none, replays := [], testing := false }) (m.clearBuffers c)
  (jobs.foldl (fun m j => m.reinitDue j) m).power

/-- A contained fault of a core (R590, R594, R595): the core is fenced and the jobs it runs replay. -/
def Mod.containCore (m : Mod) (c code : Nat) : Mod :=
  if (m.core! c).fenced || (m.core! c).fencing.isSome || m.fatal then m
  else if m.liveCores.length ≤ 1 then m.fatalFail 6 c
  else
    let jobs := (m.jobs.filter fun (p : Nat × Job) => m.stepBinds p.1 p.2 c).map (·.1)
    let m := m.startFence c 0 code
    jobs.foldl (fun m j => m.needReplay j code c) m

/-- A core is powered: neither fenced nor being fenced, the module running. -/
def Mod.powered (m : Mod) (c : Nat) : Bool := m.alive && !(m.core! c).fenced && (m.core! c).fencing.isNone

/-- A contained fault of a core is recorded and contained (R589, R590). -/
def Mod.coreFault (m : Mod) (c code : Nat) (pay : List (Nat × Nat × Nat)) : Mod :=
  if m.powered c then (m.ev code 2 pay).containCore c code else m

/-! ### Residue check and replay (R110 to R118) -/

/-- The passes of an array that have released a token and not retired, in issue order; a DRAIN_ONLY pass releases none. -/
def Mod.begunPasses (m : Mod) (c a : Nat) : List Infl :=
  (m.core! c).infl.filter fun f => dOp f.d = opArrPass && (passOp f.d).array = a && f.began && !(passOp f.d).drain

/-- RESIDUE_MISMATCH: a group's check fails in pass `id` of the array. The pass's first mismatch, or its first in a replay,
starts a run-out from it; one in its second replay is a contained fault (R114, R117). Every mismatch is queued for
localisation (R118). -/
def Mod.mismatch (m : Mod) (c a id group phys : Nat) : Mod :=
  match (m.begunPasses c a).find? fun f => f.id = id with
  | none => m
  | some f =>
    if !m.powered c then m
    else
      let x := m.arr! c a
      let pay := [(0, 1, c), (1, 1, a), (2, 2, f.job), (4, 4, dSeq f.d), (8, 1, group), (9, 1, f.replays), (10, 2, phys)]
      let m := (m.arrCnt c a 0x108 1).ev 0x1101 1 pay
      let m := if x.pend.length < 16 then m.onArr c a fun x => { x with pend := x.pend ++ [(group, phys)] }
        else (m.onArr c a fun x => { x with pendOvf := true }).ev 0x1103 0 [(0, 1, c), (1, 1, a), (2, 2, phys), (4, 1, group)]
      if (match x.runOut with | some p => decide (p ≤ id) | none => false) then m
      else if f.replays < 2 then m.onArr c a fun x => { x with runOut := some id }
      else m.coreFault c 0x1102 pay

/-- PASS_REPLAY: after the run-out the pass that it began with and each later one that had released a token replay, in issue
order (R115). The slots that they had released by then count, how many being free (R99; log entry 64). -/
def Mod.passReplay (m : Mod) (c a : Nat) : Mod :=
  match (m.arr! c a).runOut with
  | none => m
  | some p =>
    let fs := (m.begunPasses c a).filter fun f => decide (p ≤ f.id)
    let ids := fs.map (·.id)
    let m := m.onCore c fun x => { x with infl := x.infl.map fun f => if ids.contains f.id then { f with replays := f.replays + 1 } else f }
    let m := (m.onArr c a fun x => { x with runOut := none, replays := ids }).arrCnt c a 0x110 ids.length
    fs.foldl (fun m f => m.slotsReleased c f) m

/-- What the residue checks of a pass find as it works (R110): with elements as loaded, nothing. -/
def Mod.residueCheck (m : Mod) (c : Nat) (f : Infl) : Mod :=
  let p := passOp f.d
  let x := m.arr! c (p.array % 2)
  match if p.drain then none else m.objAny p.mov with
  | none => m
  | some o => (p.wrong o (x.sets.getD f.set {})).foldl (fun m gn =>
      m.mismatch c (p.array % 2) f.id gn.1 (mapPos (x.out true) gn.2)) m

/-! ### Evacuation (R592) -/

/-- A tile moves between two homes in one instant, to a frame there: of an image the copy, with its poison (R314, R371). -/
def Mod.moveNow (m : Mod) (h t src home f : Nat) : Mod :=
  let m := if m.isImage h then (m.onObj h fun o => o.copyPoison src home t 1).discardCopy h src t else m.cutExt h src t 1
  let m := m.addExt { obj := h, tile := t, n := 1, home := home, frame := f }
  let m := (m.resCnt 0x28 1).resCnt 0x40 1048576
  (m.tileTraffic src 3 1048576 true).tileTraffic home 3 1048576 false

/-- A victim of a stack makes room for an evacuated tile (R359): a copy of an image tile is discarded, another tile goes to the
Attic; none where no tile may go, or the Attic takes none (R382). -/
def Mod.makeRoom (m : Mod) (st : Nat) : Option Mod :=
  match minVictim (m.victims (homeStack st) false) with
  | none => none
  | some (_, h, t) =>
    if m.isImage h && m.at? h t homeAttic then some (m.discardCopy h (homeStack st) t)
    else if !m.accepts homeAttic || !m.entriesFor (m.splitNeed h t 1) false then none
    else (m.findRun homeAttic 1).map fun f => m.moveNow h t (homeStack st) homeAttic f

/-- A Pantry tile goes to the Cellar as R361 chooses (R592), evicting where no stack has a free frame; none where it finds no
room. A copy of an image tile that has another in the chosen stack is discarded. -/
def Mod.evacuateTile (m : Mod) (c h t : Nat) : Option Mod :=
  match m.pickStack h t with
  | none => none
  | some s =>
    let home := homeStack s
    if m.isImage h && m.at? h t home then some (m.discardCopy h (homePantry c) t)
    else if !m.entriesFor (m.splitNeed h t 1) false then none
    else match m.findRun home 1 with
      | some f => some (m.moveNow h t (homePantry c) home f)
      | none => (m.makeRoom s).bind fun m => (m.findRun home 1).map fun f => m.moveNow h t (homePantry c) home f

/-- Evacuation of a Pantry (R592): its moves are cancelled, their requests wait and are applied again after it; borrowed
tiles give up their frames and read +0; the rest go to the Cellar, ignoring pins. Answers the tiles moved; none while a tile
finds no room, for then the evacuation waits (R359, R382; log entry 72). -/
def Mod.evacuate (m : Mod) (c : Nat) : Option (Mod × Nat) :=
  let mine := fun (m : Mod) (v : Mv) => v.home = homePantry c || (m.extsOf v.req.obj v.tile0).any fun e => e.home = homePantry c
  let vs := m.res.moves.filter (mine m)
  let m := vs.foldl (fun m v => m.cancelMove v) m
  let again := (vs.map (·.req)).filter fun r => r.kind ≠ 6
  let m := { m with res := { m.res with waiting := again.foldr insReq m.res.waiting } }
  let tiles := (m.res.ext.filter fun e => e.home = homePantry c).flatMap fun e => (List.range e.n).map fun i => (e.obj, e.tile + i)
  let moved := tiles.filter fun p => !m.isBorrowed p.1
  let out := tiles.foldl (fun (r : Option Mod) p => r.bind fun m =>
    if m.isBorrowed p.1 then some (m.dropTile p.1 p.2) else m.evacuateTile c p.1 p.2) (some m)
  out.map fun m => ({ m with res := { m.res with releasing := m.res.releasing.filter fun e => e.home ≠ homePantry c } }, moved.length)

/-- A sector that evacuation could not read is poisoned at the tile's new home (R592): in the Cellar as R314 gives, with its
event and counts; in the Attic without. -/
def Mod.poisonMoved (m : Mod) (opsec : Nat) (b : Nat × Nat × Nat) : Mod :=
  match (m.extsOf b.1 b.2.1).head? with
  | none => m
  | some e =>
    if isCellar e.home then m.sectorBad opsec (e.home - 64) ((e.frame + (b.2.1 - e.tile)) * 1048576 + 64 * b.2.2)
    else m.poisonAt b.1 b.2.1 e.home b.2.2

/-- The end of a fence (R591): the core is powered down. The words that fail ECC are those that `bad` reports and those that
failed before (R331). -/
def Mod.finishFence (m : Mod) (opsec c kind code : Nat) (bad : List (Nat × Nat × Nat)) : Mod :=
  match m.evacuate c with
  | none => m
  | some e =>
  let bad := (((bad.filter fun b => m.at? b.1 b.2.1 (homePantry c)) ++ m.linesOf c (m.core! c).pan.badLines).filter fun b =>
    !m.isBorrowed b.1).eraseDups
  let m := bad.foldl (fun m b => m.poisonMoved opsec b) e.1
  let m := m.onCore c fun x => { x with
    fenced := true
    fencing := none
    recipes := []
    pan := { x.pan with badLines := [], lent := none } }
  let m := [0, 1].foldl (fun m a => m.onArr c a fun x => { x with
    sets := [{}, {}]
    tagged := [{}, {}]
    nextSet := 0
    curSet := none
    sump := []
    tags := [] }) m
  let m := { m with autoFenced := if kind = 1 then m.autoFenced else m.autoFenced ||| 2 ^ c }
  let m := ((m.devCount 0x110).ev 0xD001 0 [(0, 1, c), (1, 1, kind), (2, 2, code), (4, 4, e.2), (8, 4, bad.length)]).async 0
  let m := match m.deferFence.find? fun d => d.1 = c with
    | some d => ({ m with deferFence := m.deferFence.erase d }).replyLate d.2.1 d.2.2 (if kind = 1 then stOK else stCoreState)
    | none => m
  m.refreshPhase.pump.power

/-- FENCE_EVACUATION_DONE. -/
def Mod.fenceEvacuated (m : Mod) (opsec c : Nat) (bad : List (Nat × Nat × Nat)) : Mod :=
  match (m.core! c).fencing with
  | some (kind, code) => m.finishFence opsec c kind code bad
  | none => m

/-- An array of the core is marked exhausted (R127). -/
def Mod.exhausted (m : Mod) (c : Nat) : Bool := m.nv.exhausted.any fun a => a / 2 = c

/-- The recipes of every task that binds a core: what its store is reloaded with (R236). -/
def Mod.recipesFor (m : Mod) (c : Nat) : List Recipe :=
  m.jobs.flatMap fun (j : Nat × Job) => j.2.tasks.flatMap fun (t : Nat × Task) =>
    if t.2.binds.contains c then
      ((List.range t.2.recipes.length).zip t.2.recipes).map fun r => { job := j.1, task := t.1, idx := r.1, w := r.2 }
    else []

/-- A core is powered up (R597): a failing Pantry bank leaves it fenced; every tile frame is zeroed before its first use
(R333: no job has number 4,096). -/
def Mod.unfence (m : Mod) (c : Nat) (failing : Option Nat) : Mod :=
  match failing with
  | some b => (m.ev 0x4803 2 [(0, 1, c), (1, 1, b)]).ev 0xD002 0 [(0, 1, c), (1, 1, 1)]
  | none =>
    let rs := m.recipesFor c
    let m := (m.clearBuffers c).onCore c fun x => { x with
      fenced := false
      recipes := rs
      sync := x.sync.map fun (p : Nat × SyncObj) => (p.1, p.2.reinit)
      bars := x.bars.map fun (p : Nat × Bar) => (p.1, p.2.reinit) }
    let zero : Ext := { obj := 4096, tile := 0, n := 256, home := homePantry c, frame := 0 }
    let m := { m with
      autoFenced := if bit m.autoFenced c then m.autoFenced - 2 ^ c else m.autoFenced
      res := { m.res with held := insExt zero (m.res.held.filter fun d => d.home ≠ homePantry c) } }
    (m.ev 0xD002 0 [(0, 1, c), (1, 1, 0)]).refreshPhase.pump.power

/-! ### Notices (R605, R606, R611) -/

/-- A notice of the verdict barrier: up the verdict tree, or down from its root. -/
def Mod.sendNotice (m : Mod) (job type point attempt chip : Nat) : Mod :=
  match m.job? job with
  | none => m
  | some j =>
    let body := fun (down : Nat) => barBody (j.verdictBar - 1) (2 + down) attempt 0 j.step (2 ^ 64 - 1) 0 0 0
      (pack [(0, 1, type), (1, 1, point), (4, 4, chip)])
    m.sendVerdictTree job kBarrier (body 0) (body 1) 204

/-! ### The replay begins (R599 to R604) -/

/-- The lowest-indexed loaded task that may stand in for task t, given those already used (R602). -/
def Mod.variantFor (m : Mod) (j : Job) (r : Run) (used : List Nat) (t : Nat) : Option Nat :=
  match Tab.find j.tasks t with
  | none => none
  | some k =>
    let want := k.binds.filter fun c => !(m.core! c).fenced
    (j.tasks.find? fun (p : Nat × Task) => !bit r.mask p.1 && !used.contains p.1 && p.2.binds = want).map (·.1)

/-- The tasks of a run with their variants in place, or the first task without one and its fenced core. -/
def Mod.variants (m : Mod) (j : Job) (r : Run) : List Nat → List (Nat × Nat) → Except (Nat × Nat) (List (Nat × Nat))
  | [], acc => .ok acc
  | t :: ts, acc =>
    let bound := match Tab.find j.tasks t with | some k => k.binds.filter fun c => (m.core! c).fenced | none => []
    match bound with
    | [] => Mod.variants m j r ts acc
    | c :: _ =>
      match m.variantFor j r (acc.map (·.2)) t with
      | some v => Mod.variants m j r ts (acc ++ [(t, v)])
      | none => .error (t, c)

/-- Takes the lists of the abandoned attempt out of the slots and queues: those of its PH_UPD, where it had come so far (`upd`),
else all but the PH_UPD lists that still run from the step before (R32). -/
def Mod.dropLists (m : Mod) (job : Nat) (upd : Bool) : Mod :=
  let gone := fun (l : DList) => l.job = job && (upd || l.phase ≠ 4)
  cores.foldl (fun m c => m.onCore c fun x => { x with
    slots := x.slots.filter fun (p : Nat × SlotSt) => !gone p.2.l
    lq := x.lq.filter fun l => !gone l }) m

/-- What every begin of an attempt at PH_FWD leaves (R600): windows, touched bits, the norm accumulator, PENDING, scales. -/
def Mod.freshAttempt (m : Mod) (job : Nat) : Mod :=
  let m := (m.clearTouch job).mapObjs job Obj.newStep
  m.onJob job fun j => { j with norm := 0, normSat := false }

/-- The contexts of the abandoned attempt close (R503); packets parked for the attempt that begins, or for later, stay. -/
def Mod.closeContexts (m : Mod) (job : Nat) : Mod :=
  (m.col.ctx.filter fun x => x.job = job).foldl (fun m x => m.closeCtx x.key 1) m

/-- The new attempt: its number, its tasks, and the state that R600 names. -/
def Mod.beginAttempt (m : Mod) (job : Nat) (q : ReplayReq) (vs : List (Nat × Nat)) : Mod :=
  let upd : Bool := match m.run? job with | some r => r.phase = 4 && r.dispatched || q.point = 1 | none => false
  let m := m.onRun job fun r => { r with
    attempt := if q.attempt = 0 then r.attempt + 1 else q.attempt
    variantOf := vs
    replay := none
    replayed := true
    verdict := if q.point = 0 then none else r.verdict
    flags := r.flags ||| 2 ^ flagReplayed
    phase := if q.point = 0 then 0 else 4
    dispatched := false
    verdictSeen := q.point = 1 && r.verdictSeen
    collIds := [] }
  let m := m.dropLists job upd
  let m := m.closeContexts job
  let m := m.reinitObjects job
  let m := m.onJob job fun j => { j with nonfinite := false, quenching := false }
  let m := if q.point = 0 then ((m.zeroWindows job).freshAttempt job) else m
  let m := cores.foldl (fun m c => m.fillSlots c) m
  let a := m.attemptOf job
  { m.devCount 0x108 with lastAttempts := a }

/-- Descriptors of a job in flight on a core that is not fenced; what the update units hold for a fenced one goes on (R599). -/
def Mod.inflLive (m : Mod) (job : Nat) : Bool := cores.any fun c => !(m.core! c).fenced && !((m.core! c).inflOf job).isEmpty

/-- A task of the run binds a core. -/
def Job.taskBinds (j : Job) (r : Run) (c : Nat) : Bool :=
  r.actualTasks.any fun t => match Tab.find j.tasks t with | some k => k.binds.contains c | none => false

/-- REPLAY_BEGIN: the fences of the job's own cores are past step 4 of R591, and its issued descriptors have left (R599). -/
def Mod.replayBegin (m : Mod) (job : Nat) : Mod :=
  match m.job? job with
  | none => m
  | some j =>
    match j.run with
    | none => m
    | some r =>
      match r.replay with
      | none => m
      | some q =>
        if m.inflLive job || (cores.any fun c => (m.core! c).fencing.isSome && j.taskBinds r c) then m
        else match m.variants j r r.tasks [] with
          | .error (t, c) =>
            let m := m.onRun job fun r => { r with replay := none }
            (m.ev 0xD012 0 [(0, 2, job), (2, 1, t), (3, 1, c)]).stopStep job stListFault c
          | .ok vs =>
            let m := m.beginAttempt job q vs
            let pay := [(0, 2, job), (2, 8, r.step), (10, 1, m.attemptOf job), (11, 1, q.point), (12, 2, q.code)]
            if q.attempt = 0 then
              ((m.ev 0xD010 0 pay).sendNotice job 1 q.point (m.attemptOf job) 0).power
            else (m.ev 0xD011 0 (pay ++ [(14, 3, q.chip)])).power

/-- A replay notice for the current step (R605): one of a higher attempt takes the place of a replay of the module's own that has not
begun. -/
def Mod.adopt (m : Mod) (job step attempt point chip : Nat) : Mod :=
  match m.run? job with
  | none => m
  | some r =>
    if step ≠ r.step ∨ attempt ≤ r.attempt ∨ r.halted ∨ r.verdict = some false then m
    else match r.replay with
      | some q => if attempt ≤ q.attempt then m
          else m.onRun job fun r => { r with replay := some { point := point, code := 0, attempt := attempt, chip := chip } }
      | none =>
        (m.onRun job fun r => { r with replay := some { point := point, code := 0, attempt := attempt, chip := chip } }).abandonWaiting job

/-! ### A partner lost (R610 to R612) -/

/-- An export to a chip that is lost (R519). -/
def Mod.loseExport (m : Mod) (job chip : Nat) : Mod :=
  m.onJob job fun j => { j with snap := j.snap.map fun x =>
    if x.link && x.dstChip = chip && x.status = 0 then { x with status := stPartnerLost } else x }

/-- What the loss of a chip ends in a job: its streams to the chip, which receives nothing more (R449), barriers, collectives, an export, a live notice (R412, R501, R519, R524). -/
def Mod.loseIn (m : Mod) (job chip : Nat) : Mod :=
  let m := m.onJob job fun j => { j with lost := chip :: j.lost.filter (· ≠ chip) }
  let has := fun (g : Nat) => match m.group? job g with | some x => x.members.contains chip | none => false
  let bars := m.col.mbar.filter fun (p : Nat × Bar) => p.2.job = job && has p.2.group && !p.2.waiting.isEmpty
  let m := bars.foldl (fun m p => m.loseBarrier p.1 chip) m
  let colls := m.col.ctx.filter fun x => x.job = job && x.local_.isSome && has (collOp x.d).group
  let m := colls.foldl (fun m x => m.endColl x.key 0x8021 stPartnerLost chip) m
  let m := { m with lnk := { m.lnk with tx := m.lnk.tx.map fun (kt : Nat × TxStream) =>
    if kt.1 / 8 = chip * 4096 + job then (kt.1, { kt.2 with unreachable := true, due := false }) else kt } }
  (m.loseExport job chip).endNotice job chip 2

/-- The declaration: event 0xD020 once per chip (`why`: 1 ports dark, 2 unreachable, 3 loss notice). -/
def Mod.declareLost (m : Mod) (chip why : Nat) (jobs : List Nat) : Mod :=
  let known := m.jobs.any fun (p : Nat × Job) => p.2.lost.contains chip
  let m := if known then m else (m.ev 0xD020 0 [(0, 3, chip), (3, 1, why)]).devCount 0x118
  jobs.foldl (fun m j => if m.lostFor chip j then m.loseExport j chip else m.loseIn j chip) m

/-- The jobs whose verdict group lists a chip. -/
def Mod.verdictListsChip (m : Mod) (job chip : Nat) : Bool :=
  match m.verdictGroup job with | some gr => gr.1.members.contains chip | none => false

/-- This module declares a chip lost (R610): for every open job, with loss notices (R611). -/
def Mod.chipLost (m : Mod) (chip why : Nat) : Mod :=
  let jobs := m.jobs.map fun (p : Nat × Job) => p.1
  let told := jobs.filter fun j => m.verdictListsChip j chip && !m.lostFor chip j
  let m := m.declareLost chip why jobs
  told.foldl (fun m j => m.sendNotice j 2 0 (m.attemptOf j) chip) m

/-- A delivered notice (R605, R606, R611): forwarded along the tree, then acted on. -/
def Mod.takeNoticePkt (m : Mod) (hdr body : Nat) : Mod :=
  let job := hJob hdr
  let down := bit (byf body 1 1) 0
  let m := match m.verdictGroup job with
    | none => m
    | some (g, r) =>
      if down then m.formDown g 0 r (barPkt job body)
      else if (g.parent 0 r).isNone then
        let w := body % 2 ^ 640 + 2 ^ 8
        m.formDown g 0 r (barPkt job (w + ((List.range 10).foldl (fun a i => a + byf w (8 * i) 8) 0) % 2 ^ 64 * 2 ^ 640))
      else m.formUp g 0 r (barPkt job body)
  match byf body 48 1 with
  | 1 => m.adopt job (byf body 8 8) (byf body 2 1) (byf body 49 1) (hSrc hdr)
  | 2 => m.declareLost (fld (byf body 52 4) 0 20) 3 [job]
  | _ => m

/-! ### Rows -/

def execReplayBegin (job : JobId) (s : State) : Host.Outcome State Fault Refusal := run (fun m => m.replayBegin job.toNat) s
/-- FABRIC_REPLAY_FAILURE (R22): a die pair's link fails replay 16 times in a row. -/
def execFabricReplayFailure (a b : Die) (s : State) : Host.Outcome State Fault Refusal :=
  run (fun m => if a = b ∨ m.phase = .off then m else m.fatalFail 1 (min a.val b.val)) s
/-- WATCHDOG_EXPIRY (R28). -/
def execWatchdogExpiry (d : Die) (s : State) : Host.Outcome State Fault Refusal :=
  run (fun m => if m.phase = .off then m else m.fatalFail 2 d) s
/-- CP_MEMORY_UNCORRECTABLE (Table 17.3). -/
def execCpMemoryUncorrectable (d : Die) (s : State) : Host.Outcome State Fault Refusal :=
  run (fun m => if m.phase = .off then m else m.fatalFail 7 d) s

end Sys2Proof.Machine
end

