-- ==== Sys2Proof/Machine/Retire.lean ====
section
/-! DEFINITION. The engines' own progress: loads and passes begin, descriptors retire, waits and barriers end, signals
between cores act. -/
namespace Sys2Proof.Machine

/-! ### The engines go on (R351) -/

/-- The work of one descriptor, and of a pass what its residue checks find. -/
def Mod.engineStep (m : Mod) (c id : Nat) : Mod :=
  match m.infl? c id with
  | some f => if m.mayWork c f then (if dOp f.d = opArrPass then (m.work c f).residueCheck c f else m.work c f) else m
  | none => m

/-- The place of a descriptor's engine among those that work in one instant: by core, and of a core its loads, array A0, A1, the
vector engine; the collective engine last (R197). -/
def engineRank (c d : Nat) : Nat :=
  match dOp d with
  | 0x11 => 8 * c
  | 0x10 => 8 * c + 1 + (passOp d).array % 2
  | 0x20 => 8 * c + 3
  | 0x21 => 8 * c + 3
  | 0x50 => 40
  | _ => 8 * c + 4

/-- The descriptors in flight whose work is not done, with their cores: by engine in the order of R197, and of one engine in
issue order. -/
def Mod.undone (m : Mod) : List (Nat × Nat) :=
  ((cores.flatMap fun c => ((m.core! c).infl.filter fun f => !f.worked).map fun f => (engineRank c f.d * 2 ^ 64 + f.id, c)).foldr
    insIv []).map fun p => (p.1 % 2 ^ 64, p.2)

/-- Every engine does what it now can: after tiles have arrived or a descriptor has retired. -/
def Mod.drive (m : Mod) : Mod := m.undone.foldl (fun m p => m.engineStep p.2 p.1) m

/-! ### Loads and passes (R68, R83, R84, R88, R114) -/

/-- The set of an array that a load was issued to fill. -/
def Infl.setOn (f : Infl) (a : Nat) : Nat := if a = 0 then f.set else f.load

/-- Nothing still needs what a set holds: every pass issued before the load to use it has done so (R83). -/
def Mod.setFree (m : Mod) (c a : Nat) (f : Infl) : Bool :=
  ((m.core! c).earlier f).all fun g =>
    dOp g.d ≠ opArrPass || (passOp g.d).array ≠ a || (passOp g.d).drain || g.set ≠ f.setOn a || g.worked

/-- The loads of an array begin one at a time (R83): every earlier one has filled its set. -/
def Mod.pathFree (m : Mod) (c a : Nat) (f : Infl) : Bool :=
  ((m.core! c).earlier f).all fun g => dOp g.d ≠ opArrLoad || !(loadArrays g.d).contains a || g.worked

/-- The first tile that a load or a pass reads stands where its pin wants it (R68). -/
def Mod.firstTile (m : Mod) (f : Infl) : Bool := (f.pins.take 1).all fun p => m.at? p.1 p.2.1 p.2.2

/-- Array a may take a load's first stage, or a pass's: no test holds it and no refresh is before it. -/
def Mod.arrayOpen (m : Mod) (c a : Nat) (f : Infl) : Bool := !(m.arr! c a).testing && !(m.core! c).refreshFirst f

/-- No earlier pass of an array still releases tokens (R68): each that has begun and does not only drain has had its tiles, and
in a run-out no pass releases any (R114). -/
def Mod.tokensOut (m : Mod) (c a : Nat) (f : Infl) : Bool :=
  ((m.core! c).earlier f).all fun g => dOp g.d ≠ opArrPass || (passOp g.d).array ≠ a || (passOp g.d).drain || !g.began || g.worked ||
    m.withheld c g

/-- ARR_LOAD_BEGIN: the oldest load of an array that has not begun does so; a shared load begins on both arrays at once
(R80, R83, R84). -/
def Mod.loadBegin (m : Mod) (c a : Nat) : Mod :=
  match ((m.arr! c a).loads.head?).bind fun id => m.infl? c id with
  | none => m
  | some f =>
    let as := loadArrays f.d
    if !(as.all fun i => (m.arr! c i).loads.head? = some f.id && m.setFree c i f && m.pathFree c i f && m.arrayOpen c i f) ||
        !m.firstTile f then m
    else
      let m := as.foldl (fun m i => m.onArr c i fun x => { x with loads := x.loads.drop 1, loadSet := f.setOn i }) m
      let m := as.foldl (fun m i => m.fillHalf c i) (m.onInfl c f.id fun f => { f with began := true })
      m.engineStep c f.id

/-- ARR_PASS_STAGE0: the oldest pass of an array begins once its set's load has (R85) and no earlier pass still releases tokens;
in a run-out none does (R114). A DRAIN_ONLY pass waits for no load, for no tile and for no run-out (R68). Its entries, and what it drains, are those of R86 to R92. -/
def Mod.passBegin (m : Mod) (c a : Nat) : Mod :=
  match ((m.arr! c a).q.head?).bind fun id => m.infl? c id with
  | none => m
  | some f =>
    let x := m.arr! c a
    let drain := (passOp f.d).drain
    if !m.arrayOpen c a f || !m.tokensOut c a f || (!drain && (x.runOut.isSome || x.loads.contains f.load || !m.firstTile f)) then m
    else
      let m := m.onArr c a fun x => { x with q := x.q.drop 1, injSet := if drain then x.injSet else f.set }
      (m.onInfl c f.id fun f => { f with began := true }).engineStep c f.id

def execArrLoadBegin (c : Core) (a : Arr) (s : State) : Host.Outcome State Fault Refusal := run (fun m => m.loadBegin c a) s
def execArrPassStage0 (c : Core) (a : Arr) (s : State) : Host.Outcome State Fault Refusal := run (fun m => m.passBegin c a) s

/-! ### Retirement (R43, R45, R91, R94) -/

/-- An update issued before f to a unit of f, with no share elsewhere and nothing but its own work to wait for, has not
retired: its share of that unit, and so f's, is unfinished (R260). -/
def Mod.updBehind (m : Mod) (f : Infl) : Bool :=
  let units := fun (id : Nat) => (m.upd.units.filter fun (p : Nat × UnitSt) => p.2.q.any fun q => q.1 = id).map (·.1)
  let mine := units f.id
  m.upd.units.any fun (p : Nat × UnitSt) => mine.contains p.1 &&
    (p.2.q.takeWhile fun q => q.1 ≠ f.id).any fun q => (units q.1).all mine.contains &&
      cores.any fun c => match m.infl? c q.1 with | some g => !(m.core! c).behind g | none => false

/-- Every tile of a MOVE stands at DEST; for DROP every frame is released (R372). -/
def Mod.moveDone (m : Mod) (d : Nat) : Bool :=
  let p := moveOp d
  (m.objAny p.obj).isNone || p.tiles.all fun t =>
    if p.op = 1 then (m.extsOf p.obj t).isEmpty && !(m.res.releasing.any fun e => e.has p.obj t) else m.at? p.obj t p.dest

/-- The work of a descriptor is complete and visible. -/
def Mod.workDone (m : Mod) (c : Nat) (f : Infl) : Bool :=
  match dOp f.d with
  | 0x10 => f.worked && !m.withheld c f
  | 0x11 => f.worked
  | 0x20 => f.worked
  | 0x21 => f.worked
  | 0x61 => !f.result || f.worked
  | 0x30 => m.moveDone f.d
  | 0x31 => true
  | 0x50 => m.collReady f.collKey
  | 0x60 =>
    let y := m.layer! (updLayerNo f.d)
    if f.result then f.worked && !m.updBehind f else y.cfg.frozen || y.updating = 0
  | _ => false

/-- A descriptor may retire (R43, R45, R500); a COLL that has reached its deadline no longer does (R460, R501). -/
def Mod.mayRetire (m : Mod) (c : Nat) (f : Infl) : Bool :=
  m.workDone c f && m.pinsMet f.pins && !(m.core! c).behind f && !(dOp f.d = opColl && f.overdue m.now)

/-- A retired pass: its counters, the stall event, the end of its replay (Tables 2.17, 3.4, 6.x; R74, R116). The products of a
ROOT_REFRESH are no passes and count in none of these (R283; DESIGN CHOICE, log entry 85). -/
def Mod.retirePass (m : Mod) (c : Nat) (f : Infl) (st : Stats) : Mod :=
  let p := passOp f.d
  let a := p.array
  let add := fun (m : Mod) (on : Nat × Nat) => m.arrCnt c a on.1 on.2
  let m := [(0x10, if p.drain then 0 else passSlots p.mfmt p.m), (0x18, st.active), (0x20, 1), (0x30, st.underruns),
    (0x38, st.underrunStages), (0x48, st.seedWait), (0x50, if p.xpose then st.xposeWait else 0), (0x118, st.replayStages)].foldl add m
  let t := (m.arr! c a).stall
  let m := if t ≠ 0 ∧ t < st.underrunStages then
      m.ev 0x1001 0 [(0, 1, c), (1, 1, a), (2, 2, f.job), (4, 4, dSeq f.d), (8, 4, st.underrunStages), (12, 4, st.underruns)]
    else m
  m.onArr c a fun x => { x with replays := x.replays.filter (· ≠ f.id) }

/-- A retired load. The stages that a shared load waited, for its sets or for array A0's half of the buffer, count on both its
arrays (R99, R216; DESIGN CHOICE, log entry 85). -/
def Mod.retireLoad (m : Mod) (c : Nat) (f : Infl) (st : Stats) : Mod :=
  (loadArrays f.d).foldl (fun m a => ((m.arrCnt c a 0x28 1).arrCnt c a 0x40 st.loadWait).arrCnt c a 0x50
    (if (loadOp f.d).xpose then st.xposeWait else 0)) m

/-- A retired vector descriptor: its counters and the stall event (Tables 7.14, 7.15). -/
def Mod.retireVec (m : Mod) (c : Nat) (f : Infl) (st : Stats) : Mod :=
  let m := [(0x20, st.active), (0x28, 1), (0x30, st.readWait), (0x38, st.writeWait)].foldl
    (fun m (on : Nat × Nat) => m.vecCnt c on.1 on.2) m
  let t := (m.core! c).vecStall
  if t ≠ 0 ∧ t < st.anyWait then
    m.ev 0x1210 0 [(0, 1, c), (2, 2, f.job), (4, 4, dSeq f.d), (8, 4, st.readWait), (12, 4, st.writeWait)]
  else m

/-- What the opcode's engine records as its descriptor retires. -/
def Mod.retireWork (m : Mod) (c : Nat) (f : Infl) (st : Stats) : Mod :=
  match dOp f.d with
  | 0x10 => (m.retirePass c f st).panCnt c 0x10 st.panBytes
  | 0x11 => (m.retireLoad c f st).panCnt c 0x10 st.panBytes
  | 0x20 => (m.retireVec c f st).panCnt c 0x28 st.panBytes
  | 0x21 => (m.retireVec c f st).panCnt c 0x28 st.panBytes
  | 0x61 => ((if f.result then m.runRefresh f.job f.d else m).retireVec c f st).panCnt c 0x28 st.panBytes
  | 0x50 =>
    let m := st.celBytes.foldl (fun m (sb : Nat × Nat) => if sb.1 < 32 then m.stackBytes sb.1 2 sb.2 else m) m
    (st.pans.foldl (fun m (x : Nat × Nat) => if x.1 < 4 then m.panCnt x.1 0x20 x.2 else m) m).closeCtx f.collKey
  | 0x60 =>
    let m := st.units.foldl (fun m (u : Nat × Nat × Nat) =>
      if (m.unit! u.1).q.any fun p => p.1 = f.id then (m.unitCnt u.1 0x30 u.2.1).unitCnt u.1 0x38 u.2.2 else m) m
    if f.result then m.finishUpdate f.d f.id else m
  | _ => m

/-- DESCRIPTOR_RETIRE. -/
def Mod.descriptorRetire (m : Mod) (c id : Nat) (st : Stats) : Mod :=
  match m.infl? c id with
  | none => m
  | some f => if m.mayRetire c f then (((m.retireWork c f st).panCnt c 0x38 st.panDefer).retire c id true).drive else m

def execDescriptorRetire (c : Core) (id : Nat) (st : Stats) (s : State) : Host.Outcome State Fault Refusal :=
  run (fun m => m.descriptorRetire c id st) s

def execFenceEvacuationDone (c : Core) (bad : List (Nat × Nat × Nat)) (s : State) : Host.Outcome State Fault Refusal :=
  run (fun m => (m.fenceEvacuated s.evr.opsec c bad).drive) s

/-! ### Signals between cores (R396) -/

/-- REMOTE_SIGNAL_ACT: the oldest signal under way from a core to an object acts and its SYNC_SIGNAL retires. -/
def Mod.remoteAct (m : Mod) (src dst obj : Nat) : Mod :=
  match (m.core! src).remote.find? fun r => r.1 = dst && r.2.1 = obj with
  | none => m
  | some r =>
    let m := m.onCore src fun x => { x with remote := x.remote.erase r }
    let m := if (m.core! dst).fenced then m else m.signal dst obj r.2.2.1 r.2.2.2.1
    ((m.retireCore src r.2.2.2.2 true).settle dst).settle src

def execRemoteSignalAct (src dst : Core) (obj : Fin 48) (s : State) : Host.Outcome State Fault Refusal :=
  run (fun m => m.remoteAct src dst obj) s

/-! ### Timeouts and releases -/

/-- SYNC_WAIT_TIMEOUT (R399 to R401). -/
def Mod.waitTimeout (m : Mod) (c k : Nat) : Mod :=
  match (Tab.find (m.core! c).slots k).bind fun s => s.blocked.bind fun id => m.infl? c id with
  | none => m
  | some f =>
    if dOp f.d ≠ opSyncWait || !f.overdue m.now then m
    else
      let p := waitOp f.d
      let m := m.synCnt c 0x20 1
      if p.act then
        let m := m.retireCore c f.id false
        (if p.toEn then m.signal c p.toId false 1 else m).settle c
      else
        let m := m.ev 0x6010 0 [(0, 1, c), (1, 1, p.obj), (2, 2, f.job), (4, 4, dSeq f.d), (8, 8, m.stepOf f.job),
          (16, 4, (m.sync! c p.obj).value)]
        ((m.onSlot c k fun s => { s with stopped := true }).stopStep f.job stSyncTimeout 0).retire c f.id false

def execSyncWaitTimeout (c : Core) (k : Slot) (s : State) : Host.Outcome State Fault Refusal := run (fun m => m.waitTimeout c k) s
/-- CORE_BARRIER_RELEASE (R407). -/
def execCoreBarrierRelease (c : Core) (bar : Fin 8) (s : State) : Host.Outcome State Fault Refusal :=
  run (fun m => m.releaseCore c bar) s
/-- BARRIER_TIMEOUT (R411). -/
def execBarrierTimeout (c : Core) (id : Nat) (s : State) : Host.Outcome State Fault Refusal := run (fun m => m.barTimeout c id) s
/-- COLL_TIMEOUT (R501). -/
def execCollTimeout (job : JobId) (collId : BitVec 16) (s : State) : Host.Outcome State Fault Refusal :=
  run (fun m => m.collTimeout job.toNat collId.toNat) s

end Sys2Proof.Machine
end

