-- ==== Sys2Proof/Machine/Repair.lean ====
section
/-! DEFINITION. Faults inside the cores and the update units, and the repair of arrays (02, 03, 06 to 09, 11). -/
namespace Sys2Proof.Machine

/-! ### Residue check and replay (R110 to R118) -/

/-- RESIDUE_MISMATCH (R114). -/
def execResidueMismatch (c : Core) (a : Arr) (group : PassGroup) (phys : Fin 1040) (s : State) :
    Host.Outcome State Fault Refusal :=
  run (fun m => m.mismatch c a group.pass group.group phys) s
/-- PASS_REPLAY (R115). -/
def execPassReplay (c : Core) (a : Arr) (s : State) : Host.Outcome State Fault Refusal := run (fun m => (m.passReplay c a).drive) s

/-! ### Parity and ECC (Tables 2.18, 6.8, 7.15, 9.20, 11.15) -/

/-- SUMP_ECC_ERROR (R100). -/
def execSumpEccError (c : Core) (a : Arr) (row : Fin 2048) (col : Fin 1024) (corrected : Bool) (s : State) :
    Host.Outcome State Fault Refusal :=
  run (fun m =>
    let pay := [(0, 1, c.val), (1, 1, a.val), (2, 2, row.val), (4, 2, col.val)]
    if corrected then (if m.powered c then m.ev 0x1010 1 pay else m) else m.coreFault c 0x1011 pay) s
/-- CHUTE_PARITY (R100). -/
def execChuteParity (c : Core) (a : Arr) (row : Fin 1024) (slot : W32) (s : State) : Host.Outcome State Fault Refusal :=
  run (fun m => m.coreFault c 0x1012 [(0, 1, c.val), (1, 1, a.val), (2, 2, row.val), (4, 4, slot.toNat)]) s
/-- XPOSE_PARITY (R217): an element of a transposed pass in an array's moving half, or of a transposed load in its stationary
half. -/
def execXposeParity (c : Core) (a : Arr) (stationary : Bool) (band : Fin 16) (id : Nat) (s : State) : Host.Outcome State Fault Refusal :=
  run (fun m =>
    match m.infl? c id with
    | none => m
    | some f =>
      let x := m.arr! c a
      if !(if stationary then x.statHalf else x.moveHalf).contains id then m
      else m.coreFault c 0x1013 [(0, 1, c.val), (1, 1, a.val), (2, 1, b2n stationary), (3, 1, band.val), (4, 2, f.job), (6, 4, dSeq f.d)]) s
/-- What the vector engine runs: a ROOT_REFRESH that has taken it (R283), else the oldest vector descriptor in its intake
(R251). -/
def Mod.vecRuns (m : Mod) (c : Nat) : Option Infl :=
  (m.core! c).infl.find? fun f => dOp f.d = opVecStream || dOp f.d = opVecReduce || (dOp f.d = opRootRefresh && f.began)
/-- VEC_LANE_PARITY (R256): of the descriptor that the engine runs. -/
def execVecLaneParity (c : Core) (st : Fin 8) (s : State) : Host.Outcome State Fault Refusal :=
  run (fun m =>
    match m.vecRuns c with
    | none => m
    | some f => m.coreFault c 0x1201 [(0, 1, c.val), (1, 1, st.val), (2, 2, f.job), (4, 4, dSeq f.d)]) s
/-- VEC_RECIPE_PARITY (R256). -/
def execVecRecipeParity (c : Core) (recipe : Byte) (job : JobId) (s : State) : Host.Outcome State Fault Refusal :=
  run (fun m =>
    if (m.core! c).recipes.any fun r => r.job = job.toNat && r.idx = recipe.toNat then
      m.coreFault c 0x1202 [(0, 1, c.val), (1, 1, recipe.toNat), (2, 2, job.toNat)]
    else m) s

/-- SYN_PARITY (R416, R590): sync objects 0 to 47 of a core, its barriers at 48 to 55, or a module barrier, whose logic is
reset and whose job's step is replayed. -/
def Mod.synParity (m : Mod) (c obj : Nat) : Mod :=
  if c = 4 then
    let job := (m.mbar! obj).job
    if !m.alive then m
    else (((m.ev 0x6040 2 [(0, 1, 4), (1, 1, obj), (2, 2, job)]).needReplay job 0x6040 0).onMbar obj Bar.reinit).power
  else if obj < 48 then m.coreFault c 0x6040 [(0, 1, c), (1, 1, obj), (2, 2, (m.sync! c obj).job)]
  else if obj < 56 then m.coreFault c 0x6040 [(0, 1, c), (1, 1, obj - 48), (2, 2, (m.bar! c (obj - 48)).job)]
  else m
def execSynParity (c : Fin 5) (obj : Fin 64) (s : State) : Host.Outcome State Fault Refusal := run (fun m => m.synParity c obj) s

/-- PAN_ECC_ERROR (R331): a word that cannot be corrected fails again when the Pantry is evacuated (R592). A word is corrected as
long as the Pantry has power, also while it is evacuated. -/
def Mod.badWord (m : Mod) (c bank word : Nat) : Mod :=
  m.onCore c fun x => { x with pan := { x.pan with badLines := wordLine bank word :: x.pan.badLines } }
def execPanEccError (c : Core) (bank : Fin 64) (word : W32) (corrected : Bool) (s : State) : Host.Outcome State Fault Refusal :=
  run (fun m =>
    let pay := [(0, 1, c.val), (1, 1, bank.val), (2, 4, word.toNat)]
    if corrected then (if m.alive && !(m.core! c).fenced then (m.panCnt c 0x40 1).ev 0x4801 1 pay else m)
    else if m.powered c then ((m.badWord c bank word.toNat).ev 0x4802 2 pay).containCore c 0x4802 else m) s

/-! ### Update units (R280) -/

/-- The next row block, past the share's last one where none is left. -/
def Mod.nextBlock (m : Mod) (l u : Nat) : Nat := ((m.blocksLeft l u).head?).getD ((m.shareBlocks l u).foldl max 0 + 1)

/-- A contained fault in the eighth attempt of a step is fatal, one that asks for no replay too (R607). -/
def Mod.lastAttempt (m : Mod) (job die : Nat) : Mod :=
  match m.run? job with
  | some r => if 8 ≤ r.attempt && !r.halted && r.verdict ≠ some false then m.fatalFail 5 die else m
  | none => m

/-- UPD_UNIT_FAULT (R280): the unit writes the row block in flight from its buffer, is reset, and resumes its share at the next
row block, which one being free. -/
def Mod.unitFault (m : Mod) (u : Nat) : Mod :=
  match (m.unit! u).q with
  | [] => m
  | (_, l) :: _ =>
    ({ m with free := m.free + 1 }.onUnit u fun x => { x with
      resuming := true
      next := m.nextBlock l u
      staged := m.stagedValues l ((m.blocksLeft l u).take stageBlocks) }).ev 0x3031 2 [(0, 1, u), (1, 2, l), (4, 8, m.nextBlock l u)]
    |>.lastAttempt (m.layer! l).job (u / 8)

/-- UPD_BUFFER_ECC_ERROR (R262, R280), of a word of 64 bytes that the buffer has: a corrected word is recorded; an uncorrectable one with a row block in flight is fatal. -/
def Mod.unitEcc (m : Mod) (u word : Nat) (corrected : Bool) : Mod :=
  if blockWords + stageWords ≤ word then m
  else if corrected then (if m.alive then m.ev 0x3030 1 [(0, 1, u), (2, 4, word)] else m)
  else match (m.unit! u).q with
    | [] => m
    | (_, l) :: _ =>
      if (m.unit! u).staged.isEmpty then m
      else ({ m with free := m.free + 1 }.ev 0x3032 3 [(0, 1, u), (1, 2, l), (4, 8, m.nextBlock l u)]).fatalFail 4 (u / 8)

def execUpdUnitFault (u : UnitId) (s : State) : Host.Outcome State Fault Refusal := run (fun m => m.unitFault u) s
def execUpdBufferEccError (u : UnitId) (word : W32) (corrected : Bool) (s : State) : Host.Outcome State Fault Refusal :=
  run (fun m => m.unitEcc u word.toNat corrected) s

/-! ### Localisation and repair (R119 to R127) -/

/-- Nothing occupies the arrays of a core. -/
def Mod.arraysIdle (m : Mod) (c : Nat) : Bool :=
  (m.core! c).infl.all fun f => dOp f.d ≠ opArrPass && dOp f.d ≠ opArrLoad && dOp f.d ≠ opRootRefresh

/-- LOCALISATION_TEST: the test of the oldest pending entry begins (R119). -/
def Mod.locTest (m : Mod) (c a : Nat) : Mod :=
  let x := m.arr! c a
  if m.powered c && !x.pend.isEmpty && !x.testing && m.allAtBoundary && m.arraysIdle c then
    m.onArr c a fun x => { x with testing := true }
  else m

/-- The key of a row's or a column's mismatch count. -/
def countKey (c a : Nat) (col : Bool) (phys : Nat) : Nat := (2 * c + a) * 4096 + b2n col * 2048 + phys

/-- A repair applied at a step boundary (R124, R125), or one that finds every spare used (R127): the array is marked
exhausted and its core fenced.
The record of R122 is of a repair that is applied; one that R127 does not apply writes none (DESIGN CHOICE, log entry 85). -/
def Mod.repair (m : Mod) (c a : Nat) (col : Bool) (phys : Nat) : Mod :=
  let x := m.arr! c a
  let pay := [(0, 1, c), (1, 1, a), (2, 1, b2n col), (3, 2, phys)]
  let s : Splice := { col := col, phys := phys, field := true }
  if 16 ≤ (x.splices.filter fun t => t.col = col).length then
    let m := { m with nv := { m.nv with exhausted := (2 * c + a) :: m.nv.exhausted.filter (· ≠ 2 * c + a) } }
    let m := m.ev 0x1122 2 pay
    if m.liveCores.length ≤ 1 then m.fatalFail 6 c else (m.startFence c 2 0x1122).refreshPhase
  else
    let m := { m with nv := { m.nv with journal := m.nv.journal ++ [(2 * c + a, s)] } }
    let m := m.onArr c a fun x => { x with
      splices := x.splices ++ [s]
      sets := [{}, {}]
      tagged := [{}, {}]
      nextSet := 0
      curSet := none }
    m.ev 0x1121 0 (pay ++ [(5, 1, 1), (6, 1, 1)])

/-- LOCALISATION_TEST_DONE: the count of what it reports, and at 4 the repair (R121, R122). -/
def Mod.locDone (m : Mod) (c a : Nat) (r : LocResult) : Mod :=
  let x := m.arr! c a
  match x.testing, x.pend with
  | true, e :: _ =>
    let m := m.onArr c a fun x => { x with testing := false, pend := x.pend.drop 1 }
    let found := match r with
      | .row r => some (false, r.val)
      | .column => some (true, e.2)
      | .nothing => none
    match found with
    | none => m.ev 0x1110 0 [(0, 1, c), (1, 1, a), (2, 1, 2)]
    | some (col, phys) =>
      let k := countKey c a col phys
      let n := Tab.get 0 m.nv.mismatch k + 1
      let m := { m with nv := { m.nv with mismatch := Tab.set 0 m.nv.mismatch k n } }
      let m := m.ev 0x1110 0 [(0, 1, c), (1, 1, a), (2, 1, b2n col), (3, 2, phys), (5, 1, n)]
      if n = 4 then (m.ev 0x1120 0 [(0, 1, c), (1, 1, a), (2, 1, b2n col), (3, 2, phys)]).repair c a col phys else m
  | _, _ => m

def execLocalisationTest (c : Core) (a : Arr) (s : State) : Host.Outcome State Fault Refusal := run (fun m => m.locTest c a) s
def execLocalisationTestDone (c : Core) (a : Arr) (r : LocResult) (s : State) : Host.Outcome State Fault Refusal :=
  run (fun m => m.locDone c a r) s

end Sys2Proof.Machine
end

