-- ==== Sys2Proof/Machine/Cellar.lean ====
section
/-! DEFINITION. The rows of the Cellar, the Pantry, the residency engine and the Attic (09, 10). -/
namespace Sys2Proof.Machine

/-! ### Thermal trip (R586) -/

/-- A thermal trip: THERMTRIP#, the core and stack rails off, the fatal failure of cause 3, event 0xA042 in staging. It is handled
by hardware, in a FAILED module too, whose flush runs once more. -/
def Mod.thermTrip (m : Mod) (die : Nat) (stack : Option Nat) (t : Int) : Mod :=
  if m.pins.thermTrip || m.phase = .off then m else
    let m := { m with pins := { m.pins with thermTrip := true, tripAt := m.now, coreRails := false } }
    let m := if m.fatal then { m with pins := { m.pins with flushing := true } } else m.fatalFail 3 die
    m.ev 0xA042 3 [(0, 1, die), (1, 1, b2n stack.isSome), (2, 1, stack.getD 0), (3, 1, intByte t)]

/-! ### Cellar registers (R299, R307, R330) -/

/-- A write of CEL_GANG: no effect while any job is open (R299). -/
def Mod.celGang (m : Mod) (v : Nat) : Mod :=
  if m.jobs.isEmpty then { m with cel := { m.cel with gang := [fld v 0 2, fld v 2 2, fld v 4 2, fld v 6 2] } } else m
def execCelGangWrite (v : W32) (s : State) : Host.Outcome State Fault Refusal :=
  run (fun m => if m.reachable then m.celGang v.toNat else m) s

/-- A regulator write on one stack (R307, Table 9.13). -/
def StackSt.writeReg (x : StackSt) (c rate burst : Nat) : StackSt :=
  let rates := x.rate.set c rate
  if 256 < rates.foldl (· + ·) 0 then { x with regReject := true }
  else { x with
    rate := rates
    burst := x.burst.set c (max burst 1)
    pendReg := Tab.put x.pendReg c (rate, max burst 1) }

/-- The stacks that a write to a stack register goes to: the selected one, or under BCAST all that are not mapped out. -/
def Mod.celStacks (m : Mod) : List Nat :=
  if m.cel.bcast then (List.range 32).filter fun i => !(m.stack! i).out else [m.cel.stackSel]
def Mod.celReg (m : Mod) (c v : Nat) : Mod :=
  m.celStacks.foldl (fun m i => m.onStack i fun x => x.writeReg c (fld v 0 9) (fld v 16 10)) m
def execCelRegWrite (c : Fin 5) (v : W32) (s : State) : Host.Outcome State Fault Refusal :=
  run (fun m => if m.reachable then m.celReg c v.toNat else m) s

/-- REGULATOR_CHANGE_EFFECT: within 1 µs the written values are in force; the bucket keeps its tokens, cut back to the new
BURST (R307). -/
def execRegulatorChangeEffect (st : Stack) (c : Fin 5) (s : State) : Host.Outcome State Fault Refusal :=
  run (fun m => match Tab.find (m.stack! st).pendReg c with
    | none => m
    | some rb => m.onStack st fun x => { x with
        pendReg := Tab.del x.pendReg c
        inForceRate := x.inForceRate.set c rb.1
        inForceBurst := x.inForceBurst.set c rb.2
        tokens := x.tokens.set c (min (x.tokens.getD c 0) (5120 * rb.2)) }) s

/-- A write of PAN_FLOOR: the floors of the residency engine, the collective engine, the vector engine and the host sum to
at most 32 (R330); a fenced core takes no write (R35). -/
def Mod.panFloor (m : Mod) (c v : Nat) : Mod :=
  let f := [fld v 0 6, fld v 8 6, fld v 16 6, fld v 24 6]
  let set := fun (p : Pantry) => if 32 < f.foldl (· + ·) 0 then { p with floorReject := true } else { p with floors := f }
  if (m.core! c).fenced then m else m.onCore c fun x => { x with pan := set x.pan }
def execPanFloorWrite (c : Core) (v : W32) (s : State) : Host.Outcome State Fault Refusal :=
  run (fun m => if m.reachable then m.panFloor c v.toNat else m) s

/-! ### Temperature (R309 to R311) -/

/-- The refresh code after a reading. -/
def refreshOf (r : Nat) (t : Int) : Nat :=
  let need := if 95 < t then 2 else if 85 < t then 1 else 0
  let back := if t ≤ 83 then 0 else if t ≤ 93 then 1 else 2
  max need (min r back)

/-- STACK_TEMP_READ. -/
def Mod.stackTemp (m : Mod) (st : Nat) (t : Int) : Mod :=
  let x := m.stack! st
  let r := refreshOf x.refresh t
  let m := m.onStack st fun x => { x with temp := t, refresh := r }
  let m := if r = x.refresh then m else m.ev 0x4022 0 [(0, 1, st), (2, 1, intByte t), (3, 1, r)]
  let m := if !x.hot && decide (105 < t) then
      let m := ((m.onStack st fun x => { x with hot := true }).ev 0x4020 0 [(0, 1, st), (2, 1, intByte t)]).async 3
      m.clearStack st
    else if x.hot && decide (t ≤ 100) then
      ((m.onStack st fun x => { x with hot := false }).ev 0x4021 0 [(0, 1, st), (2, 1, intByte t)]).pump
    else m
  if 110 ≤ t then m.thermTrip (st / 8) (some st) t else m
def execStackTempRead (st : Stack) (t : Int) (s : State) : Host.Outcome State Fault Refusal :=
  run (fun m => if m.alive then (m.stackTemp st t).drive else if 110 ≤ t then m.thermTrip (st / 8) (some st) t else m) s

/-! ### Errors of the stacks (R312 to R318) -/

/-- SCRUB (R317): what one scrub pass found, as (logical offset, bad symbols) and the offsets of bad sectors. The code corrects
no more than 4 symbols (R313). -/
def Mod.scrub (m : Mod) (opsec st : Nat) (corrected : List (Nat × Nat)) (bad : List Nat) : Mod :=
  let m := m.rollHour opsec
  let lim := (m.stack! st).active * 1610612736
  let m := (corrected.filter fun p => p.1 < lim).foldl (fun m p =>
    if p.2 ≤ 4 then m.sectorCorr st p.1 p.2 else m.sectorBad opsec st p.1) m
  (bad.filter fun p => p < lim).foldl (fun m p => m.sectorBad opsec st p) m

def execScrub (st : Stack) (corrected : List (Nat × Nat)) (bad : List Nat) (s : State) : Host.Outcome State Fault Refusal :=
  run (fun m => if m.alive then m.scrub s.evr.opsec st corrected bad else m) s
/-- CELLAR_UNCORRECTABLE (R314). -/
def execCellarUncorrectable (st : Stack) (off : Nat) (s : State) : Host.Outcome State Fault Refusal :=
  run (fun m => if m.alive then m.scrub s.evr.opsec st [] [off] else m) s

/-- PPR_LEFT: the hard repairs of manufacture less those used up, which nothing gives back. -/
def Mod.pprLeft (m : Mod) (st h : Nat) : Nat := (Config.pprLeft (32 * st + h)).toNat - Tab.get 0 m.nv.pprUsed (32 * st + h)
/-- ROW_REPAIRED (R317): one hard repair is used up; with none left the pseudo-channel is SUSPECT instead. -/
def Mod.rowRepaired (m : Mod) (st h row : Nat) : Mod :=
  let left := m.pprLeft st h
  if (Tab.get {} (m.stack! st).pc h).mapped then m
  else if left = 0 then m.suspect st h 1
  else
    { m with nv := { m.nv with pprUsed := Tab.upd 0 m.nv.pprUsed (32 * st + h) (· + 1) } }.ev 0x4030 1 [(0, 1, st), (1, 1, h), (2, 2, row), (4, 1, left - 1)]
def execRowRepaired (st : Stack) (pc : Pc) (row : BitVec 16) (s : State) : Host.Outcome State Fault Refusal :=
  run (fun m => if m.alive then m.rowRepaired st pc row.toNat else m) s

/-- CORRECTION_WINDOW_ROLL (R318). -/
def execCorrectionWindowRoll (s : State) : Host.Outcome State Fault Refusal := run (fun m => m.rollHour s.evr.opsec) s

/-- POISON_CONSUMED (R315, R316): a descriptor in flight reads a poisoned sector. Update units guard the element; any
other engine ends the step. -/
def Mod.poisonConsumed (m : Mod) (id sector obj tile : Nat) : Mod :=
  let h := m.handle obj
  match cores.findSome? fun c => m.infl? c id, m.objAny h with
  | some f, some o =>
    let pin := f.pins.find? fun p => p.1 = h && p.2.1 = tile
    let e := (m.extsOf h tile).find? fun e => match pin with | some p => meets e.home p.2.2 | none => false
    if pin.isNone || !o.poisonedIn (match e with | some e => e.home | none => 0) tile sector then m
    else
      let m := m.poisonRead f.job h tile sector e
      if dOp f.d = opUpdLayer then m.stepFlag f.job flagPoison else m.stopStep f.job stMemPoison 0
  | _, _ => m
def execPoisonConsumed (id : Nat) (sector : Fin 16384) (obj : BitVec 16) (tile : W32) (s : State) : Host.Outcome State Fault Refusal :=
  run (fun m => m.poisonConsumed id sector obj.toNat tile.toNat) s

/-! ### Re-hash (R319, R323) -/

/-- STACK_REHASH: at a step boundary of the module a drained stack holds no tile and its reserved area stands in another (R319,
steps 3 and 4). -/
def Mod.rehashBegin (m : Mod) (st : Nat) : Mod :=
  let x := m.stack! st
  let empty := !(m.res.ext ++ m.res.releasing).any (fun e => e.home = homeStack st) && !m.res.moves.any fun v => v.home = homeStack st
  if x.draining && !x.rehash && empty && m.allAtBoundary then
    let m := m.copyReserved st
    if (m.stack! st).reservedIn.isSome then m.onStack st fun x => { x with rehash := true } else m
  else m
def execStackRehash (st : Stack) (s : State) : Host.Outcome State Fault Refusal := run (fun m => m.rehashBegin st) s

/-- REHASH_DONE: every SUSPECT pseudo-channel is mapped out; a stack left with fewer than 16 is mapped out whole. -/
def Mod.rehashDone (m : Mod) (st : Nat) : Mod :=
  let x := m.stack! st
  if !x.rehash then m
  else
    let sus := (x.pc.filter fun (p : Nat × PcSt) => p.2.suspect && !p.2.mapped).map (·.1)
    let a := x.active - sus.length
    let whole := decide (a < 16)
    let m := { m with nv := { m.nv with mapOuts := m.nv.mapOuts ++ sus.map fun h => (st, h) } }
    let m := m.onStack st fun x => { x with
      rehash := false
      draining := false
      active := a
      out := whole
      reservedIn := if whole then x.reservedIn else none
      pc := x.pc.map fun (p : Nat × PcSt) => (p.1, if sus.contains p.1 then { p.2 with mapped := true, suspect := false } else p.2) }
    let m := if whole then m else
      let m := match x.reservedIn with | some i => (m.stackBytes i 3 areaBytes).stackBytes st 3 areaBytes | none => m
      { m with res := { m.res with area := m.res.area.filter fun e => e.tile ≠ st } }
    let m := sus.foldl (fun m h => m.ev 0x4032 0 [(0, 1, st), (1, 1, h), (2, 1, a), (3, 8, m.celCap)]) m
    let m := if whole then m.ev 0x4033 0 [(0, 1, st), (2, 8, m.celCap)] else m
    m.refreshPhase.pump.drive
def execRehashDone (st : Stack) (s : State) : Host.Outcome State Fault Refusal := run (fun m => m.rehashDone st) s

/-! ### Moves (R353 to R363) -/

/-- MOVE_COMMIT. -/
def execMoveCommit (obj : BitVec 16) (tile : W32) (s : State) : Host.Outcome State Fault Refusal :=
  run (fun m =>
    match m.res.moves.find? fun v => handleIdx v.req.obj = obj.toNat && decide (v.tile0 ≤ tile.toNat ∧ tile.toNat < v.tile0 + v.n) with
    | some v => ((m.commitMove v).settleHints).drive
    | none => m) s

/-- SOURCE_FRAME_RELEASE: the source of a committed move gives its frame back. -/
def execSourceFrameRelease (obj : BitVec 16) (tile : W32) (s : State) : Host.Outcome State Fault Refusal :=
  run (fun m =>
    match m.res.releasing.find? fun e => handleIdx e.obj = obj.toNat && decide (e.tile ≤ tile.toNat ∧ tile.toNat < e.tile + e.n) with
    | some e => { m with res := { m.res with releasing := m.res.releasing.erase e } }.pump.drive
    | none => m) s

/-- A home that exists and may be named: a Pantry of an unfenced core, a stack not mapped out, any stack, the Attic. -/
def Mod.homeOk (m : Mod) (d : Nat) : Bool :=
  (decide (d < 4) && !(m.core! d).fenced) || (decide (64 ≤ d ∧ d < 96) && !(m.stack! (d - 64)).out) || d = homeCellar || d = homeAttic

/-- AUTO_POLICY_MOVE: the policy asks to move an unpinned tile of a job in AUTO mode (R363). -/
def Mod.policyMove (m : Mod) (obj tile dest : Nat) : Mod :=
  let h := m.handle obj
  match m.obj? h with
  | none => m
  | some o =>
    if o.borrowed.isSome || m.directed o.job || decide (o.tiles ≤ tile) || !m.homeOk dest then m
    else m.request (tileReq h tile dest 6 0 o.job)
def execAutoPolicyMove (obj : BitVec 16) (tile : W32) (dest : Byte) (s : State) : Host.Outcome State Fault Refusal :=
  run (fun m => m.policyMove obj.toNat tile.toNat dest.toNat) s

/-- TILE_FAULT_TIMEOUT (R359): a tile fault has waited longer than 100 ms; the descriptors that wait for the tile leave. -/
def Mod.faultTimeout (m : Mod) (obj tile : Nat) : Mod :=
  match m.res.waiting.find? fun r => r.kind = 1 && handleIdx r.obj = obj && r.tile = tile && decide (r.since + 100000000 < m.now) with
  | none => m
  | some r =>
    let m := { m with res := { m.res with waiting := m.res.waiting.filter (· != r) } }
    let m := m.ev 0x5012 0 [(0, 1, r.dest), (1, 2, r.job), (4, 4, r.obj), (8, 4, r.tile), (12, 8, m.stepOf r.job)]
    let m := m.stopStep r.job stResExhausted 0
    (cores.foldl (fun m c => ((m.core! c).infl.filter fun f => f.pins.any fun p => p.1 = r.obj && p.2.1 = r.tile && !m.at? p.1 p.2.1 p.2.2).foldl
      (fun m f => m.abandon c f) m) m).drive
def execTileFaultTimeout (obj : BitVec 16) (tile : W32) (s : State) : Host.Outcome State Fault Refusal :=
  run (fun m => m.faultTimeout obj.toNat tile.toNat) s

/-! ### The Attic (R375 to R382) -/

def Mod.onBlk (m : Mod) (b : Nat) (f : EBlock → EBlock) : Mod := { m with attic := m.attic.onBlk b f }

/-- The closed log blocks that have the fewest live pages (R377): the one that block k belongs to is one of them. -/
def Attic.sparse (a : Attic) (k : Nat) : Option Nat :=
  match (a.blk k).use with
  | none => none
  | some n =>
    let closed := (a.log.map fun (p : Nat × List Nat) => p.1).filter fun i => i ≠ a.head / logTiles
    if closed.contains n && closed.all fun i => decide ((a.live n).length ≤ (a.live i).length) then some n else none

/-- ATTIC_GARBAGE_COLLECT (R377): the live tiles of the log block with the fewest are copied out, and its erase blocks are
erased. -/
def Mod.collect (m : Mod) (k : Nat) : Mod :=
  match m.attic.sparse k with
  | none => m
  | some n =>
    let m := m.relocate n
    let bs := (m.attic.blocks.filter fun (p : Nat × EBlock) => p.2.use = some n).map fun (p : Nat × EBlock) => p.1
    let m := bs.foldl (fun m b => m.onBlk b EBlock.erase) m
    { m with attic := { m.attic with log := Tab.del m.attic.log n } }
def execAtticGarbageCollect (block : Nat) (s : State) : Host.Outcome State Fault Refusal :=
  run (fun m => if m.alive && m.attic.accepting then m.collect block else m) s

/-- ATC_DISTURB (R379): at a read count of 50,000 the live tiles of a block's log block are relocated and the block is
erased. -/
def Mod.disturb (m : Mod) (ch block : Nat) : Mod :=
  let k := blkKey ch block
  let b := m.attic.blk k
  if b.reads < 50000 then m
  else
    let m := match b.use with | some n => m.relocate n | none => m
    ((m.onBlk k EBlock.erase).atcCnt 0x48 1).ev 0x5110 1 [(0, 1, ch), (4, 4, block)]
def execAtcDisturb (ch : Fin 16) (block : W32) (s : State) : Host.Outcome State Fault Refusal :=
  run (fun m => if m.alive && m.attic.accepting then m.disturb ch block.toNat else m) s

/-- The lowest erase count of the Attic's blocks, and the highest. -/
def Attic.wearRange (a : Attic) : Nat × Nat :=
  let es := (a.blocks.filter fun (p : Nat × EBlock) => !p.2.retired).map fun (p : Nat × EBlock) => p.2.erases
  (if a.blocks.length < 16 * chanBlocks then 0 else es.foldl min (es.headD 0), es.foldl max 0)

/-- ATC_WEAR_MOVE (R380): where the erase counts of the Attic differ by more than 500, the live tiles of the least-worn block
go to a log block that takes a worn free block on that channel; the emptied block is erased (log entry 70). -/
def Mod.wearMove (m : Mod) (src dst : Nat) : Mod :=
  let w := m.attic.wearRange
  let e := (m.attic.blk src).erases
  match (m.attic.blk src).use with
  | none => m
  | some n =>
    if w.2 ≤ w.1 + 500 || e ≠ w.1 || !(m.attic.blk dst).isFree || (m.attic.blk dst).erases ≤ e || dst % 16 ≠ src % 16 ||
        decide (16 * chanBlocks ≤ dst) then m
    else
      let m := { m with attic := m.attic.closeLog.openLog (some (dst % 16, dst / 16)) }
      let m := m.relocate n
      let m := { m with attic := m.attic.closeLog }
      (m.onBlk src EBlock.erase).ev 0x5111 0 [(0, 1, src % 16), (4, 4, src / 16), (8, 4, e)]
def execAtcWearMove (src dst : W32) (s : State) : Host.Outcome State Fault Refusal :=
  run (fun m => if m.alive && m.attic.accepting then m.wearMove src.toNat dst.toNat else m) s

/-- Every sector of a tile that parity cannot rebuild is poisoned, in its Attic copy (R381). -/
def Mod.loseTile (m : Mod) (h tile : Nat) : Mod :=
  (List.range 16384).foldl (fun m sec => m.poisonAt h tile homeAttic sec) m

/-- ATC_PAGE_UNCORRECTABLE (R381). -/
def Mod.pageBad (m : Mod) (ch block page : Nat) (rebuilt : Bool) (obj tile : Nat) : Mod :=
  if rebuilt then (m.atcCnt 0x40 1).ev 0x5120 1 [(0, 1, ch), (4, 4, block), (8, 2, page)]
  else
    let h := m.handle obj
    match m.objAny h with
    | none => m
    | some o =>
      if !m.at? h tile homeAttic then m
      else (m.loseTile h tile).ev 0x5124 0 [(0, 4, h), (4, 4, tile), (8, 2, o.job)]
def execAtcPageUncorrectable (ch : Fin 16) (block : W32) (page : BitVec 16) (rebuilt : Bool) (obj : BitVec 16) (tile : W32)
    (s : State) : Host.Outcome State Fault Refusal :=
  run (fun m => if m.alive then m.pageBad ch block.toNat page.toNat rebuilt obj.toNat tile.toNat else m) s

/-- Over-provisioning left, GiB: 6 TiB less the retired blocks (Table 10.16). -/
def Attic.spare (a : Attic) : Nat := (6291456 - a.retiredMib) / 1024

/-- The limits of R382. -/
def Mod.spareCheck (m : Mod) : Mod :=
  let g := m.attic.spare
  let m := { m with attic := { m.attic with spareGib := g } }
  let m := if decide (6291456 - m.attic.retiredMib < 2097152) && !m.attic.spareLow then
      { m with attic := { m.attic with spareLow := true } }.ev 0x5122 0 [(0, 2, g)] else m
  let m := if decide (6291456 - m.attic.retiredMib < 1048576) && !m.attic.readOnly then
      { m with attic := { m.attic with readOnly := true } }.ev 0x5123 0 [(0, 2, g)] else m
  m.refreshPhase

/-- ATC_BLOCK_RETIRED (R381). A log block of which one fails takes no more tiles. -/
def Mod.blockRetired (m : Mod) (ch block : Nat) : Mod :=
  if (Tab.get {} m.attic.blocks (blkKey ch block)).retired then m
  else
    let m := if (m.attic.blk (blkKey ch block)).use = some (m.attic.head / logTiles) then { m with attic := m.attic.closeLog } else m
    let m := m.onBlk (blkKey ch block) fun b => { b with retired := true }
    let m := { m with attic := { m.attic with retiredMib := m.attic.retiredMib + 16 } }.atcCnt 0x50 1
    (m.ev 0x5121 1 [(0, 1, ch), (4, 4, block), (8, 2, m.attic.spare)]).spareCheck
def execAtcBlockRetired (ch : Fin 16) (block : W32) (s : State) : Host.Outcome State Fault Refusal :=
  run (fun m => if m.alive then m.blockRetired ch block.toNat else m) s

/-- JOURNAL_FLUSH (R378): the journal buffer goes to NAND. -/
def execJournalFlush (s : State) : Host.Outcome State Fault Refusal :=
  run (fun m => if m.alive && m.attic.accepting then m.journalFlush else m) s

end Sys2Proof.Machine
end

