-- ==== Sys2Proof/Machine/Host.lean ====
section
/-! DEFINITION. The host interface (15): queues and doorbells, the checks of a command packet, fetching, interrupts, the
debug aperture, the counter controls of every block and the PCI Express events. -/
namespace Sys2Proof.Machine

/-! ### Command packets (R541, Tables 15.4, 15.6) -/

def pktOp (p : Packet) : Nat := byf p.toNat 0 1
def pktSigned (p : Packet) : Bool := bit p.toNat 8
def pktJob (p : Packet) : Nat := byf p.toNat 2 2 % 4096
def pktId (p : Packet) : Nat := byf p.toNat 4 4
/-- `n` parameter bytes of a packet from byte `off`. -/
def pkt (p : Packet) (off n : Nat) : Nat := byf p.toNat off n

def hostOps : List Nat := [0x01, 0x02, 0x08, 0x09, 0x10, 0x11, 0x12, 0x13, 0x14, 0x20, 0x21, 0x22, 0x28, 0x29, 0x30, 0x31,
  0x32, 0x38, 0x39, 0x40, 0x41, 0x48, 0x49, 0x50, 0x51, 0x52, 0x53, 0x58, 0x59, 0x5A, 0x5B, 0x5C, 0x60]
/-- Opcodes whose JOB column names a job (Table 15.6). -/
def jobOps : List Nat := [0x08, 0x09, 0x10, 0x11, 0x12, 0x13, 0x14, 0x20, 0x21, 0x22, 0x28, 0x29, 0x30, 0x31, 0x32]
def signedOps : List Nat := [0x53, 0x59, 0x5B]
/-- Opcodes accepted outside READY and DEGRADED (R544). -/
def anyStateOps : List Nat := [0x01, 0x50, 0x51, 0x52, 0x5A, 0x60]
/-- The module reads host memory for these commands (R530). -/
def readingOps : List Nat := [0x13, 0x20, 0x28, 0x29, 0x30, 0x32, 0x38, 0x53, 0x58, 0x59, 0x5A, 0x5B]

/-- The parameter bits an opcode names, as (byte, mask of the byte) (Tables 15.9 to 15.11). -/
def paramBytes (op : Nat) : List (Nat × Nat) :=
  let r := fun (a b : Nat) => (List.range (b + 1 - a)).map fun i => (a + i, 0xFF)
  match op with
  | 0x01 => r 16 23
  | 0x02 => r 16 16 ++ [(18, 0x3F)]
  | 0x08 => r 16 36 ++ [(37, 3)] ++ r 38 41 ++ r 44 47
  | 0x10 => [(16, 0x7F), (17, 3)] ++ r 20 27
  | 0x11 => r 16 19
  | 0x12 => r 16 29
  | 0x13 | 0x14 => r 16 20 ++ r 24 43
  | 0x20 => r 16 27 ++ [(28, 1)]
  | 0x21 => r 16 17 ++ r 24 31
  | 0x28 => [(16, 0xFF), (17, 0x3F)] ++ r 24 39
  | 0x29 => [(16, 0x3F)] ++ r 24 31
  | 0x30 => r 16 39
  | 0x31 => r 16 19 ++ [(20, 1)] ++ r 24 31
  | 0x32 => r 16 21 ++ [(22, 0x3F), (23, 3)] ++ r 24 41 ++ [(42, 0x0F), (44, 0xFF), (45, 0x0F)]
  | 0x38 => r 16 27 ++ r 32 39
  | 0x39 => r 16 19
  | 0x40 => r 16 20
  | 0x41 => r 16 19
  | 0x48 | 0x49 => [(16, 3)]
  | 0x50 => r 16 31 ++ [(32, 1)]
  | 0x58 => r 16 31 ++ [(32, 1)]
  | 0x59 => r 16 19
  | 0x5A => r 16 27 ++ r 32 43
  | 0x5B => r 16 19
  | 0x5C => [(16, 3), (17, 0x3F)] ++ r 20 23
  | _ => []

/-- Range checks of an opcode's parameters, as (offset of the field, it is in range). -/
def paramRanges (p : Packet) : List (Nat × Bool) :=
  let f := pkt p
  match pktOp p with
  | 0x08 =>
    let clip := f 32 4
    let z := sx 8 (f 36 1)
    [(32, decide (clip ≤ 0x7F800000 ∨ clip = 0x80000000)), (36, decide (-64 ≤ z ∧ z ≤ 63)), (44, decide (f 44 4 ≤ 1048576))]
  | 0x10 =>
    let fmt := f 16 1 % 16
    [(16, decide (fmt ≤ 11) && (!bit (f 16 1) 4 || decide (5 ≤ fmt ∧ fmt ≤ 7)) && decide (fld (f 16 1) 5 2 ≤ 1)),
      (17, decide (fld (f 16 1) 5 2 = 1 ∨ f 17 1 = 0)),
      (20, decide (1 ≤ f 20 4 ∧ f 20 4 ≤ 16777216)), (24, decide (1 ≤ f 24 4 ∧ f 24 4 ≤ 16777216))]
  | 0x12 =>
    let arg := f 29 1
    [(24, decide (f 20 4 ≤ f 24 4)), (28, decide (f 28 1 ≤ 5)),
      (29, match f 28 1 with
        | 1 => decide (arg ≤ 3)
        | 2 => decide ((64 ≤ arg ∧ arg ≤ 95) ∨ arg = 127)
        | 3 => arg = 128
        | 4 => decide (arg ≤ 3)
        | _ => true)]
  | 0x13 | 0x14 => [(20, decide (f 20 1 ≤ 2)), (28, decide (f 24 4 ≤ f 28 4))]
  | 0x20 => [(24, decide (f 24 4 ≤ 2 ^ 30))]
  | 0x21 => [(16, f 16 2 ≠ 0)]
  | 0x28 => [(24, decide (f 28 4 = 0))]
  | 0x30 => [(24, decide (f 24 4 ≤ 65535)), (28, decide (f 28 2 < 16384)), (30, decide (f 30 2 < 16384))]
  | 0x32 => [(16, decide (f 16 2 < 16384)), (18, decide (f 16 2 ≤ f 18 2 ∧ f 18 2 < 16384)), (20, decide (f 20 1 ≤ 1)),
      (21, decide (f 20 1 = 0 ∨ (1 ≤ f 21 1 ∧ f 21 1 ≤ 7))), (22, decide (f 20 1 = 0 ∨ f 22 1 < 48))]
  | 0x39 => [(16, decide (1 ≤ f 16 4 ∧ f 16 4 ≤ 60000))]
  | 0x40 =>
    let ok := fun (o : Nat) (may : Bool) => (o, decide (f o 1 = 0xFF) || (may && decide (f o 1 ≤ 7)))
    [ok 16 (pktJob p ≠ 0), ok 17 (pktJob p ≠ 0), ok 18 (pktJob p ≠ 0), ok 19 (pktJob p ≠ 0), ok 20 (pktJob p = 0)]
  | 0x41 => [(16, decide (1500 ≤ f 16 4 ∧ f 16 4 ≤ 3000))]
  | 0x5B => [(16, decide (1 ≤ f 16 4 ∧ f 16 4 ≤ 86400))]
  | 0x5C => [(17, decide (f 17 1 < 48))]
  | _ => []

/-- The offset of the field that a parameter byte belongs to, where the field begins before the byte (Tables 15.9 to 15.11). -/
def fieldStart (op a : Nat) : Nat :=
  match op with
  | 0x02 => if a = 19 then 18 else a
  | 0x28 => if a = 17 then 16 else a
  | 0x32 => if 40 ≤ a ∧ a ≤ 43 then 40 else if a = 45 then 44 else a
  | _ => a

/-- The offset of the first offending field of a packet (R542, R546). -/
def badField (p : Packet) : Option Nat :=
  let op := pktOp p
  let named := paramBytes op
  let rsv := (List.range 112).filterMap fun i =>
    let a := i + 16
    let allow := match named.find? fun n => n.1 = a with | some n => n.2 | none => 0
    if byf p.toNat a 1 &&& (0xFF - allow) = 0 then none else some (fieldStart op a)
  let job := if jobOps.contains op then pktJob p ≠ 0 else op = 0x40 || pktJob p = 0
  let hdr := (if fld p.toNat 9 7 = 0 then [] else [1]) ++ (if fld p.toNat 28 4 = 0 && job then [] else [2]) ++
    (if pktSigned p || pkt p 8 8 = 0 then [] else [8])
  let rng := (paramRanges p).filterMap fun r => if r.2 then none else some r.1
  (hdr ++ rsv ++ rng).foldl (fun (b : Option Nat) a => match b with | none => some a | some x => some (min x a)) none

/-- The checks of R542 but the signature's own, as (status, detail) of the first failure. -/
def Mod.checkPkt (m : Mod) (p : Packet) : Option (Nat × Nat) :=
  let op := pktOp p
  if !hostOps.contains op then some (stInvalidOpcode, 0)
  else if !m.serving && !anyStateOps.contains op then some (stDeviceState, m.phase.code)
  else if pktSigned p ≠ signedOps.contains op then some (stSignature, 0)
  else match badField p with
    | some a => some (stInvalidField, a)
    | none =>
      if pktJob p ≠ 0 && op ≠ 0x08 && (m.job? (pktJob p)).isNone then some (stJobNotOpen, 0) else none

/-! ### Taking a command -/

/-- The packet is the queue's command in flight, not yet acted on, and no command of the same job started earlier still
waits to act (R535); OBJ_READ changes no state and holds back nothing. A JOB_CLOSE that waits goes first (R552). -/
def Mod.takes (m : Mod) (op q : Nat) (p : Packet) : Bool :=
  match (m.q! q).cmd with
  | none => false
  | some c => c.pkt = p && !c.acting && pktOp p = op && ((m.job? (pktJob p)).bind (·.closing)).isNone &&
    (pktJob p = 0 || !m.hif.q.any fun (x : Nat × Qp) => match x.2.cmd with
      | some d => !d.acting && pktJob d.pkt = pktJob p && pktOp d.pkt ≠ 0x14 && decide (d.order < c.order)
      | none => false)

/-- A host command acts: it passes the checks of R542 and takes effect, or completes with the first failure. -/
def Mod.command (m : Mod) (op q : Nat) (p : Packet) (f : Mod → Mod) : Mod :=
  if !m.takes op q p then m
  else match m.checkPkt p with
    | some (st, d) => m.reply q (pktId p) st d
    | none => f m

/-- The command acts on: it holds its queue until it completes (R534). -/
def Mod.hold (m : Mod) (q : Nat) : Mod := m.onQ q fun x => { x with cmd := x.cmd.map fun c => { c with acting := true } }

/-! ### Queues and doorbells (R531 to R537) -/

/-- A queue stops: ERR, event 0x9001 (R536). -/
def Mod.queueError (m : Mod) (q cause value : Nat) : Mod :=
  ((m.onQ q fun x => { x with err := true, halted := true }).ev 0x9001 0 [(0, 1, q), (1, 1, cause), (2, 2, value)]).async 5

/-- A submission queue's tail moves from its old value up to `v`, modulo the size; it may not come to the head. -/
def Mod.sqDoorbell (m : Mod) (q v : Nat) : Mod :=
  let x := m.q! q
  let n := x.size + 1
  let v := v % 4096
  if !x.en || x.halted then m
  else if n ≤ v then m.queueError q 1 v
  else if v ≠ x.sqTail ∧ (v + n - x.sqHead) % n ≤ (x.sqTail + n - x.sqHead) % n then m.queueError q 2 v
  else m.onQ q fun x => { x with sqTail := v }
def execSqTailDoorbell (q : Queue) (v : W32) (s : State) : Host.Outcome State Fault Refusal :=
  run (fun m => if m.reachable then m.sqDoorbell q v.toNat else m) s

def Mod.cqDoorbell (m : Mod) (q v : Nat) : Mod :=
  let x := m.q! q
  let v := v % 4096
  if !x.en then m
  else if x.size < v then (if x.halted then m else m.queueError q 1 v)
  else m.onQ q fun x => { x with cqHead := v }
def execCqHeadDoorbell (q : Queue) (v : W32) (s : State) : Host.Outcome State Fault Refusal :=
  run (fun m => if m.reachable then m.cqDoorbell q v.toNat else m) s

/-- A write of HIF_QCFG to the selected queue (R531, R537): configuration takes effect only while EN is 0 and no command
of the queue runs; EN = 1 starts it with head and tail at 0. -/
def Mod.writeQcfg (m : Mod) (v : Nat) : Mod :=
  let q := m.hif.qsel
  let x := m.q! q
  if x.en then
    if bit v 31 then m else m.onQ q fun x => { x with en := false, stopping := x.cmd.isSome }
  else if x.cmd.isSome then m
  else
    let x := { x with coalCount := fld v 24 7, vector := fld v 16 8, coalTime := fld v 12 4, size := fld v 0 12 }
    if !bit v 31 then m.onQ q fun _ => x
    else if x.sqBase % 4096 ≠ 0 ∨ x.cqBase % 4096 ≠ 0 ∨ x.size < 1 then m.onQ q fun _ => { x with cfgErr := true }
    else m.onQ q fun _ => { x with
      en := true
      halted := false
      sqHead := 0
      sqTail := 0
      cqHead := 0
      cqTail := 0
      phase := true
      unsig := 0
      unsigFrom := 0 }
def execQueueEnable (v : W32) (s : State) : Host.Outcome State Fault Refusal :=
  run (fun m => if m.reachable && bit v.toNat 31 then m.writeQcfg v.toNat else m) s
def execQueueDisable (v : W32) (s : State) : Host.Outcome State Fault Refusal :=
  run (fun m => if m.reachable && !bit v.toNat 31 then m.writeQcfg v.toNat else m) s

/-- The firmware runs and fetches commands: from MEM_INIT on, while the PCI Express link is up (R619). -/
def Mod.fetching (m : Mod) : Bool := m.hif.linkUp && m.alive

def Mod.signedRuns (m : Mod) : Bool :=
  m.hif.q.any fun (x : Nat × Qp) => match x.2.cmd with | some c => pktSigned c.pkt | none => false

def Mod.nextPkt (m : Mod) (mem : List Host.Cell) (q : Nat) : Packet :=
  BitVec.ofNat 1024 (Memory.readN mem ((m.q! q).sqBase + 128 * (m.q! q).sqHead) 128)

/-- A command of queue q may start (R534, R634): one waits, none runs, a completion slot is free. -/
def Mod.mayStart (m : Mod) (mem : List Host.Cell) (q : Nat) : Bool :=
  let x := m.q! q
  x.en && !x.halted && x.cmd.isNone && x.sqHead ≠ x.sqTail && (x.cqTail + 1) % (x.size + 1) ≠ x.cqHead &&
    !(m.signedRuns && pktSigned (m.nextPkt mem q))

/-- The next queue in round-robin order. -/
def Mod.nextQueue (m : Mod) (mem : List Host.Cell) : Option Nat :=
  ((List.range 64).map fun i => (m.hif.rr + i) % 64).find? fun q => m.mayStart mem q

/-- COMMAND_START: fetches the entry; an unknown opcode completes at once. -/
def Mod.commandStart (mem : List Host.Cell) (m : Mod) : Mod :=
  if !m.fetching then m
  else match m.nextQueue mem with
    | none => m
    | some q =>
      let p := m.nextPkt mem q
      let m := { m with
        hif := { m.hif with rr := (q + 1) % 64 }
        orders := m.orders + 1 }
      let m := m.onQ q fun x => { x with
        sqHead := (x.sqHead + 1) % (x.size + 1)
        cmd := some { pkt := p, order := m.orders } }
      if hostOps.contains (pktOp p) then m else m.reply q (pktId p) stInvalidOpcode
def execCommandStart (s : State) : Host.Outcome State Fault Refusal := runH Mod.commandStart s

/-- A new command nonce is drawn (R633). -/
def Mod.renewNonce (m : Mod) : Mod :=
  { m with sec := { m.sec with nonceGen := (m.sec.nonceGen + 1) % 2 ^ 32 }, nv := { m.nv with draws := m.nv.draws + 1 } }

def dmaCode : DmaError → Nat
  | .ur => 1 | .ca => 2 | .poisoned => 3 | .noCompletion => 4

/-- A command under way goes on reading host memory: a link export its table of destinations, until its last layer is read. -/
def Mod.exportReads (m : Mod) (p : Packet) : Bool :=
  pktOp p = 0x32 && match (m.job? (pktJob p)).bind (·.snap) with
    | some x => x.link && x.status = 0 && !(x.captured.isSome && x.unread.isEmpty)
    | none => false

/-- A command that has not acted reads host memory: a signed one its signature, once its opcode, the module's state and SIGNED are as
they must be, before its fields are checked (R542, R543); another, where its checks pass. -/
def Mod.readsHost (m : Mod) (p : Packet) : Bool :=
  let op := pktOp p
  if signedOps.contains op then pktSigned p && (m.serving || anyStateOps.contains op)
  else readingOps.contains op && (m.checkPkt p).isNone

/-- HOST_DMA_ERROR (R530, R536): a failed fetch stops the queue; a failed read fails its command, an export under way at its
SNAPSHOT_DONE. A signed command's end renews the nonce (R633). -/
def Mod.dmaError (mem : List Host.Cell) (m : Mod) (q : Nat) (fetch : Bool) (addr : Nat) (kind : DmaError) : Mod :=
  if fetch then
    if m.fetching && m.nextQueue mem = some q then m.queueError q 3 (m.q! q).sqTail else m
  else match (m.q! q).cmd with
    | none => m
    | some c =>
      let seen := m.ev 0x9002 0 [(0, 1, q), (1, 1, pktOp c.pkt), (2, 8, addr), (10, 1, dmaCode kind)]
      if c.acting then
        if m.exportReads c.pkt then
          seen.onJob (pktJob c.pkt) fun j => { j with snap := j.snap.map fun x => { x with status := stHostAccess } }
        else m
      else if !m.readsHost c.pkt then m
      else
        let m := seen
        let m := if pktSigned c.pkt then m.renewNonce else m
        m.reply q (pktId c.pkt) stHostAccess
def execHostDmaError (q : Queue) (fetch : Bool) (addr : W64) (kind : DmaError) (s : State) : Host.Outcome State Fault Refusal :=
  runH (fun mem m => m.dmaError mem q fetch addr.toNat kind) s

/-- INTERRUPT_COALESCE_TIMEOUT (R538). -/
def Mod.coalesce (m : Mod) (q : Nat) : Mod :=
  let x := m.q! q
  if x.unsig = 0 ∨ m.now < x.unsigFrom + 1000 * x.coalTime then m
  else
    let m := m.onQ q fun x => { x with unsig := 0 }
    { m with hif := { m.hif with msix := x.vector :: m.hif.msix } }
def execInterruptCoalesceTimeout (q : Queue) (s : State) : Host.Outcome State Fault Refusal := run (fun m => m.coalesce q) s

/-! ### DEV_CONFIG (R540) -/

def Mod.devConfig (m : Mod) (q : Nat) (p : Packet) : Mod :=
  { m with hif := { m.hif with asyncVec := pkt p 16 1, asyncMask := pkt p 18 2 } }.reply q (pktId p) stOK
def execDevConfig (q : Queue) (p : Packet) (s : State) : Host.Outcome State Fault Refusal :=
  run (fun m => m.command 0x02 q p fun m => m.devConfig q p) s

/-! ### The debug aperture (R297, R529) -/

/-- The logical space that the aperture reaches at Cellar physical address a. -/
def Mod.apertureHas (m : Mod) (a : Nat) : Bool :=
  let st := a / 2 ^ 36 % 32
  !(m.stack! st).out && decide (a % 2 ^ 36 < (m.stack! st).active * 1610612736)

/-- Frames the aperture never writes: each stack's first 256, and those that serve a mapped-out stack's (R323). -/
def Mod.reservedAt (m : Mod) (st frame : Nat) : Bool :=
  decide (frame < 256) || m.res.area.any fun e => e.home = homeStack st && decide (e.frame ≤ frame ∧ frame < e.frame + e.n)

/-- The byte at a Cellar physical address: 256 stands for poison; `i` tells free values apart. -/
def Mod.apertureByte (m : Mod) (a i : Nat) : Nat :=
  let st := a / 2 ^ 36 % 32
  let off := a % 2 ^ 36
  if !m.apertureHas a then 0
  else match m.tileAtFrame (homeStack st) (off / 1048576) with
    | some (h, t) =>
      match m.objAny h with
      | some o => if o.poisonedIn (homeStack st) t (off % 1048576 / 64) then 256 else byf (o.rowBits t (off / 1024 % 1024)) (off % 1024) 1
      | none => (Config.freeValue (m.free + i)).toNat % 256
    | none => match Tab.find m.cel.freeWrites a with
      | some b => b
      | none => (Config.freeValue (m.free + i)).toNat % 256

/-- Writes `n` bytes within one sector. -/
def Mod.apertureWrite (m : Mod) (a n v : Nat) : Mod :=
  let st := a / 2 ^ 36 % 32
  let off := a % 2 ^ 36
  if !m.apertureHas a || m.reservedAt st (off / 1048576) then m
  else
    let m := m.stackBytes st 4 n
    match m.tileAtFrame (homeStack st) (off / 1048576) with
    | some (h, t) => m.onObj h fun o => o.setTileBytes t (off % 1048576) n v
    | none =>
      if n < 64 && Tab.find m.cel.freeWrites a = some 256 then m
      else
        let fw := (List.range n).foldl (fun (t : Tab Nat) i => Tab.put t (a + i) (byf v i 1)) m.cel.freeWrites
        { m with cel := { m.cel with freeWrites := fw } }

/-- The pieces of n bytes from a, none crossing a sector. -/
def sectorPieces : Nat → Nat → Nat → List (Nat × Nat)
  | 0, _, _ => []
  | fuel + 1, a, n => if n = 0 then [] else
    let k := min n (64 - a % 64)
    (a, k) :: sectorPieces fuel (a + k) (n - k)

/-- DEBUG_APERTURE_ACCESS: `w` a written value, none a read; a read's data goes to the host. -/
def Mod.aperture (m : Mod) (off size : Nat) (w : Option Nat) : Mod :=
  let base := m.hif.dbgBase * 2 ^ 32 + off
  match w with
  | some v => if !m.dbgOpen then m
    else (sectorPieces (size + 1) base size).foldl (fun m p => m.apertureWrite p.1 p.2 (v / 2 ^ (8 * (p.1 - base)))) m
  | none =>
    if !m.dbgOpen then { m with hif := { m.hif with aperture := some 0 :: m.hif.aperture } }
    else
      let bs := (List.range size).map fun i => m.apertureByte (base + i) i
      let m := (sectorPieces (size + 1) base size).foldl (fun m p =>
        if m.apertureHas p.1 then m.stackBytes (p.1 / 2 ^ 36 % 32) 4 p.2 else m) { m with free := m.free + size + 1 }
      if bs.contains 256 then
        let st := (Config.freeValue (m.free - 1)).toNat % 2 ^ 32
        { m with hif := { m.hif with aperture := none :: m.hif.aperture, aer := st :: m.hif.aer } }.ev 0x9004 0 [(0, 4, st)]
      else
        { m with hif := { m.hif with aperture := some (bs.foldr (fun b a => b + 256 * a) 0) :: m.hif.aperture } }
def execDebugApertureAccess (off : W32) (size : Nat) (w : Option Nat) (s : State) : Host.Outcome State Fault Refusal :=
  run (fun m => if m.reachable then m.aperture off.toNat size w else m) s

/-! ### PCI Express events (Table 15.27) -/

def execPcieAerError (correctable : Bool) (status : W32) (s : State) : Host.Outcome State Fault Refusal :=
  run (fun m => if !m.reachable then m else
    { m with hif := { m.hif with aer := status.toNat :: m.hif.aer } }.ev
      (if correctable then 0x9003 else 0x9004) (b2n correctable) [(0, 4, status.toNat)]) s
/-- The link trains narrower than eight lanes or slower than 128 GT/s (`rate` in tenths of GT/s). -/
def execPcieDegraded (width rate : Nat) (s : State) : Host.Outcome State Fault Refusal :=
  run (fun m =>
    if !m.reachable || !(([1, 2, 4, 8] : List Nat).contains width && ([1280, 640, 320, 160, 80, 50, 25] : List Nat).contains rate) ||
        (width = 8 && rate = 1280) then m
    else { m with hif := { m.hif with width := width, rate := rate } }.ev 0x9005 0 [(0, 1, width), (1, 2, rate)]) s
def execIdeError (status : W32) (s : State) : Host.Outcome State Fault Refusal :=
  run (fun m => if m.reachable then m.ev 0x9006 0 [(0, 4, status.toNat)] else m) s

/-! ### Counter controls (R99 and the CNT_CTRL register of each block) -/

/-- A core window whose core is fenced ignores writes (R35). -/
def Mod.windowOpen (m : Mod) (c : Nat) : Bool := !(m.core! c).fenced

/-- A write of a block's CNT_CTRL. -/
def Mod.cntCtrl (m : Mod) (b : CntBlk) (clear freeze : Bool) : Mod :=
  let core := fun (c : Nat) (f : CoreSt → CoreSt) => if m.windowOpen c then m.onCore c f else m
  match b with
  | .arr c a => if m.windowOpen c then m.onArr c a fun x => { x with cnt := x.cnt.ctrl clear freeze } else m
  | .vec c => core c fun x => { x with vecCnt := x.vecCnt.ctrl clear freeze }
  | .syn c => core c fun x => { x with synCnt := x.synCnt.ctrl clear freeze }
  | .pan c => core c fun x => { x with pan := { x.pan with cnt := x.pan.cnt.ctrl clear freeze } }
  | .upd =>
    let us := if clear then m.upd.units.map fun (p : Nat × UnitSt) => (p.1, { p.2 with c := [] }) else m.upd.units
    { m with upd := { m.upd with freeze := freeze, units := us } }
  | .cel =>
    let zero := fun (x : StackSt) => { x with
      c := []
      pc := x.pc.map fun (q : Nat × PcSt) => (q.1, { q.2 with corr := 0, poison := 0 }) }
    let st := if clear then m.cel.st.map fun (p : Nat × StackSt) => (p.1, zero p.2) else m.cel.st
    { m with cel := { m.cel with freeze := freeze, st := st } }
  | .res => { m with res := { m.res with cnt := m.res.cnt.ctrl clear freeze } }
  | .atc => { m with attic := { m.attic with cnt := m.attic.cnt.ctrl clear freeze } }
  | .lnk =>
    let ps := if clear then m.lnk.ports.map fun (p : Nat × PortSt) => (p.1, { p.2 with c := [] }) else m.lnk.ports
    { m with lnk := { m.lnk with cnt := m.lnk.cnt.ctrl clear freeze, ports := ps } }
  | .col => { m with col := { m.col with cnt := m.col.cnt.ctrl clear freeze } }
  | .pwr => { m with pwr := { m.pwr with cnt := m.pwr.cnt.ctrl clear freeze } }
def execCntClear (b : CntBlk) (freeze : Bool) (s : State) : Host.Outcome State Fault Refusal :=
  run (fun m => if m.reachable then m.cntCtrl b true freeze else m) s
def execCntFreeze (b : CntBlk) (freeze : Bool) (s : State) : Host.Outcome State Fault Refusal :=
  run (fun m => if m.reachable then m.cntCtrl b false freeze else m) s

end Sys2Proof.Machine
end

