-- ==== Sys2Proof/Machine/Jobs.lean ====
section
/-! DEFINITION. JOB_OPEN and JOB_CLOSE (R547 to R549, R672) and the object commands (R335 to R339, R365, R556, R559). -/
namespace Sys2Proof.Machine

/-! ### The job's energy reading (R549, R672) -/

/-- The held frame in the instant a command takes effect: event 0xC010, or 0xC011 while VALID reads 0. -/
def Mod.reading (m : Mod) (job close : Nat) : Mod × Nat :=
  match (if m.met.valid then m.met.held else none) with
  | some f => (m.ev 0xC010 0 [(0, 2, job), (2, 1, close), (3, 8, f.energy.toNat), (11, 8, f.frame.toNat), (19, 8, m.met.heldAt)],
      f.energy.toNat)
  | none => (m.ev 0xC011 0 [(0, 2, job), (2, 1, close)], 2 ^ 64 - 1)

/-! ### Creating objects -/

/-- Frames that objects may still take: those of every eligible stack and of the Attic. -/
def Mod.freeRoom (m : Mod) : Nat :=
  m.eligible.foldl (fun a s => a + m.freeFrames (homeStack s)) 0 + (if m.accepts homeAttic then m.freeFrames homeAttic else 0)

/-- What creating an object answers: its handle, or the status of its refusal. A borrowed object needs a core that is neither
fenced nor being fenced (R556). -/
def Mod.create (m : Mod) (o : Obj) : Except Nat (Mod × Nat) :=
  if (match o.borrowed with | some c => !(m.liveCores.contains c) | none => false) then .error stCoreState
  else match m.addObj o with
  | none => .error stObjTableFull
  | some (m', h) =>
    match o.borrowed with
    | some c =>
      if m.freeFrames c + (m.victims c false).length < o.tiles then .error stNoSpace
      else match m'.placeBorrowed h c o.allTiles with
        | some m => .ok (m, h)
        | none => .error stNoSpace
    | none =>
      if m.freeRoom < o.tiles then .error stNoSpace
      else match m'.placeTiles h o.allTiles with
        | some m => .ok (m, h)
        | none => .error stNoSpace

/-! ### JOB_OPEN (R548) -/

def dflt (d v : Nat) : Nat := if v = 0 then d else v

def jobOfPkt (p : Packet) : Job :=
  { seed := pkt p 16 8, step := pkt p 24 8, clipNorm := pkt p 32 4, z := sx 8 (pkt p 36 1), directed := bit (pkt p 37 1) 0,
    paceMatch := bit (pkt p 37 1) 1, paceK := dflt 2 (pkt p 38 1), paceHold := dflt 8 (pkt p 39 1), paceThresh := dflt 20 (pkt p 40 2) }

/-- The histogram log: an INT8 object of HIST_RECORDS rows and 576 columns. -/
def Mod.makeLog (m : Mod) (job records : Nat) : Except Nat (Mod × Nat) :=
  if records = 0 then .ok (m, 0) else m.create { job := job, fmt := 8, rows := records, cols := 576 }

def Mod.jobOpen (m : Mod) (q : Nat) (p : Packet) : Mod :=
  let job := pktJob p
  if (m.job? job).isSome then m.reply q (pktId p) stJobExists
  else if 16 ≤ m.jobs.length then m.reply q (pktId p) stJobTableFull
  else
    let m1 := { m with jobs := Tab.put m.jobs job (jobOfPkt p) }
    match m1.makeLog job (pkt p 44 4) with
    | .error st => m.reply q (pktId p) st
    | .ok (m2, h) =>
      let r := (m2.onJob job fun j => { j with log := h }).reading job 0
      r.1.power.reply q (pktId p) stOK 0 [(16, 4, h), (24, 8, r.2)]
def execJobOpen (q : Queue) (p : Packet) (s : State) : Host.Outcome State Fault Refusal :=
  run (fun m => m.command 0x08 q p fun m => m.jobOpen q p) s

/-! ### Closing a job (R339, R370, R389, R443, R560) -/

/-- Unbinds all that is bound to the job: layers, schedules, recipes, sync objects, barriers, groups, contexts, streams. -/
def Mod.unbind (m : Mod) (job : Nat) : Mod :=
  let m := (m.layersOf job).foldl (fun m l => [0, 1, 2].foldl (fun m c => m.resetWin l c) m) m
  let m := (m.col.ctx.filter fun x => x.job = job).foldl (fun m x => m.closeCtx x.key) m
  let m := cores.foldl (fun m c => m.onCore c fun x => { x with
    recipes := x.recipes.filter fun r => r.job ≠ job
    sync := x.sync.filter fun (p : Nat × SyncObj) => p.2.job ≠ job
    bars := x.bars.filter fun (p : Nat × Bar) => p.2.job ≠ job }) m
  { m with
    upd := { m.upd with
      layers := m.upd.layers.filter fun (p : Nat × Layer) => p.2.owner ≠ job
      scheds := m.upd.scheds.filter fun (p : Nat × Sched) => p.2.owner ≠ job }
    col := { m.col with
      groups := m.col.groups.filter fun (p : Nat × Group) => p.2.job ≠ job
      ctx := m.col.ctx.filter fun x => x.job ≠ job
      mbar := m.col.mbar.filter fun (p : Nat × Bar) => p.2.job ≠ job }
    lnk := { m.lnk with
      tx := m.lnk.tx.filter fun (p : Nat × TxStream) => p.1 / 8 % 4096 ≠ job
      rx := m.lnk.rx.filter fun (p : Nat × RxStream) => p.1 / 8 % 4096 ≠ job
      formed := m.lnk.formed.filter fun p => p.job ≠ job
      parked := m.lnk.parked.filter fun p => p.job ≠ job } }

/-- Frees the job's objects but its images, which then belong to no job. -/
def Mod.freeJobObjs (m : Mod) (job : Nat) : Mod :=
  let m := (m.res.objs.filter fun (p : Nat × Obj) => p.2.job = job && !p.2.image && (m.obj? p.1).isSome).foldl
    (fun m (p : Nat × Obj) => m.freeObj p.1) m
  let m := m.mapObjs job fun o => if o.image then { o with job := 0 } else o
  { m with images := m.images.map fun x => if x.job = job then { x with job := 0 } else x }

/-- Frames that last held a tile of the job are zeroed before any job's tile takes them, one opened under the same number
among them (R301, R328): no job has number 4,096. -/
def Mod.disownFrames (m : Mod) (job : Nat) : Mod :=
  { m with res := { m.res with
      held := mergeExt ((m.res.held.map fun e => if e.obj = job then { e with obj := 4096 } else e).foldr insExt []) } }

def Mod.closeJob (m : Mod) (job : Nat) : Mod :=
  let m := ((m.unbind job).freeJobObjs job).disownFrames job
  { m with jobs := Tab.del m.jobs job }.power

/-- JOB_CLOSE takes effect and completes. -/
def Mod.closeNow (m : Mod) (q cmdId job : Nat) : Mod :=
  let step := m.stepOf job
  let r := m.reading job 1
  ((r.1.closeJob job).drive.reply q cmdId stOK 0 [(16, 8, step), (24, 8, r.2)]).settleHints

/-- A job on which nothing runs any more: no list, refresh lists included, and no export or checkpoint (R552). -/
def Mod.mayClose (m : Mod) (job : Nat) : Bool :=
  m.atBoundary job && (match m.job? job with | some j => j.ckpt.isNone && j.snap.isNone | none => true)

def Mod.jobClose (m : Mod) (q : Nat) (p : Packet) : Mod :=
  let job := pktJob p
  if (m.run? job).isSome then m.reply q (pktId p) stStepBusy
  else if m.mayClose job then m.closeNow q (pktId p) job
  else (m.onJob job fun j => { j with closing := some (q, pktId p) }).hold q
def execJobClose (q : Queue) (p : Packet) (s : State) : Host.Outcome State Fault Refusal :=
  run (fun m => m.command 0x09 q p fun m => m.jobClose q p) s

/-- A waiting JOB_CLOSE closes the job once what it waits for is over (R552). -/
def Mod.closeIfDue (m : Mod) (job : Nat) : Mod :=
  match (m.job? job).bind (·.closing) with
  | some (q, cmdId) => if m.mayClose job then m.closeNow q cmdId job else m
  | none => m

/-! ### OBJ_CREATE and OBJ_FREE (R337, R339, R556) -/

def objOfPkt (p : Packet) : Obj :=
  { job := pktJob p, fmt := pkt p 16 1 % 16, axis := b2n (bit (pkt p 16 1) 4), rows := pkt p 20 4, cols := pkt p 24 4,
    borrowed := if fld (pkt p 16 1) 5 2 = 1 then some (pkt p 17 1 % 4) else none }

def Mod.objCreate (m : Mod) (q : Nat) (p : Packet) : Mod :=
  match m.create (objOfPkt p) with
  | .error st => m.reply q (pktId p) st
  | .ok (m, h) => m.reply q (pktId p) stOK 0 [(16, 4, h)]
def execObjCreate (q : Queue) (p : Packet) (s : State) : Host.Outcome State Fault Refusal :=
  run (fun m => m.command 0x10 q p fun m => m.objCreate q p) s

def Mod.objFree (m : Mod) (q : Nat) (p : Packet) : Mod :=
  match m.obj? (pkt p 16 4) with
  | some o =>
    if o.job = pktJob p ∨ (o.image ∧ o.job = 0) then ((m.freeObj (pkt p 16 4)).drive.reply q (pktId p) stOK).settleHints
    else m.reply q (pktId p) stInvalidHandle 16
  | none => m.reply q (pktId p) stInvalidHandle 16
def execObjFree (q : Queue) (p : Packet) (s : State) : Host.Outcome State Fault Refusal :=
  run (fun m => m.command 0x11 q p fun m => m.objFree q p) s

/-! ### OBJ_HINT (R365, R366, Table 10.4) -/

def Mod.onHint (m : Mod) (h t : Nat) (f : Hint → Hint) : Mod :=
  { m with res := { m.res with hints := Tab.upd {} m.res.hints (tileKey h t) f } }

/-- Requests a tile of an object for a hint: `kind` is its row of Table 10.3. A borrowed object's tiles never move. -/
def Mod.hintMove (m : Mod) (o : Obj) (h t dest kind : Nat) : Mod :=
  if o.borrowed.isSome then m
  else m.request { obj := h, tile := t, dest := dest, seq := 0, kind := kind, core := 0, job := o.job, since := 0 }

/-- One hint on one tile. -/
def Mod.hintTile (m : Mod) (dir : Bool) (o : Obj) (h code arg t : Nat) : Mod :=
  match code with
  | 0 => { m with res := { m.res with hints := Tab.del m.res.hints (tileKey h t) } }
  | 4 => m.hintMove o h t arg 5
  | 5 =>
    if dir then
      let d := (Tab.get {} m.res.hints (tileKey h t)).directed
      m.hintMove o h t (if isCellar d then d else homeCellar) 3
    else m.onHint h t fun x => { x with dontneed := true }
  | _ =>
    let home := if code = 3 then homeAttic else arg
    if dir then (m.onHint h t fun x => { x with directed := home }).hintMove o h t home 3
    else m.onHint h t fun x => { x with pref := home }

/-- The home or core that a hint names exists: neither a fenced core nor a stack mapped out. -/
def Mod.hintArgOk (m : Mod) (code arg : Nat) : Bool :=
  match code with
  | 1 | 4 => m.liveCores.contains arg
  | 2 => arg = 127 || !(m.stack! (arg - 64)).out
  | _ => true

/-- The tiles of a hint's range that are pinned when it comes: the reply counts them and does not wait for them (R366). -/
def Mod.markPinned (m : Mod) (q h lo hi : Nat) : Mod :=
  m.onQ q fun x => { x with cmd := x.cmd.map fun c =>
    { c with pinned := ((List.range (hi + 1 - lo)).map (· + lo)).filter fun t => m.pinned h t } }

def Mod.objHint (m : Mod) (q : Nat) (p : Packet) : Mod :=
  let h := pkt p 16 4
  let lo := pkt p 20 4
  let hi := pkt p 24 4
  let code := pkt p 28 1
  match m.objOfJob h (pktJob p) with
  | none => m.reply q (pktId p) stInvalidHandle 16
  | some o =>
    if o.tiles ≤ lo then m.reply q (pktId p) stInvalidField 20
    else if o.tiles ≤ hi then m.reply q (pktId p) stInvalidField 24
    else if !m.hintArgOk code (pkt p 29 1) then m.reply q (pktId p) stInvalidField 29
    else
      let dir := m.directed o.job
      let m := m.markPinned q h lo hi
      let m := ((List.range (hi + 1 - lo)).map (· + lo)).foldl (fun m t => m.hintTile dir o h code (pkt p 29 1) t) m
      if dir && decide (1 ≤ code ∧ code ≤ 3) && o.borrowed.isNone then (m.hold q).settleHints
      else m.reply q (pktId p) stOK 0 [(16, 4, 0)]
def execObjHint (q : Queue) (p : Packet) (s : State) : Host.Outcome State Fault Refusal :=
  run (fun m => m.command 0x12 q p fun m => (m.objHint q p).drive) s

/-! ### OBJ_WRITE and OBJ_READ (R347, R559) -/

/-- The part's size in bytes: PART 0 tiles, 1 tile scales, 2 the scale history. -/
def partSize (part n : Nat) : Nat := match part with | 0 => n * 1048576 | 1 => 4 * n | _ => 72

/-- What is wrong with a transfer's operands, as (status, detail). -/
def Mod.partBad (m : Mod) (p : Packet) : Option (Nat × Nat) :=
  let part := pkt p 20 1
  let lo := pkt p 24 4
  let hi := pkt p 28 4
  match m.objOfJob (pkt p 16 4) (pktJob p) with
  | none => some (stInvalidHandle, 16)
  | some o =>
    if part ≠ 0 ∧ !o.fp8 then some (stInvalidField, 20)
    else if part ≠ 2 ∧ o.tiles ≤ lo then some (stInvalidField, 24)
    else if part ≠ 2 ∧ o.tiles ≤ hi then some (stInvalidField, 28)
    else if pkt p 40 4 ≠ partSize part (hi + 1 - lo) then some (stInvalidField, 40)
    else none

def pktTiles (p : Packet) : List Nat := (List.range (pkt p 28 4 + 1 - pkt p 24 4)).map (· + pkt p 24 4)

/-- Pins the tiles where they stand (R347): moves in flight that serve no pin are cancelled (R357); a move that serves
one, or a pin elsewhere, makes the transfer wait. With `frames`, a dropped tile of a borrowed object takes a frame again,
where its core is powered. -/
def Mod.hostPins (m : Mod) (h : Nat) (frames : Bool) : List Nat → Option Mod
  | [] => some m
  | t :: ts =>
    match m.moving h t with
    | some v => if v.servesPin then none else ((if m.isImage h then m else m.cancelMove v).touchPin h t).hostPins h frames ts
    | none =>
      match m.pin? h t, m.homeOf h t with
      | some q, some home => if meets home q.target then (m.touchPin h t).hostPins h frames ts else none
      | _, none =>
        if !frames then m.hostPins h frames ts
        else match (m.objAny h).bind (·.borrowed) with
          | none => none
          | some c => match if m.liveCores.contains c && m.entriesFor 1 false then m.findRun c 1 else none with
            | some f => ((m.addExt { obj := h, tile := t, n := 1, home := c, frame := f }).touchPin h t).hostPins h frames ts
            | none => none
      | none, some _ => (m.touchPin h t).hostPins h frames ts

/-- A tile of a range stands in an Attic that takes no write (R382; log entry 86). -/
def Mod.heldByAttic (m : Mod) (h : Nat) (ts : List Nat) : Bool :=
  !m.accepts homeAttic && ts.any fun t => m.homeOf h t = some homeAttic

/-- What a transfer of a tile counts: host traffic of its home (Tables 9.2, 9.6); in the Attic the tile is read from its log or
written to it. -/
def Mod.hostTraffic (m : Mod) (h t : Nat) (read : Bool) : Mod :=
  match (m.extsOf h t).head? with
  | none => m
  | some e =>
    let f := e.frame + (t - e.tile)
    if e.home < 4 then m.panCnt e.home 0x30 1048576
    else if e.home = homeAttic then (if read then (m.atcRead f).atcCnt 0x28 1048576 else (m.atcWrite f).atcCnt 0x30 1048576)
    else m.stackBytes (e.home - 64) 4 1048576

/-- A tile taken from 1 MiB at host address a, in the layout of R341; poison leaves the tile. Rows past the object's last hold
no element, but codes of the row axis (R342). -/
def Obj.loadTile (o : Obj) (mem : List Host.Cell) (a t : Nat) : Obj :=
  let n := if o.blockScaled then 1024 else min 1024 (o.rows - (o.tileAt t).1)
  let o := (List.range n).foldl (fun o r => o.setRowBits t r (Memory.readN mem (a + 1024 * r) 1024)) o
  { o with poison := o.poison.filter fun p => p / 16384 ≠ t }

/-- The bytes of a tile. -/
def Obj.tileBytes (o : Obj) (t : Nat) : List Byte := (List.range 1024).flatMap fun r => leBytes 1024 (o.rowBits t r)

/-- An FP32 code that is positive, finite and normal (R559). -/
def scaleOk (w : Nat) : Bool := decide (0x00800000 ≤ w ∧ w ≤ 0x7F7FFFFF)

/-- The scale history record (R559): 16 entries from oldest to newest, COUNT, 4 zero bytes. -/
def Obj.history (o : Obj) : List Byte :=
  ((o.ringValid.reverse ++ List.replicate (16 - o.count) 0).flatMap fun w => leBytes 4 w) ++ leBytes 4 o.count ++ leBytes 4 0
def Obj.setHistory (o : Obj) (w : Nat) : Obj :=
  let n := byf w 64 4
  { o with count := n, ring := ((List.range n).map fun i => byf w (4 * i) 4).reverse ++ List.replicate (16 - n) 0 }
def historyOk (w : Nat) : Bool :=
  decide (byf w 64 4 ≤ 16) && byf w 68 4 = 0 && (List.range (byf w 64 4)).all fun i => decide (byf w (4 * i) 4 ≤ 0x7F7FFFFF)

def Mod.objWrite (mem : List Host.Cell) (m : Mod) (q : Nat) (p : Packet) : Mod :=
  let h := pkt p 16 4
  let a := pkt p 32 8
  let lo := pkt p 24 4
  if (m.run? (pktJob p)).isSome then m.reply q (pktId p) stStepBusy
  else match m.partBad p with
    | some (st, d) => m.reply q (pktId p) st d
    | none =>
      if m.isImage h then m.reply q (pktId p) stImageReadOnly
      else match pkt p 20 1 with
        | 0 => if m.heldByAttic h (pktTiles p) then m.reply q (pktId p) stAtticReadOnly else match m.hostPins h true (pktTiles p) with
          | none => m
          | some m =>
            let m := (pktTiles p).foldl (fun m t => m.hostTraffic h t false) m
            let m := m.onObj h fun o => (pktTiles p).foldl (fun o t => o.loadTile mem (a + 1048576 * (t - lo)) t) o
            (m.pump.drive.reply q (pktId p) stOK).settleHints
        | 1 =>
          let ws := (pktTiles p).map fun t => (t, Memory.readN mem (a + 4 * (t - lo)) 4)
          if ws.all fun x => scaleOk x.2 then
            (m.onObj h fun o => ws.foldl (fun o x => o.setTileScale x.1 x.2) o).reply q (pktId p) stOK
          else m.reply q (pktId p) stInvalidField 20
        | _ =>
          let w := Memory.readN mem a 72
          if historyOk w then (m.onObj h fun o => o.setHistory w).reply q (pktId p) stOK
          else m.reply q (pktId p) stInvalidField 20
def execObjWrite (q : Queue) (p : Packet) (s : State) : Host.Outcome State Fault Refusal :=
  runH (fun mem m => m.command 0x13 q p fun m => m.objWrite mem q p) s

/-- A transfer that reads a poisoned sector delivers no data and ends the job's running step (R315). -/
def Mod.readPoison (m : Mod) (q : Nat) (p : Packet) (t sec : Nat) : Mod :=
  let h := pkt p 16 4
  ((m.poisonRead (pktJob p) h t sec (m.extsOf h t).head?).stopStep (pktJob p) stMemPoison 0).reply q (pktId p) stMemPoison

def Mod.objRead (m : Mod) (q : Nat) (p : Packet) : Mod :=
  let h := pkt p 16 4
  let a := pkt p 32 8
  let lo := pkt p 24 4
  match m.partBad p with
  | some (st, d) => m.reply q (pktId p) st d
  | none =>
    match m.obj? h with
    | none => m
    | some o =>
      match pkt p 20 1 with
      | 0 => match m.hostPins h false (pktTiles p) with
        | none => m
        | some m =>
          match (o.poisonHere fun t => m.homeOf h t).find? fun x => (pktTiles p).contains (x / 16384) with
          | some x => m.readPoison q p (x / 16384) (x % 16384)
          | none =>
            let m := (pktTiles p).foldl (fun m t => m.hostTraffic h t true) m
            if o.image then
              let n := 131072 * (pktTiles p).length
              let m := m.hostWrite a ((List.range n).flatMap fun i => leBytes 8 (Config.freeValue (m.free + i)).toNat)
              ({ m with free := m.free + n }.reply q (pktId p) stOK).settleHints
            else
              let m := (pktTiles p).foldl (fun m t => m.hostWrite (a + 1048576 * (t - lo)) (o.tileBytes t)) m
              (m.pump.drive.reply q (pktId p) stOK).settleHints
      | 1 => (m.hostWrite a ((pktTiles p).flatMap fun t => leBytes 4 (o.tileScale t))).reply q (pktId p) stOK
      | _ => (m.hostWrite a o.history).reply q (pktId p) stOK
def execObjRead (q : Queue) (p : Packet) (s : State) : Host.Outcome State Fault Refusal :=
  run (fun m => m.command 0x14 q p fun m => m.objRead q p) s

end Sys2Proof.Machine
end

