-- ==== Sys2Proof/Machine/Tasks.lean ====
section
/-! DEFINITION. LAYER_SET (R226, R263, R560), SCHED_SET (R287) and TASK_LOAD (R388, R466, R561). -/
namespace Sys2Proof.Machine

/-! ### Layer records (Table 15.14) -/

/-- The offset of the first reserved byte of a layer record that is not zero (R560). -/
def recordRsv (w : Nat) : Option Nat :=
  let named := fun (i : Nat) =>
    if i < 48 ∨ i = 49 ∨ (52 ≤ i ∧ i ≤ 78) ∨ i = 80 ∨ i = 81 then 0xFF
    else match i with | 48 => 0x7F | 50 => 3 | 51 => 0x3F | 79 => 3 | 82 => 0x7F | _ => 0
  (List.range 128).find? fun i => byf w i 1 &&& (0xFF - named i) ≠ 0

/-- The fields of an entry that a record's MASK bits set (Table 15.14). Setting RULE to 3 without bit 25 sets BETA2 to 0.99,
whatever RULE and BETA2 were (R560; log entry 26). -/
def LayerCfg.applyMask (y : LayerCfg) (mask w : Nat) : LayerCfg :=
  let b := fun (i : Nat) => bit mask i
  let pick := fun (i v old : Nat) => if b i then v else old
  let flag := fun (i k : Nat) (old : Bool) => if b i then bit (byf w 48 1) k else old
  { objs := (List.range 12).map fun i => pick i (byf w (4 * i) 4) (y.objs.getD i 0)
    frozen := flag 12 0 y.frozen
    passThrough := flag 12 1 y.passThrough
    nesterov := flag 13 2 y.nesterov
    clipEn := flag 14 3 y.clipEn
    masterSr := flag 15 4 y.masterSr
    uwArm := flag 16 5 y.uwArm
    actFmt := pick 18 (byf w 49 1 % 16) y.actFmt
    masterFmt := pick 19 (byf w 49 1 / 16) y.masterFmt
    rule := pick 20 (byf w 50 1 % 4) y.rule
    lrSched := pick 21 (byf w 51 1 % 64) y.lrSched
    lrMult := pick 22 (byf w 52 4) y.lrMult
    wd := pick 23 (byf w 56 4) y.wd
    beta1 := pick 24 (byf w 60 4) y.beta1
    beta2 := if b 25 then byf w 64 4 else if b 20 ∧ byf w 50 1 % 4 = 3 then 0x3F7D70A4 else y.beta2
    eps := pick 26 (byf w 68 4) y.eps
    rootEps := pick 27 (byf w 72 4) y.rootEps
    refreshN := pick 28 (byf w 76 2) y.refreshN
    uwThresh := pick 29 (byf w 78 2 % 1024) y.uwThresh
    uwK := pick 30 (byf w 80 2) y.uwK
    thinRank := pick 31 (byf w 82 1 % 128) y.thinRank }

/-- The entry after a LAYER_SET, with what R186, R263, R281 and R285 reset. -/
def Layer.applySet (y : Layer) (mask w : Nat) : Layer :=
  let cfg := y.cfg.applyMask mask w
  let changed := cfg.rule ≠ y.cfg.rule
  let eps := changed || bit mask 27
  let roots := (bit mask 20 && cfg.rule = 2) || bit mask 7 || bit mask 8
  let disarm := bit mask 16 && !cfg.uwArm
  { y with
    cfg := cfg
    updCount := if changed then 0 else y.updCount
    p1 := if changed then 0 else y.p1
    p2 := if changed then 0 else y.p2
    lastUpd := if changed then 0xFFFFFFFFFFFFFFFF else y.lastUpd
    epsCur := if eps then cfg.rootEps else y.epsCur
    epsAt := if eps then 0xFFFFFFFFFFFFFFFF else y.epsAt
    epsPrev := if eps then cfg.rootEps else y.epsPrev
    guarded := y.guarded && !(bit mask 17 && bit (byf w 48 1) 6)
    rootL := if roots then [] else y.rootL
    rootR := if roots then [] else y.rootR
    run := if disarm then 0 else y.run
    latched := y.latched && !disarm }

/-- The entry with every change, its binding among them, that waits for the end of the step. -/
def Layer.settled (y : Layer) : Layer :=
  y.pend.foldl (fun y c => y.applySet c.1 c.2) { y with pend := [], job := y.owner, pendJob := 0 }

def finite32 (w : Nat) : Bool := w / 2 ^ 23 % 256 ≠ 255
def nonneg32 (w : Nat) : Bool := decide (w < 0x7F800000) || w = 0x80000000
def unit32 (w : Nat) : Bool := decide (w < 0x3F800000) || w = 0x80000000
def positive32 (w : Nat) : Bool := decide (0 < w ∧ w < 0x7F800000)

/-- The MASK bits of the fields that R263 or R277 rejects. -/
def layerBadBits (m : Mod) (job : Nat) (y : LayerCfg) : List Nat :=
  let h := fun (i : Nat) => y.objs.getD i 0
  let o := fun (i : Nat) => m.objOfJob (h i) job
  let stale := (List.range 12).filter fun i => !isNull (h i) && (o i).isNone
  let range := ([(18, decide (y.actFmt ≤ 8)), (19, decide (y.masterFmt ≤ 1)), (22, finite32 y.lrMult), (23, nonneg32 y.wd),
    (24, unit32 y.beta1), (25, unit32 y.beta2), (26, nonneg32 y.eps), (27, positive32 y.rootEps), (28, decide (1 ≤ y.refreshN)),
    (30, decide (1 ≤ y.uwK)), (31, decide (y.thinRank ≤ 64))].filter fun (r : Nat × Bool) => !r.2).map (·.1)
  let full := match o 0 with
    | none => []
    | some w =>
      let n := w.rows * w.cols
      let off := fun (i : Nat) (p : Obj → Bool) => match o i with | some x => p x | none => false
      let need := fun (i : Nat) (used : Bool) => if used = isNull (h i) then [i] else []
      (if w.fmt ≠ y.masterFmt then [0] else []) ++
      ([2, 3, 5, 6, 7, 8, 9].filter fun i => off i fun x => x.fmt ≠ 0) ++
      (if off 1 fun x => !(decide (x.fmt ≤ 4) || x.fmt = 9) then [1] else []) ++
      ([1, 2, 3, 5, 6, 7, 8, 9, 10].filter fun i => off i fun x => x.rows * x.cols ≠ n) ++
      (if off 4 fun x => x.fmt ≠ 8 || decide (x.rows * x.cols < cdiv (cdiv n y.rowBlock) 8) then [4] else []) ++
      need 2 true ++ need 3 (y.rule = 1 || y.rule = 2) ++ [5, 6, 7, 8, 9].flatMap (fun i => need i (y.rule = 2)) ++
      (if y.rule = 2 ∧ (w.rows % 256 ≠ 0 ∨ w.cols % 256 ≠ 0 ∨ 16384 < w.blocks256) then [0] else [])
  -- a rule 2 layer is never sparse (R277)
  stale ++ range ++ full ++ (if y.rule = 2 ∧ !isNull (h 4) then [4] else [])

def minOf (l : List Nat) : Option Nat := l.foldl (fun (b : Option Nat) a => match b with | none => some a | some x => some (min x a)) none

/-- The entry checked as it would stand: LAYER_FLAGS_INVALID, UPD_BINDING_INVALID, TIED_WEIGHT_REJECTED (R223, R229, R263). The
other entries are taken as they will stand when their own waiting changes have been made; R229 does not say so (DESIGN CHOICE, log
entry 85). -/
def Mod.layerBad (m : Mod) (job l : Nat) (y : Layer) : Option (Nat × Nat) :=
  if y.cfg.passThrough ∧ !y.cfg.frozen then some (stLayerFlags, 0)
  else match minOf (layerBadBits m job y.cfg) with
    | some b => some (stUpdBinding, b)
    | none =>
      if !isNull y.cfg.weight && m.upd.layers.any (fun (p : Nat × Layer) =>
          p.1 ≠ l && p.2.owner = job && p.2.settled.cfg.weight = y.cfg.weight) then some (stTiedWeight, l)
      else none

/-- A LAYER_SET of one entry, or the failure that changes nothing; `now` applies it at once, else it waits for the end of the
job's step, the binding of an unbound entry with it (R551). -/
def Mod.layerChange (m : Mod) (job l mask w : Nat) (now : Bool) : Except (Nat × Nat) Mod :=
  let old := m.layer! l
  if old.owner ≠ 0 ∧ old.owner ≠ job then .error (stLayerInUse, 0)
  else match m.layerBad job l (old.settled.applySet mask w) with
    | some e => .error e
    | none =>
      .ok (m.onLayer l fun _ =>
        if now then { old.settled.applySet mask w with job := job } else { old with pend := old.pend ++ [(mask, w)], pendJob := job })

/-- The changes of a job that waited for its step to end take effect (R226, R288, R551). -/
def Mod.applyPending (m : Mod) (job : Nat) : Mod :=
  let ls := m.upd.layers.map fun (p : Nat × Layer) => if p.2.owner = job then (p.1, p.2.settled) else p
  let ss := m.upd.scheds.map fun (p : Nat × Sched) => match p.2.pend with
    | some (restart, pos, segs, j) =>
      if j = job then (p.1, { p.2 with job := j, restart := restart, pos := pos, segs := segs, pend := none }) else p
    | none => p
  { m with upd := { m.upd with layers := ls, scheds := ss } }

def Mod.layerSet (mem : List Host.Cell) (m : Mod) (q : Nat) (p : Packet) : Mod :=
  let job := pktJob p
  let w := Memory.readN mem (pkt p 32 8) 128
  match recordRsv w with
  | some i => m.reply q (pktId p) stInvalidField (128 + i)
  | none => match m.layerChange job (pkt p 16 2) (pkt p 24 8) w (m.run? job).isNone with
    | .error e => m.reply q (pktId p) e.1 e.2
    | .ok m => m.reply q (pktId p) stOK
def execLayerSet (q : Queue) (p : Packet) (s : State) : Host.Outcome State Fault Refusal :=
  runH (fun mem m => m.command 0x28 q p fun m => m.layerSet mem q p) s

/-! ### Schedules (R287, Table 15.15) -/

def segOf (w i : Nat) : Seg :=
  { type := byf w (16 + 20 * i) 1, len := byf w (20 + 20 * i) 4, v0 := byf w (24 + 20 * i) 4, v1 := byf w (28 + 20 * i) 4,
    param := byf w (32 + 20 * i) 4 }
def segOk (s : Seg) : Bool :=
  decide (s.type ≤ 4 ∧ 1 ≤ s.len ∧ s.len ≤ 16777216) && finite32 s.v0 && finite32 s.v1 && finite32 s.param &&
    (s.type ≠ 3 || positive32 s.param)
def schedOk (w : Nat) : Bool :=
  let n := byf w 4 1
  decide (1 ≤ n ∧ n ≤ 8) && byf w 5 3 = 0 &&
  (List.range 8).all fun i => if i < n then segOk (segOf w i) && byf w (17 + 20 * i) 3 = 0 else byf w (16 + 20 * i) 20 = 0

def Mod.schedSet (mem : List Host.Cell) (m : Mod) (q : Nat) (p : Packet) : Mod :=
  let job := pktJob p
  let w := Memory.readN mem (pkt p 24 8) 176
  let k := pkt p 16 1
  let old := Tab.get ({} : Sched) m.upd.scheds k
  let other := old.owner ≠ 0 && old.owner ≠ job
  if other || !schedOk w then m.reply q (pktId p) stSched
  else
    let pend := some (byf w 0 4, byf w 8 8, (List.range (byf w 4 1)).map (segOf w), job)
    let m := { m with upd := { m.upd with scheds := Tab.put m.upd.scheds k { old with pend := pend } } }
    (if (m.run? job).isNone then m.applyPending job else m).reply q (pktId p) stOK
def execSchedSet (q : Queue) (p : Packet) (s : State) : Host.Outcome State Fault Refusal :=
  runH (fun mem m => m.command 0x29 q p fun m => m.schedSet mem q p) s

/-! ### Task images (R561, Table 15.17) -/

/-- A section of an image: where it is named, its first byte and its length. -/
structure Section where
  at_ : Nat
  off : Nat
  len : Nat
  deriving DecidableEq, Repr

/-- The header sections: offset of the field pair, bytes an entry takes, the most entries. -/
def imageParts : List (Nat × Nat × Nat) :=
  [(8, 16, 256), (16, 64, 256), (24, 8, 2 ^ 32), (32, 4, 2 ^ 32), (40, 4, 2 ^ 32), (48, 12, 2 ^ 32), (56, 144, 2 ^ 32)]

/-- The offsets of a header section's entries; none where the section does not lie within the image. -/
def imageEntries (im : Nat → Nat → Nat) (len k : Nat) : List Nat :=
  match imageParts.find? fun x => x.1 = k with
  | none => []
  | some (h, size, most) =>
    let off := im h 4
    let n := im (h + 4) 4
    if most < n ∨ len < off + n * size then [] else (List.range n).map fun i => off + i * size

/-- Every section that the header or an entry points to (R561). -/
def imageSections (im : Nat → Nat → Nat) (len : Nat) : List Section :=
  (imageParts.map fun x => { at_ := x.1, off := im x.1 4, len := im (x.1 + 4) 4 * x.2.1 }) ++
  ((imageEntries im len 8).map fun e => { at_ := e + 8, off := im (e + 8) 4, len := im (e + 4) 4 * 64 }) ++
  ((imageEntries im len 48).map fun e => { at_ := e + 8, off := im (e + 8) 4, len := im (e + 4) 4 * 4 })

/-- Naming offsets of sections that overlap an earlier one. -/
def sectionOverlaps : List Section → List Section → List Nat
  | _, [] => []
  | seen, s :: t =>
    if s.len ≠ 0 && seen.any (fun r => r.len ≠ 0 && decide (s.off < r.off + r.len ∧ r.off < s.off + s.len)) then
      s.at_ :: sectionOverlaps (s :: seen) t
    else sectionOverlaps (s :: seen) t

/-- The image offsets that offend (R561). `im off n` is the number that n bytes at an offset spell. -/
def imageBad (im : Nat → Nat → Nat) (len : Nat) : List Nat :=
  let es := imageEntries im len
  let zero := fun (a n : Nat) => ((List.range n).map (· + a)).filter fun i => im i 1 ≠ 0
  let off := fun (a : Nat) (ok : Bool) => if ok then [] else [a]
  let ss := imageSections im len
  (([0x54, 0x4C, 0x58, 0x54, 1, 0, 0, 0].zip (List.range 8)).filter fun (x : Nat × Nat) => im x.2 1 ≠ x.1).map (·.2) ++
  imageParts.flatMap (fun x => off (x.1 + 4) (decide (im (x.1 + 4) 4 ≤ x.2.2))) ++
  (ss.filter fun s => decide (len < s.off + s.len)).map (·.at_) ++
  sectionOverlaps [] ss ++
  (es 8).flatMap (fun e =>
    let n := im (e + 4) 4
    let base := im (e + 8) 4
    off e (decide (im e 1 ≤ 3)) ++ off (e + 1) (decide (im (e + 1) 1 ≤ 4)) ++ off (e + 2) (decide (im (e + 2) 1 ≤ 3)) ++ zero (e + 3) 1 ++
    off (e + 4) (decide (1 ≤ n ∧ n ≤ 1048576)) ++ zero (e + 12) 4 ++
    (if len < base + 64 * n then [] else
      (List.range n).flatMap fun i => off (base + 64 * i) ((im (base + 64 * i) 1 = 0xFF) = (i + 1 = n)))) ++
  (es 16).flatMap (fun e =>
    let n := im e 1 % 16
    off e (decide (im e 1 < 32)) ++ off (e + 2) (decide (im (e + 2) 1 < 16)) ++ zero (e + 3) 29 ++ zero (e + 32 + 4 * n) (32 - 4 * n) ++
      (List.range (min n 8)).flatMap fun i => off (e + 34 + 4 * i) (decide (im (e + 34 + 4 * i) 1 < 128)) ++ zero (e + 35 + 4 * i) 1) ++
  (es 24).flatMap (fun e =>
    off e (decide (im e 1 ≤ 3)) ++ off (e + 1) (decide (im (e + 1) 1 < 48)) ++ off (e + 2) (decide (im (e + 2) 1 ≤ 1)) ++ zero (e + 3) 1 ++
    off (e + 4) (im (e + 2) 1 = 1 || decide (im (e + 4) 4 ≤ 65535))) ++
  (es 32).flatMap (fun e =>
    off e (decide (im e 1 ≤ 3)) ++ off (e + 1) (decide (im (e + 1) 1 ≤ 7)) ++
      off (e + 2) (decide (1 ≤ im (e + 2) 1 ∧ im (e + 2) 1 ≤ 16)) ++ zero (e + 3) 1) ++
  (es 40).flatMap (fun e =>
    off e (decide (im e 1 ≤ 63)) ++ off (e + 1) (decide (1 ≤ im (e + 1) 1 ∧ im (e + 1) 1 ≤ 64)) ++
      off (e + 2) (decide (im (e + 2) 2 < 1024))) ++
  (es 48).flatMap (fun e =>
    off e (decide (im e 2 < 1024)) ++ off (e + 2) (decide (1 ≤ im (e + 2) 1 ∧ im (e + 2) 1 ≤ 8)) ++ zero (e + 3) 1 ++
      off (e + 4) (decide (1 ≤ im (e + 4) 4 ∧ im (e + 4) 4 ≤ 1048576)) ++
      (if len < im (e + 8) 4 + 4 * im (e + 4) 4 then [] else
        (List.range (im (e + 4) 4)).flatMap fun i => off (im (e + 8) 4 + 4 * i) (decide (im (im (e + 8) 4 + 4 * i) 4 < 2 ^ 20)))) ++
  (es 56).flatMap (fun e =>
    off e (decide (im e 2 < 16384)) ++ zero (e + 2) 6 ++ zero (e + 12) 4 ++
      (match recordRsv (im (e + 16) 128) with | some i => [e + 16 + i] | none => []))

/-- The tables of a task image (its SYNC, CBAR, MBAR, GROUPS and LAYERS entries with their offsets). -/
def imageTask (im : Nat → Nat → Nat) (len : Nat) (early : Bool) : Task :=
  { earlyAbort := early
    lists := (imageEntries im len 8).map fun e =>
      { core := im e 1, phase := im (e + 1) 1, prio := im (e + 2) 1,
        descs := (List.range (im (e + 4) 4)).map fun i => im (im (e + 8) 4 + 64 * i) 64 }
    recipes := (imageEntries im len 16).map fun e => im e 64 }

/-- The recipes of a task are placed in the store of every core it binds (R235). -/
def Mod.loadRecipes (m : Mod) (job t : Nat) (k : Task) : Except (Nat × Nat) Mod :=
  match k.binds.find? fun c => decide (1024 < (m.recipesFor c).length + k.recipes.length) with
  | some c => .error (stRecipeFull, c)
  | none =>
    let rs : List Recipe := ((List.range k.recipes.length).zip k.recipes).map fun r => { job := job, task := t, idx := r.1, w := r.2 }
    .ok (k.binds.foldl (fun m c => if (m.core! c).fenced then m else m.onCore c fun x => { x with recipes := x.recipes ++ rs }) m)

/-- Binds a sync object (R388); `e` is its entry's offset. -/
def Mod.bindSync (im : Nat → Nat → Nat) (job : Nat) (r : Except (Nat × Nat) Mod) (e : Nat) : Except (Nat × Nat) Mod :=
  r.bind fun m =>
    let c := im e 1
    let i := im (e + 1) 1
    let o : SyncObj := { job := job, observe := im (e + 2) 1 = 1, value := im (e + 4) 4, init := im (e + 4) 4 }
    let x := m.sync! c i
    if x.job = 0 then .ok (m.onSync c i fun _ => o)
    else if x.job = job ∧ x.observe = o.observe ∧ x.init = o.init then .ok m
    else .error (stSyncInUse, e)

def Mod.bindCbar (im : Nat → Nat → Nat) (job : Nat) (r : Except (Nat × Nat) Mod) (e : Nat) : Except (Nat × Nat) Mod :=
  r.bind fun m =>
    let c := im e 1
    let j := im (e + 1) 1
    let n := im (e + 2) 1
    let x := m.bar! c j
    if x.job = 0 then .ok (m.onBar c j fun _ => { job := job, parties := n })
    else if x.job = job ∧ x.parties = n then .ok m
    else .error (stSyncInUse, e)

def Mod.bindMbar (im : Nat → Nat → Nat) (job : Nat) (r : Except (Nat × Nat) Mod) (e : Nat) : Except (Nat × Nat) Mod :=
  r.bind fun m =>
    let j := im e 1
    let n := im (e + 1) 1
    let g := im (e + 2) 2
    let x := m.mbar! j
    if x.job ≠ 0 ∧ !(x.job = job ∧ x.parties = n ∧ x.group = g) then .error (stSyncInUse, e)
    else if (m.group? job g).isNone then .error (stGroupInvalid, g)
    else if x.job = job then .ok m
    else .ok (m.onMbar j fun _ => { job := job, parties := n, group := g })

/-- Binds a group (R466). -/
def Mod.bindGroup (im : Nat → Nat → Nat) (job : Nat) (r : Except (Nat × Nat) Mod) (e : Nat) : Except (Nat × Nat) Mod :=
  r.bind fun m =>
    let g := im e 2
    let ms := (List.range (im (e + 4) 4)).map fun i => im (im (e + 8) 4 + 4 * i) 4
    let x : Group := { job := job, g := g, f := im (e + 2) 1, members := ms }
    if !ms.contains m.lnk.chip ∨ !ms.Nodup then .error (stGroupInvalid, g)
    else match m.group? job g with
      | some y => if y = x then .ok m else .error (stGroupInvalid, g)
      | none =>
        if 1024 ≤ m.col.groups.length then .error (stGroupInvalid, g)
        else .ok { m with col := { m.col with groups := Tab.put m.col.groups (groupKey job g) x } }

def Mod.bindLayer (im : Nat → Nat → Nat) (job : Nat) (r : Except (Nat × Nat) Mod) (e : Nat) : Except (Nat × Nat) Mod :=
  r.bind fun m => m.layerChange job (im e 2) (im (e + 8) 8) (im (e + 16) 128) true

/-- The module barrier that the task's verdict list names, plus 1; 0 for none (R31). -/
def Task.verdictBar (k : Task) : Nat :=
  match (k.lists.flatMap fun l => if l.phase = 3 then l.descs else []).find? fun d =>
      dOp d = opBarrier && (barOp d).verdict && (barOp d).scope = 1 with
  | some d => (barOp d).bar + 1
  | none => 0

/-- A task image is checked whole and bound; a failure loads nothing. -/
def Mod.loadTask (m : Mod) (im : Nat → Nat → Nat) (len job t : Nat) (early : Bool) : Except (Nat × Nat) Mod :=
  if len < 64 then .error (stTaskImage, 0)
  else match minOf (imageBad im len) with
    | some i => .error (stTaskImage, i)
    | none =>
      let k := imageTask im len early
      let es := imageEntries im len
      let r := m.loadRecipes job t k
      let r := (es 24).foldl (Mod.bindSync im job) r
      let r := (es 32).foldl (Mod.bindCbar im job) r
      let r := (es 48).foldl (Mod.bindGroup im job) r
      let r := (es 40).foldl (Mod.bindMbar im job) r
      let r := (es 56).foldl (Mod.bindLayer im job) r
      r.map fun m => m.onJob job fun j =>
        { j with tasks := Tab.put j.tasks t k, verdictBar := if k.verdictBar = 0 then j.verdictBar else k.verdictBar }

def Mod.taskLoad (mem : List Host.Cell) (m : Mod) (q : Nat) (p : Packet) : Mod :=
  let job := pktJob p
  match m.job? job with
  | none => m
  | some j =>
    let t := j.tasks.length
    if j.run.isSome then m.reply q (pktId p) stStepBusy
    else if 16 ≤ t then m.reply q (pktId p) stTaskTableFull
    else match m.loadTask (fun off n => Memory.readN mem (pkt p 16 8 + off) n) (pkt p 24 4) job t (bit (pkt p 28 1) 0) with
      | .error e => m.reply q (pktId p) e.1 e.2
      | .ok m => m.reply q (pktId p) stOK 0 [(16, 1, t)]
def execTaskLoad (q : Queue) (p : Packet) (s : State) : Host.Outcome State Fault Refusal :=
  runH (fun mem m => m.command 0x20 q p fun m => m.taskLoad mem q p) s

end Sys2Proof.Machine
end

