-- ==== Sys2Proof/Machine/StepRun.lean ====
section
/-! DEFINITION. STEP_RUN, STEP_ABORT, the dispatch of phases and the end of a step (R30 to R32, R119, R550 to R555). -/
namespace Sys2Proof.Machine

/-! ### STEP_RUN and STEP_ABORT -/

def Mod.stepRun (m : Mod) (q : Nat) (p : Packet) : Mod :=
  let job := pktJob p
  match m.job? job with
  | none => m
  | some j =>
    let ts := maskList 16 (pkt p 16 2)
    let want := pkt p 24 8
    if j.run.isSome then m.reply q (pktId p) stStepBusy
    else if want ≠ 0xFFFFFFFFFFFFFFFF ∧ want ≠ j.step then m.reply q (pktId p) stInvalidField 24
    else if ts.any fun t => (Tab.find j.tasks t).isNone then m.reply q (pktId p) stInvalidField 16
    else
      let r : Run := { queue := q, cmdId := pktId p, mask := pkt p 16 2, tasks := ts, variantOf := [], step := j.step }
      (m.onJob job fun j => { j with run := some r }).hold q
def execStepRun (q : Queue) (p : Packet) (s : State) : Host.Outcome State Fault Refusal :=
  run (fun m => m.command 0x21 q p fun m => m.stepRun q p) s

/-- A step whose verdict has released is not ended by STEP_ABORT: a finite one commits, one that is not finite has ended (R550,
R554). Descriptors in flight run to retirement; what then waits without a deadline ends with the step (log entry 32). -/
def Mod.stepAbort (m : Mod) (q : Nat) (p : Packet) : Mod :=
  let job := pktJob p
  let ends : Bool := match m.run? job with | some r => r.verdict.isNone | none => false
  let m := if ends then (m.stopStep job stAborted 0).onRun job fun r => { r with replay := none } else m
  m.reply q (pktId p) stOK 0 [(16, 1, b2n ends)]
def execStepAbort (q : Queue) (p : Packet) (s : State) : Host.Outcome State Fault Refusal :=
  run (fun m => m.command 0x22 q p fun m => m.stepAbort q p) s

/-! ### Dispatching a phase (R30 to R32, R119, R120, R286, R390) -/

/-- The next task list takes its place: with its order of dispatch, at the point its job asks for in the phase (R525). -/
def Mod.dispatchList (m : Mod) (job t op : Nat) (l : TaskList) : Mod :=
  let d : DList := { job := job, task := t, phase := l.phase, prio := l.prio, order := m.orders, op := op, descs := l.descs }
  { m with orders := m.orders + 1 }.onCore l.core fun x => { x with lq := insList d x.lq }

/-- The lists of the running tasks for a phase, with their tasks. -/
def Job.phaseLists (j : Job) (r : Run) (phase : Nat) : List (Nat × TaskList) :=
  r.actualTasks.flatMap fun t => match Tab.find j.tasks t with
    | some k => (k.lists.filter fun l => l.phase = phase).map fun l => (t, l)
    | none => []

/-- Dispatches every list of a phase; PACE_MATCHED sets where the point is lowered for it (Table 15.12). -/
def Mod.dispatchPhase (m : Mod) (job phase : Nat) : Mod :=
  match m.job? job with
  | none => m
  | some j =>
    match j.run with
    | none => m
    | some r =>
      let op := j.phaseOp phase
      let ls := j.phaseLists r phase
      let m := (m.onRun job fun r => { r with phase := phase, dispatched := true, started := true }).onJob job fun x =>
        { x with runPref := j.pref phase }
      let low := decide (op < j.pref phase)
      let m := if ls.isEmpty then m
        else (if low then m.stepFlag job flagPaced else m).onJob job fun j => { j with matching := low }
      let m := ls.foldl (fun m x => m.dispatchList job x.1 op x.2) m
      (cores.foldl (fun m c => m.fillSlots c) m).power

/-- What every step starts from, before its first list is dispatched (R195, R189, R275, R390, R491). -/
def Mod.beginStep (m : Mod) (job : Nat) : Mod :=
  let m := (m.reinitObjects job).onJob job fun j =>
    { j with nonfinite := false, quenching := false, nfSeen := false, quenchSeen := false, satSeen := [] }
  ((m.freshAttempt job).clearTotals job).resumeBars job

/-- A pending localisation test, repair or re-hash, a fence that waits for a step boundary of the module, or one under way
(R119, R120, R127, R319, R596, R597; log entry 65). -/
def Mod.moduleWaits (m : Mod) : Bool :=
  !m.deferFence.isEmpty || !m.deferUnfence.isEmpty || (cores.any fun c => (m.core! c).fencing.isSome) ||
  (cores.any fun c => !(m.core! c).fenced && [0, 1].any fun a => !(m.arr! c a).pend.isEmpty || (m.arr! c a).testing) ||
  m.cel.st.any fun (p : Nat × StackSt) => p.2.rehash || (p.2.draining &&
    !((m.res.ext ++ m.res.releasing).any fun e => e.home = homeStack p.1) && !m.res.moves.any fun v => v.home = homeStack p.1)

/-- A checkpoint or an export that waits for the job's step boundary. -/
def Job.captureWaits (j : Job) : Bool :=
  (match j.ckpt with | some k => k.image.isNone | none => false) || (match j.snap with | some x => x.captured.isNone | none => false)

/-- Lists of the job in a phase, in slots or queued. -/
def Mod.phaseLeft (m : Mod) (job phase : Nat) : Bool :=
  cores.any fun c => ((m.core! c).listsOf job).any fun l => l.phase = phase

/-- The first dispatch of an attempt: fence variants stand in for tasks on fenced cores (R602, R603). -/
def Mod.firstDispatch (m : Mod) (job : Nat) (j : Job) (r : Run) : Mod :=
  if !r.started && (m.moduleWaits || j.captureWaits) then m
  else match m.variants j r r.tasks [] with
    | .error (t, c) => (m.ev 0xD012 0 [(0, 2, job), (2, 1, t), (3, 1, c)]).stopStep job stListFault c
    | .ok vs =>
      let m := m.onRun job fun r => { r with variantOf := vs }
      (if r.started then (if r.phase = 0 then m.resumeBars job else m) else m.beginStep job).dispatchPhase job r.phase

/-- The job's lists leave their slots and queues without END. -/
def Mod.removeLists (m : Mod) (job : Nat) : Mod :=
  cores.foldl (fun m c => m.onCore c fun x => { x with
    slots := x.slots.filter fun (p : Nat × SlotSt) => p.2.l.job ≠ job
    lq := x.lq.filter fun l => l.job ≠ job }) m

/-- Between steps: the job's refresh lists, stopped by a fault, leave their slots once nothing of it is in flight. -/
def Mod.dropStopped (m : Mod) (job : Nat) : Mod :=
  if m.inflAny job || !(match m.job? job with | some j => j.halted | none => false) then m
  else ((cores.foldl (fun m c => m.fillSlots c) (m.removeLists job)).reinitDue job).onJob job fun j => { j with halted := false }

/-- PHASE_DISPATCH: the next phase once every list of the last has retired END; PH_UPD only after a finite verdict and
when no ROOT_REFRESH of the job is left of the step before (R30, R31, R286). Refresh lists that a fault stopped between steps
leave before the next step begins (R52). -/
def Mod.phaseDispatch (m : Mod) (job : Nat) : Mod :=
  match m.job? job with
  | none => m
  | some j =>
    match j.run with
    | none => m
    | some r =>
      if !m.serving || r.halted || r.replay.isSome || r.verdict = some false then m
      else if j.halted && m.inflAny job then m
      else if !r.dispatched then (m.dropStopped job).firstDispatch job j r
      else if 4 ≤ r.phase || m.phaseLeft job r.phase then m
      else if r.phase = 3 then
        if r.verdict = some true && !m.refreshLeft job then m.dispatchPhase job 4 else m
      else m.dispatchPhase job (r.phase + 1)
def execPhaseDispatch (job : JobId) (s : State) : Host.Outcome State Fault Refusal := run (fun m => m.phaseDispatch job.toNat) s

/-! ### The end of a step (R52, R119, R550, R553) -/

/-- The update phase has retired: what is left of it is refresh lists that have no UPD_LAYER before them (R32). -/
def Mod.updateDone (m : Mod) (job : Nat) : Bool :=
  cores.all fun c =>
    let x := m.core! c
    (x.inflOf job).all (fun f => dOp f.d ≠ opUpdLayer) &&
    (x.lq.all fun l => l.job ≠ job || (l.refresh && !l.descs.any fun d => dOp d = opUpdLayer)) &&
    x.slots.all fun (p : Nat × SlotSt) => p.2.l.job ≠ job || (p.2.l.refresh && !p.2.rest.any fun d => dOp d = opUpdLayer)

/-- The status with which a running step ends, if it may end now, and its DETAIL. -/
def Mod.stepOver (m : Mod) (job : Nat) (r : Run) : Option (Nat × Nat) :=
  if r.replay.isSome then none
  else if r.halted then
    if m.inflAny job then none else (firstCause r.causes).map fun c => (c.2.1, c.2.2)
  else match r.verdict with
    | some false => if m.inflAny job || [0, 1, 2, 3].any (fun k => m.phaseLeft job k) then none else some (stNonfinite, 0)
    | some true => if r.dispatched && r.phase = 4 && m.updateDone job then some (stOK, 0) else none
    | none => none

/-- The step completes: a committed one raises the step number; deferred settings take effect; STEP_RUN replies. -/
def Mod.finishStep (m : Mod) (job status detail : Nat) (r : Run) : Mod :=
  let m := if status = stOK then m else (m.removeLists job).reinitDue job
  let m := if status = stAborted then m.closeWindows job true else m
  let m := m.onJob job fun j => { j with run := none, step := if status = stOK then r.step + 1 else j.step, matching := false }
  let m := m.applyPending job
  let m := cores.foldl (fun m c => m.fillSlots c) m
  (m.reply r.queue r.cmdId status detail
    [(16, 8, r.step), (24, 1, r.attempt), (28, 4, min (r.spread / 1000) 0xFFFFFFFF)] (m.replyFlags job r)).power

/-- A wait that only a signal, an arrival or a packet from elsewhere can end: SYNC_WAIT, BARRIER or COLL with no TIMEOUT. -/
def Infl.endless (f : Infl) : Bool := [0x40, 0x42, 0x50].contains (dOp f.d) && f.deadline.isNone

/-- All that an aborted step still has in flight waits without a deadline: it ends with the step (note to R412; log entry 32). -/
def Mod.endWaits (m : Mod) (job : Nat) : Mod :=
  match m.run? job with
  | none => m
  | some r =>
    if (r.causes.any fun c => c.2.1 = stAborted) && cores.all fun c => ((m.core! c).inflOf job).all Infl.endless then m.abandonWaiting job
    else m

/-- STEP_END; a JOB_CLOSE that waits for the step, as an FLR leaves it, follows (R617). -/
def Mod.stepEnd (m : Mod) (job : Nat) : Mod :=
  match (m.job? job).bind (·.run) with
  | none => (m.dropStopped job).power.closeIfDue job
  | some r =>
    let m := m.endWaits job
    match m.stepOver job r with
    | some (st, d) => (m.finishStep job st d r).closeIfDue job
    | none => m
def execStepEnd (job : JobId) (s : State) : Host.Outcome State Fault Refusal := run (fun m => m.stepEnd job.toNat) s

end Sys2Proof.Machine
end

