-- ==== Sys2Proof/Machine/Ckpt.lean ====
section
/-! DEFINITION. Checkpoints (R369 to R371, R557, R558), snapshot export (R514 to R519), CORE_FENCE and CORE_UNFENCE (R596,
R597) and SYNC_FORCE (R413). -/
namespace Sys2Proof.Machine

/-! ### CKPT_WRITE (R557) -/

def ckptOfPkt (q : Nat) (p : Packet) (hs : List Nat) : CkptOp :=
  { queue := q, cmdId := pktId p, handles := hs, lo := pkt p 28 2, hi := pkt p 30 2, schedMask := pkt p 32 8 }

/-- The index of the first handle that names no ordinary object of the job. -/
def Mod.badHandle (m : Mod) (job : Nat) (hs : List Nat) : Option Nat :=
  hs.findIdx? fun h => match m.objOfJob h job with | some o => o.image | none => true

def Mod.ckptWrite (mem : List Host.Cell) (m : Mod) (q : Nat) (p : Packet) : Mod :=
  let job := pktJob p
  let hs := (List.range (pkt p 24 4)).map fun i => Memory.readN mem (pkt p 16 8 + 4 * i) 4
  if ((m.job? job).bind (·.ckpt)).isSome then m.reply q (pktId p) stCkptBusy
  else if m.attic.readOnly then m.reply q (pktId p) stAtticReadOnly
  else match m.badHandle job hs with
    | some i => m.reply q (pktId p) stInvalidHandle (4 * i)
    | none => (m.onJob job fun j => { j with ckpt := some (ckptOfPkt q p hs) }).hold q
def execCkptWrite (q : Queue) (p : Packet) (s : State) : Host.Outcome State Fault Refusal :=
  runH (fun mem m => m.command 0x30 q p fun m => m.ckptWrite mem q p) s

/-- A checkpoint that cannot go on completes with a status. -/
def Mod.ckptFail (m : Mod) (job : Nat) (k : CkptOp) (status detail : Nat) : Mod :=
  ((m.onJob job fun j => { j with ckpt := none }).reply k.queue k.cmdId status detail).closeIfDue job

/-- The layers of a job in a range, and its schedules in a mask. -/
def Mod.layersIn (m : Mod) (job lo hi : Nat) : List (Nat × Layer) :=
  m.upd.layers.filter fun (p : Nat × Layer) => p.2.job = job && decide (lo ≤ p.1 ∧ p.1 ≤ hi)
def Mod.schedsIn (m : Mod) (job mask : Nat) : List (Nat × Sched) :=
  m.upd.scheds.filter fun (p : Nat × Sched) => p.2.job = job && bit mask p.1

/-- Tiles of an object are read from their homes for an image, or of an image for a restore: residency traffic (Table 9.2). -/
def Mod.readTiles (m : Mod) (h : Nat) (ts : List Nat) : Mod :=
  ts.foldl (fun m t => match (m.extsOf h t).head? with | some e => m.readTile e t 3 | none => m) m
/-- The restored tiles are written to their homes. -/
def Mod.writtenTiles (m : Mod) (h : Nat) (ts : List Nat) : Mod :=
  ts.foldl (fun m t => match m.homeOf h t with | some home => m.tileTraffic home 3 1048576 false | none => m) m

/-- The tiles of an image take frames of the Attic, in runs where no one run is long enough; none where it has too few, or the
residency table too few entries. -/
def Mod.placeImage (m : Mod) (h tiles : Nat) : Option Mod :=
  match if m.accepts homeAttic then m.takeFrames homeAttic tiles else none with
  | none => none
  | some fs =>
    let es := (fs.foldl (fun (a : List Ext × Nat) f =>
      (a.1 ++ [{ obj := h, tile := a.2, n := f.2, home := homeAttic, frame := f.1 }], a.2 + f.2)) ([], 0)).1
    if m.entriesFor (es.flatMap Ext.pieces).length false then some (es.foldl (fun m e => m.addExt e) m) else none

/-- The objects of an image with the first image tile of each. -/
def imageTiles (objs : List (Nat × Obj)) : List (Nat × Nat × Obj) :=
  (objs.foldl (fun (a : List (Nat × Nat × Obj) × Nat) x => (a.1 ++ [(a.2, x)], a.2 + x.2.tiles)) ([], 0)).1

/-- The poison of captured objects is in the image's Attic copy (R314). -/
def imagePoison (objs : List (Nat × Obj)) : List (Nat × Nat) :=
  (imageTiles objs).flatMap fun x => x.2.2.poison.map fun p => (homeAttic, 16384 * x.1 + p)

/-- CKPT_CAPTURE: the image object is created in the Attic and holds the objects and the job state of this instant. -/
def Mod.ckptCapture (m : Mod) (job : Nat) : Mod :=
  match m.job? job with
  | none => m
  | some j =>
    match j.ckpt with
    | none => m
    | some k =>
      if k.image.isSome || !m.atBoundary job then m
      else if m.attic.readOnly then m.ckptFail job k stAtticReadOnly 0
      else match m.badHandle job k.handles with
        | some i => m.ckptFail job k stInvalidHandle (4 * i)
        | none =>
          let objs := k.handles.filterMap fun h => (m.obj? h).map fun o => (h, o)
          let tiles := max 1 (objs.foldl (fun a x => a + x.2.tiles) 0)
          match m.addObj { job := job, fmt := 8, rows := 1024 * tiles, cols := 1024, image := true, copies := imagePoison objs } with
          | none => m.ckptFail job k stObjTableFull 0
          | some (m', h) =>
            match m'.placeImage h tiles with
            | none => m.ckptFail job k stNoSpace 0
            | some m =>
              let m := objs.foldl (fun m x => m.readTiles x.1 x.2.allTiles) m
              let m := m.atcCnt 0x30 (1048576 * tiles)
              let im : Image := {
                obj := h
                job := job
                step := j.step
                objs := objs
                layers := m.layersIn job k.lo k.hi
                scheds := m.schedsIn job k.schedMask}
              { m with images := m.images ++ [{ im with record := m.attic.appended }] }.onJob job fun j =>
                { j with ckpt := some { k with image := some h, step := j.step } }
def execCkptCapture (job : JobId) (s : State) : Host.Outcome State Fault Refusal := run (fun m => m.ckptCapture job.toNat) s

/-- CKPT_DURABLE: a complete copy stands in the Attic and its journal records are on NAND (R371). -/
def Mod.ckptDurable (m : Mod) (job : Nat) : Mod :=
  match (m.job? job).bind (·.ckpt) with
  | none => m
  | some k =>
    match k.image with
    | none => m
    | some h =>
      if m.images.any fun (x : Image) => x.obj = h && decide (m.attic.onNand < x.record) then m
      else
        let m := { m with images := m.images.map fun (x : Image) => if x.obj = h then { x with durable := true } else x }
        let m := m.onJob job fun j => { j with ckpt := none }
        (m.reply k.queue k.cmdId stOK 0 [(16, 4, h), (24, 8, k.step)]).closeIfDue job
def execCkptDurable (job : JobId) (s : State) : Host.Outcome State Fault Refusal := run (fun m => m.ckptDurable job.toNat) s

/-! ### CKPT_RESTORE (R558) -/

/-- The sectors of an image that are poisoned in the copies which a restore reads stay so in the restored object, whose first
tile is image tile t0 (R314, R381). -/
def Mod.restorePoison (m : Mod) (im t0 h : Nat) (o : Obj) : Mod :=
  match m.objAny im with
  | none => m
  | some i =>
    ((i.poisonHere fun t => m.homeOf im t).filter fun p => decide (t0 ≤ p / 16384 ∧ p / 16384 < t0 + o.tiles)).foldl (fun m p =>
      { m with free := m.free + 8 }.onObj h fun o => o.poisonSector (p / 16384 - t0) (p % 16384) m.free) m

/-- A new object for each of the image, with its contents, history and scales. -/
def Mod.restoreObjs (m : Mod) (job im : Nat) : List (Nat × Nat × Obj) → List (Nat × Nat) → Except Nat (Mod × List (Nat × Nat))
  | [], map => .ok (m, map)
  | (t0, old, o) :: rest, map =>
    match m.create { o with
      job := job
      pending := 0
      stepScale := none
      written := false
      fixedTiles := []
      fallback := false
      restored := true
      poison := [] } with
    | .error st => .error st
    | .ok (m, h) =>
      let m := (m.readTiles im (o.allTiles.map (· + t0))).writtenTiles h o.allTiles
      (m.restorePoison im t0 h o).restoreObjs job im rest (map ++ [(old, h)])

def translate (map : List (Nat × Nat)) (h : Nat) : Nat := match map.find? fun x => x.1 = h with | some x => x.2 | none => 0

/-- A saved layer entry is bound again: every field of Table 8.2, root validity and the watch's RUN and latch, with its
handles translated; its other fields stay as the entry has them. -/
def Layer.restore (y s : Layer) (job : Nat) (map : List (Nat × Nat)) : Layer :=
  { s with
    job := job
    pend := []
    guardCnt := y.guardCnt
    skipCnt := y.skipCnt
    stepBad := 0
    stepN := 0
    updating := 0
    cfg := { s.cfg with
      objs := s.cfg.objs.map fun h => if isNull h then h else translate map h
      frozen := y.cfg.frozen
      passThrough := y.cfg.passThrough
      actFmt := y.cfg.actFmt
      uwArm := y.cfg.uwArm
      uwThresh := y.cfg.uwThresh
      uwK := y.cfg.uwK
      thinRank := y.cfg.thinRank } }

def Mod.restoreImage (m : Mod) (job : Nat) (im : Image) : Except Nat (Mod × List (Nat × Nat)) :=
  if im.layers.any fun x => (m.layer! x.1).owner ≠ 0 ∧ (m.layer! x.1).owner ≠ job then .error stLayerInUse
  else if im.scheds.any fun x => let s := Tab.get ({} : Sched) m.upd.scheds x.1; s.owner ≠ 0 ∧ s.owner ≠ job then .error stSched
  else match m.restoreObjs job im.obj (imageTiles im.objs) [] with
    | .error st => .error st
    | .ok (m, map) =>
      let m := im.layers.foldl (fun m x => m.onLayer x.1 fun y => y.restore x.2 job map) m
      let scheds := im.scheds.foldl (fun (t : Tab Sched) x => Tab.put t x.1 { x.2 with job := job, pend := none }) m.upd.scheds
      let m := { m with upd := { m.upd with scheds := scheds } }
      .ok (m.onJob job fun j => { j with step := im.step }, map)

def Mod.ckptRestore (m : Mod) (q : Nat) (p : Packet) : Mod :=
  let job := pktJob p
  let h := pkt p 16 4
  if (m.run? job).isSome then m.reply q (pktId p) stStepBusy
  else match m.obj? h with
    | none => m.reply q (pktId p) stInvalidHandle 16
    | some _ =>
      match m.images.find? fun x => x.obj = h && x.durable && (x.job = 0 || x.job = job) with
      | none => m.reply q (pktId p) stImageMismatch
      | some im =>
        match m.restoreImage job im with
        | .error st => m.reply q (pktId p) st
        | .ok (m, map) =>
          let m := m.hostWrite (pkt p 24 8) (map.flatMap fun x => leBytes 4 x.1 ++ leBytes 4 x.2)
          let m := if bit (pkt p 20 1) 0 then m.freeObj h else m
          m.drive.reply q (pktId p) stOK 0 [(16, 4, map.length), (24, 8, im.step)]
def execCkptRestore (q : Queue) (p : Packet) (s : State) : Host.Outcome State Fault Refusal :=
  run (fun m => m.command 0x31 q p fun m => m.ckptRestore q p) s

/-! ### SNAPSHOT_EXPORT (R514 to R519) -/

/-- Bytes of a layer's packed weights in MASTER_FMT, and where the next layer starts. -/
def Mod.weightBytes (m : Mod) (l : Nat) : Nat :=
  match m.objAny (m.layer! l).cfg.weight with | some o => o.rows * o.cols * (fmtBits o.fmt / 8) | none => 0
/-- Bytes of a tile that hold elements, in whole sectors. -/
def Obj.dataBytes (o : Obj) (t : Nat) : Nat :=
  let a := o.tileAt t
  min 1024 (o.rows - a.1) * (cdiv (min (tileWidth o.fmt) (o.cols - a.2) * fmtBits o.fmt) 512 * 64)
/-- The layers of a range that hold weights of the job. -/
def Mod.snapLayers (m : Mod) (job lo hi : Nat) : List Nat :=
  ((m.layersIn job lo hi).filter fun x => (m.objOfJob x.2.cfg.weight job).isSome).map (·.1)
/-- The bytes that a host export fills: each layer at the next multiple of 4,096 after the one before. -/
def Mod.snapRoom (m : Mod) (ls : List Nat) : Nat := ls.foldl (fun a l => cdiv a 4096 * 4096 + m.weightBytes l) 0

def Mod.snapshotExport (m : Mod) (q : Nat) (p : Packet) : Mod :=
  let job := pktJob p
  let lo := pkt p 16 2
  let hi := pkt p 18 2
  let link : Bool := decide (pkt p 20 1 = 1)
  let need := if link then 4 * (hi + 1 - lo) else m.snapRoom (m.snapLayers job lo hi)
  if ((m.job? job).bind (·.snap)).isSome then m.reply q (pktId p) stSnapshotBusy
  else if pkt p 32 8 < need then m.reply q (pktId p) stInvalidField 32
  else
    let x : SnapExp := {
      queue := q
      cmdId := pktId p
      lo := lo
      hi := hi
      link := link
      vc := pkt p 21 1
      syncObj := pkt p 22 1
      syncCore := pkt p 23 1
      addr := pkt p 24 8
      len := pkt p 32 8
      dstChip := pkt p 40 4
      dstJob := pkt p 44 2
      id := m.ids }
    ({ m with ids := m.ids + 1 }.onJob job fun j => { j with snap := some x }).hold q
def execSnapshotExport (q : Queue) (p : Packet) (s : State) : Host.Outcome State Fault Refusal :=
  run (fun m => m.command 0x32 q p fun m => m.snapshotExport q p) s

/-- SNAPSHOT_CAPTURE: from this boundary on every layer of the range is read as the last update left it. -/
def Mod.snapCapture (m : Mod) (job : Nat) : Mod :=
  match (m.job? job).bind (·.snap) with
  | none => m
  | some x =>
    if x.captured.isSome || !m.atBoundary job then m
    else m.onJob job fun j => { j with snap := some { x with captured := some j.step, unread := m.snapLayers job x.lo x.hi } }
def execSnapshotCapture (job : JobId) (s : State) : Host.Outcome State Fault Refusal := run (fun m => m.snapCapture job.toNat) s

/-- The context number of an export's packets. -/
def snapCtx (id : Nat) : Nat := 2 ^ 40 + id

/-- The SNAPSHOT packets of a layer (Table 14.2): up to 8,192 data bytes each. -/
def snapPkts (x : SnapExp) (l dst w n : Nat) (final : Bool) : List OutPkt :=
  let n := cdiv n 8 * 8
  (List.range (cdiv n 8192)).map fun i =>
    let k := min 8192 (n - 8192 * i)
    let data := byf w (8192 * i) k
    let sum := ((List.range (k / 8)).foldl (fun a j => a + byf data (8 * j) 8) 0) % 2 ^ 64
    let last := final && i + 1 = cdiv n 8192
    let hd := pack [(0, 4, x.id), (4, 2, l), (6, 1, b2n last), (8, 4, dst), (12, 4, k), (16, 8, 8192 * i), (24, 8, sum)]
    { dst := x.dstChip, job := x.dstJob, vc := x.vc, kind := kSnapshot, body := hd + data * 2 ^ 256, len := 32 + k, ctx := snapCtx x.id }

/-- The next unread layer of an export is read from its home, in MASTER_FMT: to host memory, or into packets. -/
def Mod.snapRead (mem : List Host.Cell) (m : Mod) (job : Nat) : Mod :=
  match (m.job? job).bind (·.snap) with
  | none => m
  | some x =>
    match (if x.status = 0 && x.captured.isSome then x.unread else []) with
    | [] => m
    | l :: rest =>
      match m.objAny (m.layer! l).cfg.weight with
      | none => m.onJob job fun j => { j with snap := some { x with unread := rest } }
      | some o =>
        match o.poison with
        | p :: _ =>
          let h := (m.layer! l).cfg.weight
          let m := m.poisonRead job h (p / 16384) (p % 16384) (m.extsOf h (p / 16384)).head?
          (m.onJob job fun j => { j with snap := some { x with status := stMemPoison } }).stopStep job stMemPoison 0
        | [] =>
          let n := m.weightBytes l
          let b := fmtBits o.fmt
          let w := (List.range (o.rows * o.cols)).foldr (fun i a => a * 2 ^ b + Tab.get 0 o.elems i) 0
          let m := o.allTiles.foldl (fun m t => match (m.extsOf (m.layer! l).cfg.weight t).head? with
            | some e =>
              if isCellar e.home then m.stackBytes (e.home - 64) 4 (o.dataBytes t)
              else if e.home = homeAttic then (m.atcRead (e.frame + (t - e.tile))).atcCnt 0x28 (o.dataBytes t) else m
            | none => m) m
          let at_ := if x.link then 0 else ((m.snapLayers job x.lo x.hi).filter fun i => decide (i < l)).foldl
            (fun a i => cdiv (a + m.weightBytes i) 4096 * 4096) 0
          let m := if x.link then
              (snapPkts x l (Memory.readN mem (x.addr + 4 * (l - x.lo)) 4) w n rest.isEmpty).foldl (fun m p => m.send p) m
            else m.hostWrite (x.addr + at_) (leBytes n w)
          m.onJob job fun j => { j with snap := some { x with unread := rest, pos := l, bytes := x.bytes + n } }

/-- An export completes: event 0x8060, its reply. -/
def Mod.finishSnap (m : Mod) (job : Nat) (x : SnapExp) (step : Nat) : Mod :=
  let m := (m.onJob job fun j => { j with snap := none }).ev 0x8060 0
    [(0, 2, job), (2, 8, step), (10, 8, x.bytes), (18, 1, x.status)]
  (m.reply x.queue x.cmdId x.status (if x.status = stPartnerLost then x.dstChip else 0) [(16, 8, step), (24, 8, x.bytes)]).closeIfDue job

/-- SNAPSHOT_DONE: every packet is acknowledged, or the last host write is visible; or the export has failed. -/
def Mod.snapDone (m : Mod) (job : Nat) : Mod :=
  match (m.job? job).bind (·.snap) with
  | none => m
  | some x =>
    match x.captured with
    | none => if x.status = 0 then m else m.finishSnap job x 0
    | some step =>
      if x.status ≠ 0 ∨ (x.unread.isEmpty ∧ (!x.link ∨ m.allAcked (snapCtx x.id))) then m.finishSnap job x step else m
def execSnapshotDone (job : JobId) (s : State) : Host.Outcome State Fault Refusal := run (fun m => m.snapDone job.toNat) s

/-! ### CORE_FENCE and CORE_UNFENCE -/

/-- Fencing at a step boundary: no attempt is abandoned. -/
def Mod.fenceNow (m : Mod) (c : Nat) : Mod :=
  match m.deferFence.find? fun d => d.1 = c with
  | none => m
  | some d =>
    if (m.core! c).fencing.isSome then m
    else if (m.core! c).fenced || decide (m.liveCores.length ≤ 1) then
      ({ m with deferFence := m.deferFence.erase d }).replyLate d.2.1 d.2.2 stCoreState
    else if m.allAtBoundary then m.startFence c 1 0 else m

def Mod.coreFence (m : Mod) (q : Nat) (p : Packet) : Mod :=
  let c := pkt p 16 1
  if !m.liveCores.contains c || decide (m.liveCores.length ≤ 1) then m.reply q (pktId p) stCoreState
  else ({ m with deferFence := m.deferFence ++ [(c, q, pktId p)] }.hold q).fenceNow c
def execCoreFence (q : Queue) (p : Packet) (s : State) : Host.Outcome State Fault Refusal :=
  run (fun m => m.command 0x48 q p fun m => m.coreFence q p) s
def execDeferredCoreFence (c : Core) (s : State) : Host.Outcome State Fault Refusal := run (fun m => m.fenceNow c) s

def Mod.coreUnfence (m : Mod) (q : Nat) (p : Packet) : Mod :=
  let c := pkt p 16 1
  if !(m.core! c).fenced || m.exhausted c then m.reply q (pktId p) stCoreState
  else { m with deferUnfence := m.deferUnfence ++ [(c, q, pktId p)] }.hold q
def execCoreUnfence (q : Queue) (p : Packet) (s : State) : Host.Outcome State Fault Refusal :=
  run (fun m => m.command 0x49 q p fun m => m.coreUnfence q p) s

/-- DEFERRED_CORE_UNFENCE: the core powers up; `failing` is a Pantry bank that fails the self-test of R332. -/
def Mod.unfenceNow (m : Mod) (c : Nat) (failing : Option Nat) : Mod :=
  match m.deferUnfence.find? fun d => d.1 = c with
  | none => m
  | some d =>
    if !m.allAtBoundary then m
    else
      let m := { m with deferUnfence := m.deferUnfence.erase d }
      if !(m.core! c).fenced || m.exhausted c then m.replyLate d.2.1 d.2.2 stCoreState
      else (m.unfence c failing).replyLate d.2.1 d.2.2 stOK
def execDeferredCoreUnfence (c : Core) (failing : Option (Fin 64)) (s : State) : Host.Outcome State Fault Refusal :=
  run (fun m => m.unfenceNow c (failing.map (·.val))) s

/-! ### SYNC_FORCE -/

def Mod.syncForce (m : Mod) (q : Nat) (p : Packet) : Mod :=
  let c := pkt p 16 1
  let i := pkt p 17 1
  let v := pkt p 20 4
  let o := m.sync! c i
  if !m.dbgOpen then m.reply q (pktId p) stDebugLocked
  else if o.job = 0 then m.reply q (pktId p) stSyncNotBound
  else if o.limit < v then m.reply q (pktId p) stInvalidField 20
  else
    let m := (m.signal c i true v).onCore c fun x => { x with synForced := true }
    let m := m.ev 0x6030 0 [(0, 1, c), (1, 1, i), (2, 2, o.job), (4, 4, o.value), (8, 4, v)]
    (m.settle c).reply q (pktId p) stOK 0 [(16, 4, o.value)]
def execSyncForce (q : Queue) (p : Packet) (s : State) : Host.Outcome State Fault Refusal :=
  run (fun m => m.command 0x5C q p fun m => m.syncForce q p) s

end Sys2Proof.Machine
end

