-- ==== Sys2Proof/Machine/Ports.lean ====
section
/-! DEFINITION. Link ports (R417 to R429, R436): lanes, training, flits and replay, CONTROL messages, a port that goes DOWN
with what follows from it. Every flit that leaves stands in `flits` beside its port. -/
namespace Sys2Proof.Machine

/-! ### Connectors and fibres (R18, R693) -/

/-- The optical engine of a port, and the multi-fibre connector that it serves. -/
def engineOf (p : Nat) : Nat := p / 4
/-- The fibres, 1 to 32, that carry lane `l` of a port at its connector (Table 21.6). -/
def txFibre (p l : Nat) : Nat := 1 + 4 * (p % 4) + l
def rxFibre (p l : Nat) : Nat := 17 + 4 * (p % 4) + l

/-! ### Lanes (R419, R420) -/

def allHealthy (h : Nat) (ls : List Nat) : Bool := ls.all fun i => bit h i
/-- The lanes a port uses where `h` marks the lanes healthy at both ends. -/
def lanesFor (h : Nat) : List Nat :=
  if allHealthy h [0, 1, 2, 3] then [0, 1, 2, 3]
  else if allHealthy h [0, 1] then [0, 1]
  else if allHealthy h [2, 3] then [2, 3]
  else ((List.range 4).find? fun i => bit h i).toList
/-- The healthy lanes that this end advertises, while it trains and in LANE_HEALTH. -/
def PortSt.advertised (x : PortSt) : Nat := 15 - x.failed % 16
def PortSt.healthy (x : PortSt) : Nat := x.peerLanes % 16 &&& x.advertised
def PortSt.newWidth (x : PortSt) : Nat := (lanesFor x.healthy).length

/-- The optical engines are lit: from LINK_INIT on, unless the lanes are dark (R608, R618). -/
def Mod.lit (m : Mod) : Bool := !m.lnk.dark && (m.phase = .linkInit || m.serving)

/-! ### CONTROL flits that a port sends (Table 12.22) -/

/-- LNK_VCCRED as the port trains with it: 0 is taken as 1; the defaults where the sum exceeds 256 (Table 12.16). -/
def PortSt.trainAlloc (x : PortSt) : List Nat :=
  let a := x.vccred.map fun v => max 1 v
  if 256 < a.foldl (· + ·) 0 then List.replicate 8 32 else a
def Mod.sendCreditInit (m : Mod) (p : Nat) : Mod :=
  let x := m.port! p
  m.putFlit p 4 false (1 + 256 * x.alloc.foldr (fun v a => v + 256 * a) 0)
def Mod.sendLaneHealth (m : Mod) (p : Nat) : Mod :=
  m.putFlit p 4 false (2 + 256 * (m.port! p).advertised)
def Mod.sendRetrain (m : Mod) (p cause : Nat) : Mod := m.putFlit p 4 false (3 + 256 * cause)

/-! ### Training and retraining -/

/-- Training or a retrain has ended: the widest width healthy at both ends, the credits agreed anew, so that the flits still held in
either buffer owe none (R419, R426, R427). -/
def Mod.trained (m : Mod) (p : Nat) : Mod :=
  let free := fun (x : InPkt) => if x.port = p then { x with owe := 0 } else x
  let m := { m with lnk := { m.lnk with
      inbox := m.lnk.inbox.map free
      skewed := m.lnk.skewed.map fun (y : SkewPkt) => { y with pkt := free y.pkt } } }
  let m := m.onPort p fun x => { x with
    link := .up
    used := lanesFor x.healthy
    badRetrains := 0
    alloc := x.trainAlloc
    credits := List.replicate 8 0
    owed := List.replicate 8 0
    replay := x.replay.map fun (f : HeldFlit) => { f with paid := false }
    asm := x.asm.map fun (a : Nat × Partial) => (a.1, { a.2 with owe := 0 })
    gotCredit := false
    ctrlLeft := 2
    trainedAt := m.now }
  (m.sendCreditInit p).sendLaneHealth p

def Mod.startRetrain (m : Mod) (p : Nat) : Mod :=
  m.onPort p fun x => { x with
    link := .retraining
    retrains := min 255 (x.retrains + 1)
    retrainAt := m.now
    resends := 0 }

/-- PORT_UP: the port trains from DOWN at the widest width healthy at both ends. -/
def Mod.portUp (m : Mod) (p peer : Nat) : Mod :=
  let x := { m.port! p with peerLanes := peer }
  if x.link ≠ .training || x.newWidth = 0 || !m.lit then m
  else
    let m := m.setPort p { x with
      retrains := 0
      txLseq := 0
      rxLseq := 0
      turns := []
      asm := []
      replay := []
      waiting := []
      resends := 0
      delays := [] }
    (m.trained p).ev 0x7001 0 [(0, 1, p), (1, 1, x.newWidth)]
def execPortUp (p : Port) (peerLanes : BitVec 4) (s : State) : Host.Outcome State Fault Refusal :=
  run (fun m => m.portUp p peerLanes.toNat) s

/-- PORT_TRAIN_RETRY: a DOWN port tries again, its failed lanes back in service (R420, R421). -/
def execPortTrainRetry (p : Port) (s : State) : Host.Outcome State Fault Refusal :=
  run (fun m => if (m.port! p).link = .down ∧ (m.port! p).holdDown = false ∧ m.lit then
      m.onPort p fun x => { x with link := .training, failed := 0 }
    else m) s

/-- LANE_FAIL: event 0x7003 and a retrain at the next narrower width where the lane is in use. A port that trains or
retrains carries no flit and goes on; it no longer counts the lane healthy. -/
def Mod.laneFail (m : Mod) (p lane : Nat) : Mod :=
  let x := m.port! p
  if x.link = .down ∨ bit x.failed lane then m
  else
    let y := { x with failed := x.failed + 2 ^ lane }
    let m := m.setPort p y
    let note := fun (m : Mod) =>
      if x.used.contains lane then m.ev 0x7003 1 [(0, 1, p), (1, 1, lane), (2, 1, y.newWidth)] else m
    if x.link = .training then m
    else if x.link = .retraining then note m
    else
      let m := m.sendLaneHealth p
      note (if x.used.contains lane then (m.sendRetrain p 1).startRetrain p else m)
def execLaneFail (p : Port) (lane : Fin 4) (s : State) : Host.Outcome State Fault Refusal := run (fun m => m.laneFail p lane) s

/-! ### Replay (R424) -/

/-- Resends every held flit that has left since the port trained, where the port sends at all (R441); sixteen resends in a row cause a
retrain. -/
def Mod.resend (m : Mod) (p : Nat) : Mod :=
  let x := m.port! p
  let fs := x.replay.filter fun f => f.paid
  match if x.sends then fs else [] with
  | [] => m
  | f :: _ =>
    let m := ((m.onPort p fun x => { x with resends := x.resends + 1, ackAt := m.now }).portCnt p 0x218 1).portCnt p 0x200 fs.length
    let m := fs.foldl (fun m f => m.putHeld p f) m
    if 16 ≤ x.resends + 1 then
      (((m.ev 0x7004 1 [(0, 1, p), (1, 2, f.lseq)]).sendRetrain p 2)).startRetrain p
    else m

/-- The peer expects ACK_LSEQ: flits before it are released; a NAK asks for the rest again; credits return. -/
def Mod.flitAck (m : Mod) (p : Nat) (f : Flit) : Mod :=
  let x := m.port! p
  let ack := f.ackLseq
  let left := x.replay.filter fun h => decide ((h.lseq + 4096 - ack) % 4096 < 2048)
  let moved := decide (left.length < x.replay.length)
  let m := m.onPort p fun x => { x with
    replay := left
    resends := if moved then 0 else x.resends
    ackAt := if moved then m.now else x.ackAt
    credits := x.credits.set f.crVc (x.credits.getD f.crVc 0 + f.crCount) }
  let m := if f.nak then m.resend p else m
  m.pumpPort p

def crcOk (f : Flit) : Bool := f.crc.toNat = flitCrc f.hdr.toNat f.body
/-- A flit whose CRC fails or whose TYPE is invalid is discarded whole (R423). -/
def badFlit (f : Flit) : Bool := !crcOk f || decide (4 < f.type)
/-- MSG of a CONTROL flit, and whether all else of its payload is as Table 12.22 names it. -/
def ctrlMsg (f : Flit) : Nat := byf f.body 0 1
def ctrlNamed (f : Flit) : Bool :=
  match ctrlMsg f with
  | 1 => f.body / 2 ^ 72 = 0
  | 2 => decide (byf f.body 1 1 < 16) && f.body / 2 ^ 16 = 0
  | 3 => (byf f.body 1 1 = 1 || byf f.body 1 1 = 2) && f.body / 2 ^ 16 = 0
  | _ => false
def Mod.sendNak (m : Mod) (p : Nat) : Mod := m.putFlit p 0 true 0

/-- The order that a port's packets of a channel are delivered in: its bundle's, or its own. -/
def PortSt.inKey (x : PortSt) (p vc : Nat) : Nat := if x.actEn then 512 + x.actId * 8 + vc else p * 8 + vc

/-- How far a BSEQ lies past the one that a bundle's channel delivers next; 32,768 and more are past already. -/
def Mod.bseqAhead (m : Mod) (k bseq : Nat) : Nat := (bseq + 65536 - Tab.get 0 m.lnk.rxBseq k) % 65536

/-- The packet of a bundle's channel that comes next: the one with the BSEQ awaited, or, where one has waited longer than the 1 µs of
skew that the reassembly buffer tolerates, the first that is there: the gap is given up (R435; log entry 78). -/
def Mod.nextBundled (m : Mod) (k : Nat) : Option SkewPkt :=
  let mine := m.lnk.skewed.filter fun y => y.pkt.key = k
  let first := mine.foldl (fun (b : Option SkewPkt) y => match b with
    | some z => if m.bseqAhead k y.bseq < m.bseqAhead k z.bseq then some y else some z
    | none => some y) none
  if mine.any fun y => decide (y.at_ + 1000 < m.now) then first else mine.find? fun y => m.bseqAhead k y.bseq = 0

/-- The packets of a bundle's channel that now follow in BSEQ order are whole (R435). -/
def Mod.inOrder (k : Nat) : Nat → Mod → Mod
  | 0, m => m
  | fuel + 1, m =>
    match m.nextBundled k with
    | none => m
    | some y => Mod.inOrder k fuel { m with lnk := { m.lnk with
        skewed := m.lnk.skewed.erase y
        rxBseq := Tab.put m.lnk.rxBseq k ((y.bseq + 1) % 65536)
        inbox := m.lnk.inbox ++ [y.pkt] } }

/-- A whole packet: where it has as many flits as its LENGTH says it stands in `inbox`, and its own row is its delivery (log entry 10).
A bundle takes its members' packets in BSEQ order, each BSEQ once. -/
def Mod.wholePacket (m : Mod) (p vc : Nat) (a : Partial) : Mod :=
  let x := m.port! p
  let k := x.inKey p vc
  let pkt : InPkt := { port := p, vc := vc, key := k, owe := a.owe, epoch := a.epoch, bytes := a.bytes }
  let seen := decide (32768 ≤ m.bseqAhead k a.bseq) || m.lnk.skewed.any fun y => y.pkt.key = k && y.bseq = a.bseq
  if hLen a.bytes ≠ a.n || (x.actEn && seen) then m.freeBuf p vc a.owe
  else if x.actEn then
    let m := { m with lnk := { m.lnk with skewed := m.lnk.skewed ++ [{ bseq := a.bseq, at_ := m.now, pkt := pkt }] } }
    Mod.inOrder k m.lnk.skewed.length m
  else { m with lnk := { m.lnk with inbox := m.lnk.inbox ++ [pkt] } }

/-- An accepted DATA flit joins its packet in the receive buffer: one that its port has begun, or, resent after the loss of a bundle
member, one begun there (R436). A flit that belongs to no packet begun is of a packet that was lost, and is dropped. -/
def Mod.assemble (m : Mod) (p : Nat) (f : Flit) : Mod :=
  let x := m.port! p
  let k := x.inKey p f.vc
  let begun := if f.sop then some { bseq := f.bseq, epoch := m.lnk.epoch } else
    match Tab.find x.asm f.vc with
    | some a => some a
    | none => Tab.find m.lnk.orphans k
  match begun with
  | none => m.freeBuf p f.vc 1
  | some a =>
    let a := { a with n := a.n + 1, owe := a.owe + 1, bytes := a.bytes + 2 ^ (1952 * a.n) * f.body }
    let m := { m with lnk := { m.lnk with orphans := Tab.del m.lnk.orphans k } }
    if f.eop then (m.onPort p fun x => { x with asm := Tab.del x.asm f.vc }).wholePacket p f.vc a
    else m.onPort p fun x => { x with asm := Tab.put x.asm f.vc a }

/-- DATA_FLIT_RECEIVE: an accepted flit takes its place in the receive buffer until its packet leaves it (R427). -/
def Mod.dataFlit (m : Mod) (p : Nat) (f : Flit) : Mod :=
  if (m.port! p).link ≠ .up then m
  else if badFlit f then (m.portCnt p 0x210 1).sendNak p
  else if f.type ≠ 1 then (if f.type = 4 && !ctrlNamed f then m.portCnt p 0x210 1 else m)
  else
    let m := m.flitAck p f
    let x := m.port! p
    let ahead := (f.lseq + 4096 - x.rxLseq) % 4096
    if ahead = 0 then ((m.onPort p fun x => { x with rxLseq := (x.rxLseq + 1) % 4096 }).portCnt p 0x208 1).assemble p f
    else if 2048 ≤ ahead then m
    else m.sendNak p
def execDataFlitReceive (p : Port) (f : Flit) (s : State) : Host.Outcome State Fault Refusal := run (fun m => m.dataFlit p f) s

/-- IDLE_FLIT_RECEIVE. -/
def execIdleFlitReceive (p : Port) (f : Flit) (s : State) : Host.Outcome State Fault Refusal :=
  run (fun m => if (m.port! p).link ≠ .up then m else if badFlit f then m.portCnt p 0x210 1
    else if f.type = 0 then m.flitAck p f else m) s

/-- LINK_REPLAY_TIMEOUT: ACK_LSEQ has not advanced for 5 µs while flits are held. -/
def execLinkReplayTimeout (p : Port) (s : State) : Host.Outcome State Fault Refusal :=
  run (fun m => if (m.port! p).link = .up ∧ (m.port! p).ackAt + 5000 ≤ m.now then m.resend p else m) s

/-- RETRAIN_DONE: replay resumes from the oldest held flit as the new credits come (R420, R426); a failed retrain is followed by another (R421). -/
def Mod.retrainDone (m : Mod) (p : Nat) (ok : Bool) : Mod :=
  let x := m.port! p
  if x.link ≠ .retraining || decide (3 ≤ x.badRetrains) then m
  else if !ok || x.newWidth = 0 then
    (if 2 ≤ x.badRetrains then m else m.startRetrain p).onPort p fun x => { x with badRetrains := x.badRetrains + 1 }
  else m.trained p
def execRetrainDone (p : Port) (ok : Bool) (s : State) : Host.Outcome State Fault Refusal := run (fun m => m.retrainDone p ok) s

/-! ### CONTROL messages (R426) -/

/-- A CONTROL flit: its header acts as any flit's, then its message. One with another MSG, or with a byte set that Table 12.22 does
not name, is discarded whole and counted, as an invalid TYPE is; a flit of another message or TYPE is not this row's. -/
def Mod.control (m : Mod) (p msg : Nat) (f : Flit) (act : Mod → Mod) : Mod :=
  if (m.port! p).link ≠ .up then m
  else if badFlit f || (f.type = 4 && !ctrlNamed f) then m.portCnt p 0x210 1
  else if f.type ≠ 4 || ctrlMsg f ≠ msg then m
  else act (m.flitAck p f)

/-- CREDIT_INIT: the figures of the first valid copy after training count. -/
def Mod.creditInit (m : Mod) (p : Nat) (f : Flit) : Mod :=
  if (m.port! p).gotCredit then m
  else (m.onPort p fun x => { x with gotCredit := true, credits := (List.range 8).map fun i => 16 * byf f.body (1 + i) 1 }).pumpPort p
def execCreditInit (p : Port) (f : Flit) (s : State) : Host.Outcome State Fault Refusal :=
  run (fun m => m.control p 1 f fun m => m.creditInit p f) s

/-- LANE_HEALTH: the latest value counts at the next retrain. -/
def execLaneHealth (p : Port) (f : Flit) (s : State) : Host.Outcome State Fault Refusal :=
  run (fun m => m.control p 2 f fun m => m.onPort p fun x => { x with peerLanes := byf f.body 1 1 }) s

/-- RETRAIN: the port retrains at once. -/
def execRetrain (p : Port) (f : Flit) (s : State) : Host.Outcome State Fault Refusal :=
  run (fun m => m.control p 3 f fun m => m.startRetrain p) s

/-- CONTROL_REPEAT: the second and third copies, 1 µs apart. -/
def execControlRepeat (p : Port) (s : State) : Host.Outcome State Fault Refusal :=
  run (fun m =>
    let x := m.port! p
    if x.link = .up ∧ 0 < x.ctrlLeft ∧ x.trainedAt + 1000 * (3 - x.ctrlLeft) ≤ m.now then
      ((m.onPort p fun x => { x with ctrlLeft := x.ctrlLeft - 1 }).sendCreditInit p).sendLaneHealth p
    else m) s

/-- CREDIT_INIT_TIMEOUT: no valid CREDIT_INIT 20 µs after training. -/
def execCreditInitTimeout (p : Port) (s : State) : Host.Outcome State Fault Refusal :=
  run (fun m =>
    let x := m.port! p
    if x.link = .up ∧ x.gotCredit = false ∧ x.trainedAt + 20000 ≤ m.now then m.startRetrain p else m) s

/-! ### End to end, where a route fails (R447, R448) -/

def keyDst (k : Nat) : Nat := k / 8 / 4096
def keyJob (k : Nat) : Nat := k / 8 % 4096

/-- R448: event 0x7021; the chip is declared lost (R610). -/
def Mod.destUnreachable (m : Mod) (k : Nat) : Mod :=
  ((m.onTx k fun t => { t with unreachable := true, due := false }).ev 0x7021 0 [(0, 3, keyDst k), (3, 2, keyJob k)]).chipLost (keyDst k) 2

/-- While the hellos of an epoch run, a route whose first port still waits for its hello may yet come. -/
def Mod.mayCome (m : Mod) (dst : Nat) : Bool :=
  let firsts := (Tab.get [] m.lnk.routes dst).map fun r => (r.hops.headD (0, 0)).1
  let near := (List.range 64).filter fun p => (m.port! p).mapped && (m.port! p).expChip = dst
  m.lnk.helloQ.isSome && (firsts ++ near).any fun p =>
    (m.bundleOf p).any fun q => (m.port! q).verify = .waiting && ((m.port! q).link = .up || (m.port! q).link = .retraining)

/-- The body of a packet with its payload and CHECK anew. -/
def withData (body check data : Nat) : Nat := body % 2 ^ 192 + check * 2 ^ 192 + data * 2 ^ 256

/-- A retransmission re-forms the payload from its source: raw elements from the pinned object (R444), a leaf's lanes under the same
code (R487). What a member holds in STAGE_OBJ, and the control packets, leave as they were formed; so does a SNAPSHOT packet,
whose layer may have been updated since it was read (log entry 78). -/
def Mod.reform (m : Mod) (p : OutPkt) : OutPkt :=
  match p.src with
  | none => p
  | some (.raw h l n) => match m.objAny h with
    | none => p
    | some o =>
      let b := fmtBits o.fmt
      let eb := cdiv (b * n) 8
      let cs := if p.len = 32 + eb then [] else o.rawScales l n
      let data := (o.rawCodes l n).foldr (fun w acc => acc * 2 ^ b + w) 0 + cs.foldr (fun c acc => acc * 256 + c) 0 * 2 ^ (8 * eb)
      { p with body := withData p.body (wordSum data) data }
  | some (.lanes b) => match m.env? p.ctx with
    | none => p
    | some e =>
      let vs := if e.x.quenched then [] else m.srcBlock e b
      let ns := if e.p.fp32 then vs.map fun v => some ((convert 0 .rne v : Nat) : Int) else vs.map fun v => ssiIn v (byf p.body 3 1)
      let ls := padLanes (if ns.any Option.isNone then [] else ns.map fun n => n.getD 0)
      { p with body := withData p.body (laneCheck ls) (packLanes (laneBytes (byf p.body 2 1)) ls) }

/-- Retransmits every unacknowledged packet of a stream over a route (R447): event 0x7020 once per route change. -/
def Mod.retransmit (m : Mod) (k : Nat) (route : Nat) : Mod :=
  let t := m.tx! k
  match t.unacked with
  | [] => m
  | x0 :: _ =>
    let again := t.unacked.map fun x => { x with pkt := m.reform x.pkt, retx := true, route := route, sentAt := m.now }
    let m := m.onTx k fun t => { t with unacked := again, retx := t.retx + 1, oldestAt := m.now, route := route, due := false }
    let m := (m.lnkCnt 0x20 again.length)
    let m := { m with lnk := { m.lnk with sent := m.lnk.sent ++ again } }
    let m := again.foldl (fun m x => m.transmit x x.pkt.vc) m
    if route = t.route then m
    else m.ev 0x7020 0 [(0, 3, m.lnk.chip), (3, 2, x0.pkt.job), (5, 1, x0.pkt.vc), (6, 1, route), (7, 4, x0.seq), (11, 3, x0.pkt.dst)]

/-- Retransmits a stream by the first route left, or finds its destination unreachable: no route is left, or MAX_RETX
retransmissions have brought no advance (R448). -/
def Mod.reroute (m : Mod) (k : Nat) : Mod :=
  let t := m.tx! k
  if t.unacked.isEmpty || t.unreachable then m
  else if m.lnk.maxRetx ≤ t.retx then m.destUnreachable k
  else match m.pickRoute (keyDst k) t.badRoutes with
    | some r => m.retransmit k r
    | none => if m.mayCome (keyDst k) then m.onTx k fun t => { t with due := true } else m.destUnreachable k

/-- Streams that wait for a route and have none to come: their destinations are unreachable (R448). -/
def Mod.lostRoutes (m : Mod) : Mod :=
  (m.lnk.tx.filter fun (kt : Nat × TxStream) => kt.2.due && (m.pickRoute (keyDst kt.1) kt.2.badRoutes).isNone).foldl
    (fun m kt => m.reroute kt.1) m

/-! ### A port goes DOWN (R421, R436, R610) -/

/-- The flits of a bundle member that is lost or taken out go over the members left, BSEQ unchanged, all of a packet over one (R435,
R436); any other port discards them. -/
def Mod.moveFlits (m : Mod) (p : Nat) (fs : List HeldFlit) : Mod :=
  if !(m.port! p).actEn then m
  else
    let q := fun (vc : Nat) => m.pickMember p vc
    let m := fs.foldl (fun m f => match q f.vc with
      | some r => m.onPort r fun y => { y with waiting := y.waiting ++ [{ f with lseq := 0 }] }
      | none => m) m
    (m.bundleOf p).foldl (fun m r => m.pumpPort r) m

/-- The port's link and what hangs on it; a VERIFIED port leaves that state (Table 15.8 bit 2). What a bundle member had received of a
packet stays for the flits that are resent over another (R436). -/
def Mod.dropPort (m : Mod) (p : Nat) : Mod :=
  let x := m.port! p
  let was := x.verify = .verified
  let m := m.setPort p { x with
    link := .down
    used := []
    verify := if was then .waiting else x.verify
    replay := []
    waiting := []
    asm := []
    advHeard := false }
  let m := if was then m.async 2 else m
  let m := if !x.actEn then m else
    { m with lnk := { m.lnk with orphans := x.asm.foldl (fun t (a : Nat × Partial) =>
      Tab.put t (x.inKey p a.1) { a.2 with owe := 0 }) m.lnk.orphans } }
  m.moveFlits p (x.replay ++ x.waiting)

/-- The streams whose route in use begins at the port or its bundle. -/
def Mod.streamsVia (m : Mod) (p : Nat) : List Nat :=
  (m.lnk.tx.filter fun (kt : Nat × TxStream) =>
    !kt.2.unacked.isEmpty && !kt.2.unreachable && match m.firstHop (keyDst kt.1) kt.2.route 0 with
      | some h => h.1 = p || (m.bundleOf h.1).contains p
      | none => false).map (·.1)

def downCode : DownCause → Nat
  | .dark => 1 | .retrainsFailed => 2 | .retrainTooLong => 3

/-- What the loss of a port brings: retransmission by another route, the loss of the chip behind it. `via` are the streams
that used it. -/
def Mod.afterDown (m : Mod) (p : Nat) (via : List Nat) (wasVerified : Bool) (chip : Nat) : Mod :=
  let m := if m.hopUp p then m else via.foldl (fun m k => m.reroute k) m
  let left := (List.range 64).any fun q => (m.port! q).usable && (m.port! q).expChip = chip
  if wasVerified && !left then m.chipLost chip 1 else m

end Sys2Proof.Machine
end

