-- ==== Sys2Proof/Machine/TimeBase.lean ====
section
/-! DEFINITION. The time base (R450 to R460): beacons, path delay and offset, the election of the grandmaster, rate, lock,
holdover; TIME_JOIN. Stamps and offsets are in 1/256 ns. -/
namespace Sys2Proof.Machine

def tbCode : TbState → Nat
  | .free => 0 | .acquire => 1 | .locked => 2 | .holdover => 3 | .grandmaster => 4

/-- The counter in 1/256 ns. -/
def Mod.stamp (m : Mod) : Int := (m.now * 256 + m.frac : Nat)
def TimeB.following (t : TimeB) : Bool := t.state = .acquire || t.state = .locked
def clampRate (r : Int) : Int := max (-200000) (min 200000 r)

/-! ### TIME_JOIN (R459) -/

/-- Completes a command that holds its queue. -/
def Mod.replyHeld (m : Mod) (q status detail : Nat) (result : List (Nat × Nat × Nat)) : Mod :=
  match (m.q! q).cmd with
  | some c => m.reply q (pktId c.pkt) status detail result
  | none => m

/-- The waiting TIME_JOINs complete once the module is LOCKED or GRANDMASTER; for one whose timeout has come that is too late (R459,
R460). -/
def Mod.finishJoins (m : Mod) : Mod :=
  if m.tb.state = .locked ∨ m.tb.state = .grandmaster then
    m.tb.joins.foldl (fun m j => m.replyHeld j.1 (if m.now < j.2 then stOK else stTimeJoin) 0 [(16, 1, tbCode m.tb.state)])
      { m with tb := { m.tb with joins := [] } }
  else m

/-- Entry to LOCKED or GRANDMASTER: event 0x7030. -/
def Mod.tbEnter (m : Mod) (st : TbState) : Mod :=
  ({ m with tb := { m.tb with state := st } }.ev 0x7030 0 [(0, 1, tbCode st), (1, 3, m.tb.gm), (4, 1, m.tb.hops)]).finishJoins

/-! ### The grandmaster (R453, R454) -/

/-- A port's advertisement counts: VERIFIED, below 63 hops, its GM_SEQ live within 20 µs. -/
def Mod.liveAdv (m : Mod) (p : Nat) : Bool :=
  let x := m.port! p
  x.usable && x.advHeard && decide (x.advHops < 63) && decide (m.now ≤ x.advAt + 20000)
def Mod.liveAdvs (m : Mod) : List Nat := (List.range 64).filter fun p => m.liveAdv p
/-- The port that advertises a grandmaster with the fewest hops, the lowest among equals. -/
def Mod.bestPort (m : Mod) (gm : Nat) : Option Nat :=
  (m.liveAdvs.filter fun p => (m.port! p).advGm = gm).foldl (fun (b : Option Nat) p => match b with
    | none => some p
    | some a => if (m.port! p).advHops < (m.port! a).advHops then some p else some a) none

/-- Follows a port: a new grandmaster from ACQUIRE with event 0x7032. -/
def Mod.follow (m : Mod) (gm p : Nat) : Mod :=
  let x := m.port! p
  let t := { m.tb with
    gm := gm
    hops := x.advHops + 1
    parent := some p
    gmSeq := x.advSeq }
  if m.tb.following && m.tb.gm = gm then { m with tb := t }
  else
    let new := m.tb.state = .grandmaster ∨ m.tb.gm ≠ gm ∨ m.tb.state = .acquire
    let m := { m with tb := { t with state := .acquire, lockRun := 0, offsets := [], holdFrom := 0 } }
    if new then m.ev 0x7032 0 [(1, 3, gm), (4, 1, x.advHops + 1)] else m

/-- The election: the lower of the module's own identifier and the best grandmaster it hears. -/
def Mod.elect (m : Mod) : Mod :=
  if m.tb.state = .free then m
  else
    let best := m.liveAdvs.foldl (fun b p => min b (m.port! p).advGm) m.lnk.chip
    if best = m.lnk.chip then
      if m.tb.state = .grandmaster then m
      else { m with tb := { m.tb with gm := m.lnk.chip, hops := 0, parent := none, holdFrom := 0 } }.tbEnter .grandmaster
    else match m.bestPort best with
      | some p => m.follow best p
      | none => m

/-- The parent is lost: another port with the same grandmaster, else HOLDOVER with event 0x7031. -/
def Mod.loseParent (m : Mod) : Mod :=
  if !m.tb.following then m
  else match m.bestPort m.tb.gm with
    | some p => m.follow m.tb.gm p
    | none =>
      { m with tb := { m.tb with state := .holdover, parent := none, holdFrom := m.now, rho := clampRate m.tb.f, lockRun := 0 } }.ev
        0x7031 0 [(1, 3, m.tb.gm)]

/-- A port that no longer counts was the parent (R454). -/
def Mod.parentGone (m : Mod) (p : Nat) : Mod := if m.tb.parent = some p then m.loseParent else m

/-! ### Offsets (R452, R455, R458) -/

def insInt (x : Int) : List Int → List Int
  | [] => [x]
  | y :: ys => if x ≤ y then x :: y :: ys else y :: insInt x ys
/-- The median; of an even number the mean of the middle two. -/
def median (l : List Int) : Int :=
  let s := l.foldr insInt []
  let n := s.length
  if n = 0 then 0 else if n % 2 = 1 then s.getD (n / 2) 0 else (s.getD (n / 2 - 1) 0 + s.getD (n / 2) 0) / 2

/-- Bundle members whose path delay exceeds the least of their bundle by more than 1 µs leave it, and what they still had to send goes
over the others (R435). -/
def Mod.bundleSkew (m : Mod) (p : Nat) : Mod :=
  let ms := (m.bundleOf p).filter fun q => (m.port! q).usable && !(m.port! q).delays.isEmpty && !(m.port! q).bundleOut
  if !(m.port! p).actEn then m
  else match ms.map fun q => median (m.port! q).delays with
    | [] => m
    | d :: ds =>
      let least := ds.foldl min d
      ms.foldl (fun m q =>
        let skew := median (m.port! q).delays - least
        if 256000 < skew then
          let x := m.port! q
          let m := (m.setPort q { x with bundleOut := true, replay := [], waiting := [] }).moveFlits q (x.replay ++ x.waiting)
          m.ev 0x7012 0 [(0, 1, q), (1, 1, (m.port! q).actId), (2, 4, skew.toNat)]
        else m) m

/-- An offset from the parent: a forward step at the first after a commit, else the rate and the lock state. -/
def Mod.offset (m : Mod) (theta : Int) : Mod :=
  if m.tb.firstMeas ∧ 256000 < theta then
    { m with tb := { m.tb with
        firstMeas := false
        theta := theta
        stepped := true
        nanoTicks := m.tb.nanoTicks + theta.toNat * 1000000000 / 256 } }.ev 0x7033 0 [(0, 8, theta.toNat / 256)]
  else
    let os := m.tb.offsets ++ [(m.now, theta)]
    let os := os.drop (os.length - 64)
    let f := Config.rateEstimate os
    let run := if theta.natAbs ≤ 5120 then m.tb.lockRun + 1 else 0
    let m := { m with tb := { m.tb with
      firstMeas := false
      theta := theta
      offsets := os
      f := f
      rho := clampRate (f + theta * 15625 / 256)
      lockRun := min run 64 } }
    if m.tb.state = .acquire ∧ 64 ≤ run then m.tbEnter .locked
    else if m.tb.state = .locked ∧ 25600 < theta.natAbs then { m with tb := { m.tb with state := .acquire, lockRun := 0 } }
    else m

/-! ### Rows -/

/-- BEACON_SEND (Table 12.7). -/
def Mod.beaconSend (m : Mod) (p : Nat) : Mod :=
  let x := m.port! p
  let t := m.tb
  let gm := if t.following then t.gm + t.hops * 2 ^ 20 else m.lnk.chip
  let body := pack [(0, 8, m.now), (8, 1, m.frac), (9, 1, tbCode t.state), (12, 4, gm), (16, 8, t.gmSeq), (24, 8, m.lnk.epoch),
    (32, 8, x.lastTx), (40, 1, x.lastTxF), (48, 8, x.lastRx), (56, 1, x.lastRxF)]
  if x.link ≠ .up then m else m.putFlit p 2 false body
def execBeaconSend (p : Port) (s : State) : Host.Outcome State Fault Refusal := run (fun m => m.beaconSend p) s

/-- What a port hears of the grandmaster; modules that are FREE or in HOLDOVER advertise none. -/
def Mod.hear (m : Mod) (p : Nat) (b : BeaconBody) : Mod :=
  if b.tbState.toNat = 0 ∨ b.tbState.toNat = 3 then m.onPort p fun x => { x with advHeard := false }
  else m.onPort p fun x =>
    let moved := !x.advHeard || x.advGm ≠ b.gm.toNat || x.advSeq ≠ b.gmSeq.toNat
    { x with
      advHeard := true
      advGm := b.gm.toNat
      advHops := b.hops.toNat
      advSeq := b.gmSeq.toNat
      advAt := if moved then m.now else x.advAt }

/-- A parent that is FREE or in HOLDOVER advertises no grandmaster: the module takes another port or enters HOLDOVER (R454). An
election follows any other BEACON. -/
def Mod.heed (m : Mod) (p : Nat) (b : BeaconBody) : Mod :=
  let m' := m.hear p b
  if m.tb.following && m.tb.parent = some p && !(m'.port! p).advHeard then m'.loseParent else m'.elect

/-- BEACON_RECEIVE: the flit's header acts as any flit's (R422). -/
def Mod.beacon (m : Mod) (p : Nat) (hdr : W64) (b : BeaconBody) : Mod :=
  if (m.port! p).link ≠ .up then m
  else
    let m := (m.flitAck p { hdr := hdr, body := 0, crc := 0 }).onPort p fun x => { x with
      lastTx := b.txTime.toNat
      lastTxF := b.txFrac.toNat
      lastRx := m.now
      lastRxF := m.frac }
    if (m.port! p).verify ≠ .verified ∨ b.epoch.toNat ≠ m.lnk.epoch then m
    else
      let at_ := fun (t : W64) (f : Byte) => (t.toNat * 256 + f.toNat : Int)
      let t4 := m.stamp
      let t1 := at_ b.echoTx b.echoTxF
      let t3 := at_ b.txTime b.txFrac
      let d := ((t4 - t1) - (t3 - at_ b.echoRx b.echoRxF)) / 2
      let usable := decide (0 ≤ t4 - t1 ∧ t4 - t1 ≤ 2048000)
      let m := if usable then
          (m.onPort p fun x =>
            let ds := x.delays ++ [d]
            { x with delays := ds.drop (ds.length - 16) }).bundleSkew p
        else m
      let m := m.heed p b
      let m := if m.tb.parent = some p then { m with tb := { m.tb with gmSeq := (m.port! p).advSeq } } else m
      if usable && m.tb.following && m.tb.parent = some p then m.offset (t3 + d - t4) else m
def execBeaconReceive (p : Port) (b : BeaconFlit) (s : State) : Host.Outcome State Fault Refusal :=
  run (fun m => m.beacon p b.hdr b.body) s

/-- GM_SEQ_ADVANCE. -/
def execGmSeqAdvance (s : State) : Host.Outcome State Fault Refusal :=
  run (fun m => if m.tb.state = .grandmaster then { m with tb := { m.tb with gmSeq := (m.tb.gmSeq + 1) % 2 ^ 64 } } else m) s

/-- GM_LIVENESS_TIMEOUT: the parent's GM_SEQ has not advanced for 20 µs. -/
def execGmLivenessTimeout (s : State) : Host.Outcome State Fault Refusal :=
  run (fun m => match m.tb.parent with
    | some p => if m.liveAdv p then m else m.loseParent
    | none => m) s

/-- TIME_JOIN: FREE to ACQUIRE; it holds its queue until the module is LOCKED or GRANDMASTER. -/
def Mod.timeJoin (m : Mod) (q : Nat) (p : Packet) : Mod :=
  let m := { m with tb := { m.tb with joins := m.tb.joins ++ [(q, m.now + 1000000 * pkt p 16 4)] } }.hold q
  if m.tb.state = .free then
    { m with tb := { m.tb with state := .acquire, lockRun := 0, offsets := [], gm := m.lnk.chip, hops := 0, parent := none } }.elect
  else m.finishJoins
def execTimeJoin (q : Queue) (p : Packet) (s : State) : Host.Outcome State Fault Refusal :=
  run (fun m => m.command 0x39 q p fun m => m.timeJoin q p) s

/-- TIME_JOIN_TIMEOUT. -/
def Mod.joinTimeout (m : Mod) (q : Nat) : Mod :=
  match m.tb.joins.find? fun j => j.1 = q with
  | none => m
  | some j =>
    if m.now < j.2 then m
    else { m with tb := { m.tb with joins := m.tb.joins.erase j } }.replyHeld q stTimeJoin 0 [(16, 1, tbCode m.tb.state)]
def execTimeJoinTimeout (q : Queue) (s : State) : Host.Outcome State Fault Refusal := run (fun m => m.joinTimeout q) s

/-- PORT_DOWN. The retrain causes hold only after three failed retrains or 1 ms in one; a port that trains in the dark goes DOWN too. -/
def Mod.portDown (m : Mod) (p : Nat) (cause : DownCause) : Mod :=
  let x := m.port! p
  let on := x.link = .up || x.link = .retraining
  let due : Bool := match cause with
    | .dark => on || x.link = .training
    | .retrainsFailed => on && decide (3 ≤ x.badRetrains)
    | .retrainTooLong => x.link = .retraining && decide (x.retrainAt + 1000000 < m.now)
  if !due then m
  else
    let via := m.streamsVia p
    let m := (m.dropPort p).ev 0x7002 0 [(0, 1, p), (1, 1, downCode cause)]
    (m.afterDown p via (x.verify = .verified) x.expChip).parentGone p
def execPortDown (p : Port) (cause : DownCause) (s : State) : Host.Outcome State Fault Refusal := run (fun m => m.portDown p cause) s

end Sys2Proof.Machine
end

