-- ==== Sys2Proof/Machine/Topo.lean ====
section
/-! DEFINITION. Topology epochs (R434, R437 to R442): the topology image, its commit, the hello exchange. -/
namespace Sys2Proof.Machine

/-! ### The topology image (Table 15.16) -/

def topoPort (w p : Nat) : Nat := byf w (24 + 8 * p) 8
def topoEntries (w : Nat) : Nat := byf w 16 4
/-- Route slot i of entry e. -/
def topoSlot (w e i : Nat) : Nat := byf w (536 + 128 * e + 8 + 28 * i) 28
def hopEntry (v h : Nat) : Nat := fld v (12 * h) 12

/-- The checks of one route slot, as (offset in the slot, in order). -/
def slotChecks (v : Nat) (used : Bool) : List (Nat × Bool) :=
  let hops := byf v 0 1
  if used then
    [(0, decide (1 ≤ hops ∧ hops ≤ 16)), (1, decide (byf v 1 3 = 0)),
      (4, (List.range (min hops 16)).all fun h => fld (hopEntry (v / 2 ^ 32) h) 9 3 = 0)]
  else [(0, decide (v = 0))]

/-- The ranges and zero fields of the image, as (offset, in order). -/
def topoChecks (w : Nat) : List (Nat × Bool) :=
  [(8, decide (byf w 8 4 < 2 ^ 20)), (12, decide (byf w 12 2 ≤ 1000)), (14, decide (byf w 14 2 = 0)),
    (16, decide (topoEntries w ≤ 4096)), (20, decide (byf w 20 4 = 0))] ++
  ((List.range 64).map fun p => (24 + 8 * p, decide (fld (topoPort w p) 26 5 = 0 ∧ topoPort w p < 2 ^ 32))) ++
  ((List.range (min 4096 (topoEntries w))).flatMap fun e =>
    let a := 536 + 128 * e
    let n := byf w (a + 4) 1
    [(a, decide (byf w a 4 < 2 ^ 20)), (a + 4, decide (1 ≤ n ∧ n ≤ 4)), (a + 5, decide (byf w (a + 5) 3 = 0))] ++
      (List.range 4).flatMap fun i => (slotChecks (topoSlot w e i) (decide (i < n))).map fun c => (a + 8 + 28 * i + c.1, c.2) )

def topoRoutes (w : Nat) : Tab (List Route) :=
  (List.range (topoEntries w)).foldl (fun (t : Tab (List Route)) e =>
    let a := 536 + 128 * e
    let rs := (List.range (byf w (a + 4) 1)).map fun i =>
      let v := topoSlot w e i
      ({ hops := (List.range (byf v 0 1)).map fun h =>
        let x := hopEntry (v / 2 ^ 32) h
        (fld x 0 6, fld x 6 3) } : Route)
    Tab.put t (byf w a 4) rs) []

/-- The map of the image: for each port its neighbour, none where unconnected. -/
def topoMap (w p : Nat) : Option (Nat × Nat) :=
  let v := topoPort w p
  if bit v 31 then some (fld v 0 20, fld v 20 6) else none

/-- The bundle a port joins at the next commit; an identifier of another die joins none (Table 12.15). -/
def Mod.nextBundle (m : Mod) (p : Nat) : Option Nat :=
  let x := m.port! p
  if x.pendEn && x.pendId / 8 = p / 16 then some x.pendId else none

/-- R437: the map names a port twice, or gives a bundle's members different neighbours. -/
def Mod.mapBad (m : Mod) (w : Nat) : Bool :=
  (List.range 64).any fun p => (List.range p).any fun q =>
    ((topoMap w p).isSome && topoMap w p = topoMap w q) ||
    ((m.nextBundle p).isSome && m.nextBundle p = m.nextBundle q && (topoMap w p).map (·.1) ≠ (topoMap w q).map (·.1))

/-- The first reason of R437 to reject the image. -/
def Mod.topoReject (m : Mod) (w : Nat) : Option Nat :=
  if byf w 0 8 ≤ m.lnk.epoch then some 1
  else if m.jobs.any fun (p : Nat × Job) => p.2.run.isSome then some 2
  else if byf w 8 4 ≠ m.lnk.chip ∧ !m.jobs.isEmpty then some 3
  else if m.mapBad w then some 4 else none

/-! ### The end of the hello exchange (R442) -/

def Mod.portBits (m : Mod) (v : Verify) : Nat :=
  (List.range 64).foldl (fun a p => a + if (m.port! p).verify = v then 2 ^ p else 0) 0
def Mod.helloOpen (m : Mod) : Bool := (List.range 64).any fun p => (m.port! p).verify = .waiting

/-- TOPO_SET's reply: the port bitmaps to host memory, the epoch in RESULT. -/
def Mod.replyTopo (m : Mod) : Mod :=
  match m.lnk.helloQ with
  | some (q, _, dl) =>
    match if q < 64 then (m.q! q).cmd else none with
    | some c =>
      let bits := pack [(0, 8, m.portBits .verified), (8, 8, m.portBits .mismatch), (16, 8, m.portBits .dark), (24, 8, m.portBits .late)]
      ({ m with lnk := { m.lnk with helloQ := some (64, 0, dl) } }.hostWrite (pkt c.pkt 32 8) (leBytes 32 bits)).reply q (pktId c.pkt)
        stOK 0 [(16, 8, m.lnk.epoch)]
    | none => m
  | none => m
def Mod.checkHello (m : Mod) : Mod := if m.helloOpen then m else m.replyTopo

/-! ### The commit (R434, R438, R447) -/

/-- A port in the new epoch: map, bundle, hello; a changed neighbour or a failed lane brings a retrain, and a changed neighbour numbers its flits anew (log entry 9). -/
def Mod.commitPort (m : Mod) (w p : Nat) : Mod :=
  let x := m.port! p
  let n := topoMap w p
  let chip := match n with | some c => c.1 | none => 0
  let port := match n with | some c => c.2 | none => 0
  let changed := x.mapped ≠ n.isSome || x.expChip ≠ chip || x.expPort ≠ port
  let again := (changed || x.failed ≠ 0) && (x.link = .up || x.link = .retraining)
  let b := m.nextBundle p
  m.setPort p { x with
    mapped := n.isSome
    expChip := chip
    expPort := port
    verify := if n.isSome then .waiting else .unconnected
    actEn := b.isSome
    actId := b.getD 0
    bundleOut := false
    olderHello := false
    failed := 0
    advHeard := false
    replay := if changed then [] else x.replay
    waiting := if changed then [] else x.waiting
    asm := if changed then [] else x.asm
    txLseq := if changed then 0 else x.txLseq
    rxLseq := if changed then 0 else x.rxLseq
    retrains := if again then min 255 (x.retrains + 1) else x.retrains
    retrainAt := if again then m.now else x.retrainAt
    link := if x.holdDown then .training else if again then .retraining else x.link
    holdDown := false }

def Mod.commitTopo (m : Mod) (w : Nat) : Mod :=
  let left := (List.range 64).any fun p => (m.port! p).verify = .verified
  let m := (List.range 64).foldl (fun m p => m.commitPort w p) m
  let tx := m.lnk.tx.map fun (kt : Nat × TxStream) =>
    (kt.1, { kt.2 with badRoutes := [], due := kt.2.due || (!kt.2.unacked.isEmpty && !kt.2.unreachable) })
  let m := { m with
    lnk := { m.lnk with epoch := byf w 0 8, chip := byf w 8 4, valid := true, routes := topoRoutes w, bseq := [], rxBseq := [], skewed := [], orphans := [], tx := tx }
    tb := { m.tb with state := .free, rho := 0, f := 0, offsets := [], lockRun := 0, hops := 0, gm := 0, parent := none, holdFrom := 0, firstMeas := true } }
  let m := m.ev 0x7011 0 [(0, 8, byf w 0 8), (8, 3, byf w 8 4)]
  if left then m.async 2 else m

/-- TOPO_SET (R437, R438): it holds its queue until the hello exchange ends. An earlier one still open completes first. -/
def Mod.topoSet (mem : List Host.Cell) (m : Mod) (q : Nat) (p : Packet) : Mod :=
  let len := pkt p 24 4
  let w := Memory.readN mem (pkt p 16 8) (min len 524824)
  if len < 536 ∨ len < 536 + 128 * min 4096 (topoEntries w) then m.reply q (pktId p) stInvalidField 24
  else match (topoChecks w).find? fun c => !c.2 with
    | some c => m.reply q (pktId p) stInvalidField (128 + c.1)
    | none => match m.topoReject w with
      | some r => m.reply q (pktId p) stTopo r
      | none =>
        let m := m.replyTopo.commitTopo w
        let ms := if byf w 12 2 = 0 then 20 else byf w 12 2
        ({ m with lnk := { m.lnk with helloQ := some (q, pktId p, m.now + 1000000 * ms) } }.hold q).checkHello
def execTopoSet (q : Queue) (p : Packet) (s : State) : Host.Outcome State Fault Refusal :=
  runH (fun mem m => m.command 0x38 q p fun m => m.topoSet mem q p) s

/-! ### Hellos (R439 to R442) -/

def verifyCode : Verify → Nat
  | .unconnected => 0 | .waiting => 1 | .verified => 2 | .mismatch => 3 | .dark => 4 | .late => 5

/-- HELLO_SEND (Table 12.21). -/
def Mod.helloSend (m : Mod) (p : Nat) : Mod :=
  let x := m.port! p
  let body := pack [(0, 4, m.lnk.chip), (4, 1, p), (5, 1, if x.actEn then x.actId + 128 else 0), (8, 8, m.lnk.epoch),
    (16, 1, verifyCode x.verify)]
  if x.link ≠ .up ∨ x.mapped = false then m else m.putFlit p 3 false body
def execHelloSend (p : Port) (s : State) : Host.Outcome State Fault Refusal := run (fun m => m.helloSend p) s

/-- A hello of the current epoch names another chip, port, or neighbour bundle than the bundle's other members (R440). -/
def Mod.helloWrong (m : Mod) (p : Nat) (b : HelloBody) (bundle : Nat) : Bool :=
  let x := m.port! p
  b.chip.toNat = m.lnk.chip || b.chip.toNat ≠ x.expChip || b.port.val ≠ x.expPort ||
    (x.actEn && (m.bundleOf p).any fun r => r ≠ p && (m.port! r).verify = .verified && (m.port! r).nBundle ≠ bundle)

/-- A hello of the current epoch decides the port's state. -/
def Mod.helloCurrent (m : Mod) (p : Nat) (b : HelloBody) (bundle : Nat) : Mod :=
  let v := (m.port! p).verify
  if v = .mismatch then m
  else if m.helloWrong p b bundle then
    let m := (m.onPort p fun x => { x with verify := .mismatch }).ev 0x7010 0
      [(0, 1, p), (1, 3, b.chip.toNat), (4, 1, b.port.val), (5, 8, b.epoch.toNat)]
    if v = .verified then (m.async 2).parentGone p else m
  else if v = .verified then m
  else
    let m := (m.onPort p fun x => { x with verify := .verified }).pumpPort p
    (m.lnk.tx.filter fun (kt : Nat × TxStream) => kt.2.due).foldl (fun m kt => m.reroute kt.1) m

/-- HELLO_RECEIVE: the flit's header acts as any flit's (R422). -/
def Mod.hello (m : Mod) (p : Nat) (hdr : W64) (b : HelloBody) : Mod :=
  if (m.port! p).link ≠ .up ∨ b.rsvZero = false then m
  else
    let bundle := b.bundle.val + 32 * b2n b.member
    let m := (m.flitAck p { hdr := hdr, body := 0, crc := 0 }).onPort p fun x => { x with nChip := b.chip.toNat, nPort := b.port.val, nBundle := bundle }
    if (m.port! p).mapped = false then m
    else if b.epoch.toNat = m.lnk.epoch then (m.helloCurrent p b bundle).checkHello
    else if b.epoch.toNat < m.lnk.epoch then m.onPort p fun x => { x with olderHello := true }
    else m
def execHelloReceive (p : Port) (b : HelloFlit) (s : State) : Host.Outcome State Fault Refusal :=
  run (fun m => m.hello p b.hdr b.body) s

/-- A port that still waits when the hellos end: DARK where its link did not train, LATE where its partner sends hellos of an older
epoch (R440). -/
def Mod.helloOver (m : Mod) (p : Nat) : Mod :=
  let x := m.port! p
  if x.verify ≠ .waiting then m
  else if x.link = .down ∨ x.link = .training then m.onPort p fun x => { x with verify := .dark }
  else if x.olderHello then m.onPort p fun x => { x with verify := .late } else m

/-- HELLO_TIMEOUT: ports still WAITING become DARK or LATE; TOPO_SET completes; streams left without a route end. -/
def Mod.helloTimeout (m : Mod) : Mod :=
  match m.lnk.helloQ with
  | some (_, _, dl) =>
    if m.now < dl then m
    else
      let m := ((List.range 64).foldl Mod.helloOver m).replyTopo
      let m := { m with lnk := { m.lnk with helloQ := none } }
      (m.lnk.tx.filter fun (kt : Nat × TxStream) => kt.2.due).foldl (fun m kt => m.reroute kt.1) m
  | none => m
def execHelloTimeout (s : State) : Host.Outcome State Fault Refusal := run (fun m => m.helloTimeout) s

end Sys2Proof.Machine
end

