-- ==== Sys2Proof/Machine/Packets.lean ====
section
/-! DEFINITION. Packets at a port (R432, R433, R445 to R448, R484, R518, R523): delivery by kind, forwarding,
acknowledgements, retransmission. -/
namespace Sys2Proof.Machine

/-! ### Drops before delivery (R484) -/

/-- A packet whose CHECK fails: COL_CNT_CHECK_FAIL, event 0x8010. -/
def Mod.checkFailed (m : Mod) (p h collId : Nat) : Mod :=
  (m.colCnt 0x28 1).ev 0x8010 1 [(0, 1, p), (1, 3, hSrc h), (4, 2, hJob h), (6, 2, collId)]
def Mod.barGate (m : Mod) (x : HeldPkt) : Mod × Bool :=
  if barCheckOk x.body then (m, true) else (m.checkFailed x.port x.hdr 0, false)
def openGate (m : Mod) (_ : HeldPkt) : Mod × Bool := (m, true)

/-! ### EXCHANGE and REDUCE -/

def Mod.exchangePkt (m : Mod) (p h body : Nat) : Mod :=
  if hKind h = kExchange then m.receive Mod.collGate Mod.collDeliver p h body else m
def execExchange (p : Port) (h : PktHdr) (body : Nat) (s : State) : Host.Outcome State Fault Refusal :=
  run (fun m => (m.exchangePkt p h.toNat body).lostRoutes) s

/-- A port held DOWN until the next epoch commit (Table 17.2). -/
def Mod.holdPort (m : Mod) (p : Nat) : Mod :=
  let x := m.port! p
  let via := m.streamsVia p
  let m := (m.dropPort p).onPort p fun x => { x with holdDown := true }
  (m.afterDown p via (x.verify = .verified) x.expChip).parentGone p

/-- A delivered REDUCE packet; where the adder's two results disagree the block is not formed and the fault is contained
(R465). -/
def Mod.reduceAct (seq : Nat) (dupOk : Bool) (m : Mod) (x : HeldPkt) : Mod :=
  let k := ctxKey (hJob x.hdr) (byf x.body 0 2)
  let adds := m.collWhen (hJob x.hdr) x.body = 1 && (match m.ctx? k with | some y => y.started | none => false) &&
    !bit (byf x.body 2 1) 2 && !bit (byf x.body 2 1) 4
  if !dupOk && x.seq = seq && adds then
    ((m.reducerFault x.port x.hdr x.body).holdPort x.port).needReplay (hJob x.hdr) 0x8040 (x.port / 16)
  else m.collDeliver x
def Mod.reducePkt (m : Mod) (p h body : Nat) (dupOk : Bool) : Mod :=
  if hKind h = kReduce then m.receive Mod.collGate (Mod.reduceAct (hSeq h) dupOk) p h body else m
def execReduce (p : Port) (h : PktHdr) (body : Nat) (dupOk : Bool) (s : State) : Host.Outcome State Fault Refusal :=
  run (fun m => (m.reducePkt p h.toNat body dupOk).lostRoutes) s

/-! ### BARRIER -/

def Mod.barDeliver (m : Mod) (x : HeldPkt) : Mod :=
  if bit (byf x.body 1 1) 1 then m.takeNoticePkt x.hdr x.body else m.barArrive x.hdr x.body
def execBarrierPacket (p : Port) (h : PktHdr) (body : Nat) (s : State) : Host.Outcome State Fault Refusal :=
  run (fun m => if hKind h.toNat = kBarrier then m.receive Mod.barGate Mod.barDeliver p h.toNat body else m) s

/-! ### E2E_ACK (R446) -/

/-- Packets below NEXT are acknowledged; an in-place PERMUTE may now write what it held (R496). -/
def Mod.e2eAck (m : Mod) (p h : Nat) : Mod :=
  if hKind h ≠ kAck then m else
  match m.arrival p h 0 with
  | none => m
  | some (m, epoch) =>
  if m.portDrops p h epoch then m.portCnt p 0x230 1
  else if hDst h ≠ m.lnk.chip ∨ m.lostFor (hSrc h) (hJob h) then m
  else
    let m := m.ackedTo (hSrc h) (hJob h) (hVc h) (hSeq h)
    (m.col.ctx.filter fun x => !x.stagePend.isEmpty).foldl (fun m x => m.flushStage x.key) m
def execE2eAck (p : Port) (h : PktHdr) (s : State) : Host.Outcome State Fault Refusal := run (fun m => m.e2eAck p h.toNat) s

/-! ### PACE (R523, R524) -/

/-- A DOWN notice is passed on and, unless it is the module's own, recorded; one travelling up goes on to the root, which
turns it. -/
def Mod.paceDeliver (m : Mod) (x : HeldPkt) : Mod :=
  let job := hJob x.hdr
  let origin := fld (byf x.body 0 4) 0 20
  let act := fun (m : Mod) =>
    if origin = m.lnk.chip then m
    else if bit (byf x.body 4 1) 0 then m.takeNotice job origin (fld (byf x.body 5 1) 0 3) else m.endNotice job origin 0
  match m.verdictGroup job with
  | none => m
  | some (g, r) =>
    let pkt : OutPkt := { dst := 0, job := job, vc := 0, kind := kPace, body := x.body, len := 32, ctx := 0 }
    if bit (byf x.body 4 1) 1 then act (m.formDown g 0 r pkt)
    else if (g.parent 0 r).isNone then act (m.formDown g 0 r { pkt with body := x.body + 2 ^ 33 })
    else m.formUp g 0 r pkt
def execPace (p : Port) (h : PktHdr) (body : Nat) (s : State) : Host.Outcome State Fault Refusal :=
  run (fun m => if hKind h.toNat = kPace then m.receive openGate Mod.paceDeliver p h.toNat body else m) s

/-! ### SNAPSHOT (R517, R518) -/

def snapCheckOk (body : Nat) : Bool :=
  let n := byf body 12 4
  ((List.range (n / 8)).foldl (fun a j => a + byf body (32 + 8 * j) 8) 0) % 2 ^ 64 = byf body 24 8
def Mod.snapGate (m : Mod) (x : HeldPkt) : Mod × Bool :=
  if snapCheckOk x.body then (m, true) else (m.checkFailed x.port x.hdr 0, false)

/-- Why a SNAPSHOT packet is not written: 1 handle, 2 format, 3 size (event 0x8062). -/
def Mod.snapRefuses (m : Mod) (x : HeldPkt) : Option Nat :=
  match m.objOfJob (byf x.body 8 4) (hJob x.hdr) with
  | none => some 1
  | some o =>
    if o.image then some 1
    else if o.fmt ≠ x.src.fmt then some 2
    else if o.rows * o.cols * fmtBits o.fmt / 8 ≠ x.src.bytes then some 3 else none

/-- A delivered SNAPSHOT packet: its data is written; the one with LAST signals the sync object. -/
def Mod.snapDeliver (m : Mod) (x : HeldPkt) : Mod :=
  let job := hJob x.hdr
  let h := byf x.body 8 4
  let n := byf x.body 12 4
  let rej := fun (m : Mod) (why : Nat) =>
    m.ev 0x8062 0 [(0, 3, hSrc x.hdr), (3, 2, job), (5, 4, byf x.body 0 4), (9, 4, h), (13, 1, why)]
  match m.snapRefuses x with
  | some why => rej m why
  | none =>
    let b := match m.objAny h with | some o => fmtBits o.fmt | none => 8
    let l0 := byf x.body 16 8 * 8 / b
    let ts := match m.objAny h with | some o => o.tilesFrom l0 (n * 8 / b) | none => []
    let m := (ts.foldl (fun m t => m.pinHere h t) m).onObj h fun o =>
      let k := min (n * 8 / b) (o.rows * o.cols - l0)
      let data := x.body / 2 ^ 256
      o.putRaw l0 ((List.range k).map fun i => fld data (b * i) b) []
    if !bit (byf x.body 6 1) 0 then m
    else if m.syncBound x.src.core x.src.obj job then (m.signal x.src.core x.src.obj false 1).settle x.src.core
    else rej m 4
def execSnapshot (p : Port) (h : PktHdr) (body : Nat) (src : SnapSrc) (s : State) : Host.Outcome State Fault Refusal :=
  run (fun m => if hKind h.toNat = kSnapshot then m.receive Mod.snapGate Mod.snapDeliver p h.toNat body src else m) s

/-! ### PACKET_FORWARD (R432, R433, R484) -/

/-- The header after a hop: HOP rises by 1, at most to 15, its four bits. -/
def hopOn (h : Nat) : Nat := if hHop h < 15 then h + 2 ^ 103 else h

def Mod.forward (m : Mod) (p h body : Nat) : Mod :=
  match m.arrival p h body with
  | none => m
  | some (m, epoch) =>
  if m.portDrops p h epoch then m.portCnt p 0x230 1
  else if hDst h = m.lnk.chip then m
  else
    let e := hRoute h (hHop h)
    if hLast h < hHop h ∨ !m.hopUp e.1 then m.portCnt p 0x230 1
    else if hKind h = kReduce ∧ !collCheckOk kReduce body then m.checkFailed p h (byf body 0 2)
    else { m with lnk := { m.lnk with fwd := m.lnk.fwd ++ [(e.1, hopOn h, body)] } }.emit e.1 e.2 (hKind h) (hLen h) (hopOn h + 2 ^ 320 * body) true
def execPacketForward (p : Port) (h : PktHdr) (body : Nat) (s : State) : Host.Outcome State Fault Refusal :=
  run (fun m => m.forward p h.toNat body) s

/-! ### Sending and acknowledging in time (R446, R447, R469) -/

/-- TREE_PACKET_SEND: the k-th packet that stands formed leaves. -/
def Mod.treeSend (m : Mod) (k : Nat) : Mod :=
  match m.lnk.formed[k]? with
  | none => m
  | some p => { m with lnk := { m.lnk with formed := m.lnk.formed.eraseIdx k } }.send p
def execTreePacketSend (k : Nat) (s : State) : Host.Outcome State Fault Refusal := run (fun m => (m.treeSend k).lostRoutes) s

/-- E2E_ACK_TIMER: 2 µs after the first delivery not yet acknowledged. -/
def Mod.ackTimer (m : Mod) (src job vc : Nat) : Mod :=
  let r := m.rx! (streamKey src job vc)
  if 0 < r.unackedN ∧ r.firstAt + 2000 ≤ m.now then m.ackStream src job vc else m
def execE2eAckTimer (src : BitVec 20) (job : JobId) (vc : Fin 8) (s : State) : Host.Outcome State Fault Refusal :=
  run (fun m => m.ackTimer src.toNat job.toNat vc) s

/-- E2E_RETX: the oldest packet has waited past TIMEOUT. The route of a retransmission that timed out is spent for the epoch; at
MAX_RETX retransmissions without advance the destination is unreachable. -/
def Mod.e2eRetx (m : Mod) (dst job vc : Nat) : Mod :=
  let k := streamKey dst job vc
  let t := m.tx! k
  if t.unacked.isEmpty || t.unreachable || t.due || decide (m.now ≤ t.oldestAt + 1000 * m.lnk.timeout) then m
  else
    let m := if (t.unacked.head?.map (·.retx)).getD false then m.onTx k fun t => { t with badRoutes := t.route :: t.badRoutes } else m
    m.reroute k
def execE2eRetx (dst : BitVec 20) (job : JobId) (vc : Fin 8) (s : State) : Host.Outcome State Fault Refusal :=
  run (fun m => m.e2eRetx dst.toNat job.toNat vc) s

end Sys2Proof.Machine
end

