-- ==== Sys2Proof/Machine/PowerRows.lean ====
section
/-! DEFINITION. Power, droop and thermal rows (R567 to R587): OP_SET, POWER_CAP, forced sources and their hold-off, ramps,
droop, the cap loop, junction sensors, rate monitors. -/
namespace Sys2Proof.Machine

/-! ### OP_SET and POWER_CAP (R569, R579) -/

def Mod.opSet (m : Mod) (q : Nat) (p : Packet) : Mod :=
  let job := pktJob p
  let m := if job = 0 then
      (if pkt p 20 1 = 0xFF then m else { m with pwr := { m.pwr with idlePref := pkt p 20 1 } }.power)
    else m.onJob job fun j => { j with
      ops := (List.range 4).map fun i => if pkt p (16 + i) 1 = 0xFF then j.ops.getD i 5 else pkt p (16 + i) 1 }
  m.reply q (pktId p) stOK
def execOpSet (q : Queue) (p : Packet) (s : State) : Host.Outcome State Fault Refusal :=
  run (fun m => m.command 0x40 q p fun m => m.opSet q p) s

def Mod.powerCap (m : Mod) (q : Nat) (p : Packet) : Mod :=
  { m with pwr := { m.pwr with capW := pkt p 16 4 } }.reply q (pktId p) stOK 0 [(16, 4, m.pwr.capW)]
def execPowerCap (q : Queue) (p : Packet) (s : State) : Host.Outcome State Fault Refusal :=
  run (fun m => m.command 0x41 q p fun m => m.powerCap q p) s

/-! ### Forced sources (R574, R578) -/

/-- The onset of a source: the target is OP0 at once; a running hold-off gives way. -/
def Mod.forceOn (m : Mod) (f : Forced) : Mod :=
  { m with pwr := { m.pwr with
      acting := if m.pwr.acting.contains f then m.pwr.acting else m.pwr.acting ++ [f]
      released := m.pwr.released.filter (· ≠ f)
      holdoff := none } }.power
/-- A source's condition ends: the hold-off begins once no other acts. -/
def Mod.forceOff (m : Mod) (f : Forced) : Mod :=
  if !m.pwr.acting.contains f then m
  else
    let left := m.pwr.acting.filter (· ≠ f)
    { m with pwr := { m.pwr with
        acting := left
        released := m.pwr.released ++ [f]
        holdoff := if left.isEmpty then some m.now else none } }.power

/-- THROTTLE_IN# begins to act: event 0xA010. -/
def Mod.throttleOn (m : Mod) : Mod :=
  let was := m.pwr.opNow
  ({ m with pwr := { m.pwr with throttleFrom := m.now } }.forceOn .throttle).ev 0xA010 0 [(1, 1, was), (2, 8, m.now)]
/-- THROTTLE_IN_ASSERT (R684): `ns` is how long the assertion lasts, `acts` whether one of 20 to 50 ns acts. -/
def Mod.throttleIn (m : Mod) (ns : Nat) (acts : Bool) : Mod :=
  if m.pins.throttle || !(decide (50 ≤ ns) || (decide (20 ≤ ns) && acts)) then m
  else
    let m := { m with pins := { m.pins with throttle := true } }
    if m.railsOn then m.throttleOn else m
def execThrottleInAssert (ns : Nat) (acts : Bool) (s : State) : Host.Outcome State Fault Refusal := run (fun m => m.throttleIn ns acts) s
def execThrottleInRelease (s : State) : Host.Outcome State Fault Refusal :=
  run (fun m =>
    let m := { m with
      pins := { m.pins with throttle := false }
      pwr := { m.pwr with throttleTicks := if m.pwr.acting.contains .throttle then m.now - m.pwr.throttleFrom else m.pwr.throttleTicks } }
    m.forceOff .throttle) s

def alertCode : AlertKind → Nat
  | .inputLow => 1 | .overCurrent => 2 | .hot => 3
/-- The condition of an alert for a reading in mV, A or °C (R575). -/
def alertHolds : AlertKind → Nat → Bool
  | .inputLow, v => decide (v < 46500)
  | .overCurrent, v => decide (600 < v)
  | .hot, v => decide (125 < v)
/-- An alert of the same kind at the same die; the input is the module's and counts as die 0. -/
def RegAlert.same (kind : AlertKind) (d : Nat) (a : RegAlert) : Bool :=
  a.kind = alertCode kind && a.die = (if kind = .inputLow then 0 else d)
/-- REG_ALERT: event 0xA012. -/
def Mod.regAlert (m : Mod) (kind : AlertKind) (d v : Nat) : Mod :=
  if !m.railsOn || !alertHolds kind v || m.pwr.alerts.any (RegAlert.same kind d) then m
  else
    let a : RegAlert := { kind := alertCode kind, die := if kind = .inputLow then 0 else d, value := v }
    let m := { m with pwr := { m.pwr with
      alerts := m.pwr.alerts ++ [a]
      alertSeen := (m.pwr.alertSeen.filter fun x => !RegAlert.same kind d x) ++ [a] } }
    let m := if kind = .overCurrent then m.onDie d fun x => { x with amps := v } else m
    (m.forceOn .alert).ev 0xA012 0 [(0, 1, a.die), (1, 1, a.kind), (2, 2, v)]
def execRegAlert (kind : AlertKind) (d : Die) (v : Nat) (s : State) : Host.Outcome State Fault Refusal :=
  run (fun m => m.regAlert kind d v) s
/-- REG_ALERT_CLEAR: the alert's condition ends, at one die for the current and the temperature. -/
def execRegAlertClear (kind : AlertAt) (s : State) : Host.Outcome State Fault Refusal :=
  run (fun m =>
    let left := m.pwr.alerts.filter fun a => !RegAlert.same kind.kind kind.die a
    let m := { m with pwr := { m.pwr with alerts := left } }
    if left.isEmpty then m.forceOff .alert else m) s

/-- FORCED_HOLDOFF_END: 10 µs after the last condition ended; events 0xA011 and 0xA013. -/
def Mod.holdoffEnd (m : Mod) : Mod :=
  match m.pwr.holdoff with
  | none => m
  | some t =>
    if m.now < t + 10000 then m
    else
      let m := if m.pwr.released.contains .throttle then m.ev 0xA011 0 [(1, 8, m.pwr.throttleTicks)] else m
      let m := if m.pwr.released.contains .alert then
          m.pwr.alertSeen.foldl (fun m a => m.ev 0xA013 0 [(0, 1, a.die), (1, 1, a.kind), (2, 2, a.value)]) m else m
      { m with pwr := { m.pwr with holdoff := none, released := [], alertSeen := [] } }.power
def execForcedHoldoffEnd (s : State) : Host.Outcome State Fault Refusal := run Mod.holdoffEnd s

/-! ### Ramps and droop (R573, R576, R577) -/

def Pwr.anyWarn (p : Pwr) : Bool := p.die.any fun (d : Nat × DieSt) => d.2.warn

/-- RAMP_STEP: 10 mV, the last step as large as the remainder; none while a die is in droop warning. -/
def Mod.rampStep (m : Mod) : Mod :=
  if !m.pwr.ramping || m.pwr.anyWarn || decide (m.now < m.pwr.rampAt + 1000) then m
  else
    let t := m.pwr.target
    let v := m.vtab t
    if v ≤ m.pwr.setpoint + 10 then
      { m with pwr := { m.pwr with setpoint := v, opNow := t, ramping := false, rampHeld := false } }.power
    else { m with pwr := { m.pwr with setpoint := m.pwr.setpoint + 10, rampAt := m.now } }
def execRampStep (s : State) : Host.Outcome State Fault Refusal := run Mod.rampStep s

/-- The dies that still read more than 25 mV below the set-point stay in warning; the last to leave lets a held ramp
step again after 1 µs, and ends a trip's condition. -/
def Mod.settleDroop (m : Mod) : Mod :=
  let was := m.pwr.anyWarn
  let die := m.pwr.die.map fun (d : Nat × DieSt) => (d.1, { d.2 with warn := d.2.warn && decide (d.2.mv + 25 < m.pwr.setpoint) })
  let m := { m with pwr := { m.pwr with die := die } }
  if m.pwr.anyWarn then m
  else
    let m := if was then { m with pwr := { m.pwr with rampHeld := false, rampAt := m.now } } else m
    m.forceOff .droop

/-- A droop trip (R577): event 0xA021; why 1 depth, 2 duration. -/
def Mod.droopTrip (m : Mod) (d why : Nat) : Mod :=
  if m.pwr.acting.contains .droop then m
  else
    let m := (m.ev 0xA021 0 [(0, 1, d), (1, 2, m.pwr.setpoint), (3, 2, (m.die! d).warnLow), (5, 1, why)]).pwrCnt 0x228 1
    (m.forceOn .droop).settleDroop

/-- DROOP_SAMPLE: a rail reading against the set-point. No row carries the rail's current: it is free (log entry 15). -/
def Mod.droopSample (m : Mod) (d mv : Nat) : Mod :=
  if !m.railsOn then m
  else
    let was := (m.die! d).warn
    let warn := decide (mv + 25 < m.pwr.setpoint)
    let deep := decide (mv + 60 < m.pwr.setpoint)
    let m := { m with free := m.free + 1 }.onDie d fun x => { x with
      mv := mv
      warnLow := if was then min x.warnLow mv else mv
      amps := (Config.freeValue m.free).toNat % 65536 }
    let m := if warn && !was then
        ((m.onDie d fun x => { x with warn := true, warnFrom := m.now }).ev 0xA020 1
          [(0, 1, d), (1, 2, m.pwr.setpoint), (3, 2, mv)]).pwrCnt 0x220 1
      else m
    let m := if m.pwr.ramping && m.pwr.anyWarn then { m with pwr := { m.pwr with rampHeld := true } } else m
    if deep then m.droopTrip d 1 else m.settleDroop
def execDroopSample (d : Die) (mv : Nat) (s : State) : Host.Outcome State Fault Refusal := run (fun m => m.droopSample d mv) s

/-- DROOP_WARN_TIMEOUT: a warning has lasted longer than 5 µs; during a forced drop it has no effect (R578). -/
def execDroopWarnTimeout (d : Die) (s : State) : Host.Outcome State Fault Refusal :=
  run (fun m =>
    if (m.die! d).warn && !m.pwr.forced && decide ((m.die! d).warnFrom + 5000 < m.now) then m.droopTrip d 2 else m) s

/-! ### The cap loop (R580, R583) -/

/-- POWER_SAMPLE: `watts` the input power, `vin` the input voltage in units of 10 mV. -/
def Mod.powerSample (m : Mod) (watts vin : Nat) : Mod :=
  if !m.alive then m
  else
    let xs := m.pwr.samples ++ [watts]
    let xs := xs.drop (xs.length - 100)
    let p1 := xs.foldl (· + ·) 0 / xs.length
    { m with pwr := { m.pwr with
        samples := xs
        p1 := p1
        vin := vin % 65536
        energyUj := m.pwr.energyUj + 10 * watts
        belowFor := if p1 + 250 ≤ m.pwr.capW then m.pwr.belowFor + 10 else 0 } }
def execPowerSample (watts vin : Nat) (s : State) : Host.Outcome State Fault Refusal := run (fun m => m.powerSample watts vin) s

/-- CAP_DECISION. -/
def Mod.capDecision (m : Mod) : Mod :=
  let p := m.pwr
  if !m.alive then m
  else if p.capW < p.p1 then
    if 0 < p.capOp then { m with pwr := { p with capOp := p.capOp - 1, belowFor := 0 } }.power
    else
      let n := p.capUnmetFor + 100
      let m := { m with pwr := { p with capUnmetFor := n, capUnmet := p.capUnmet || decide (10000 ≤ n) } }
      if 10000 ≤ n ∧ p.capUnmet = false then m.ev 0xA031 0 [(2, 2, p.p1), (4, 2, p.capW)] else m
  else
    let p := { p with capUnmet := false, capUnmetFor := 0 }
    if 1000 ≤ p.belowFor ∧ p.capOp < 7 then { m with pwr := { p with capOp := p.capOp + 1, belowFor := 0 } }.power
    else { m with pwr := p }
def execCapDecision (s : State) : Host.Outcome State Fault Refusal := run Mod.capDecision s

/-! ### Temperature (R584, R585) and the rate monitors (R567, R568) -/

/-- No row carries the coolant's temperatures: they are free at every reading of the sensors (log entry 15). -/
def Mod.coolant (m : Mod) : Mod :=
  let free := fun (i : Nat) => (Config.freeValue (m.free + i)).toNat % 256
  { m with
    free := m.free + 2
    pwr := { m.pwr with inlet := free 0, outlet := free 1 } }

def workingSensor (t : Option Int) : Bool := match t with | some x => decide (-40 ≤ x ∧ x ≤ 150) | none => false
/-- JUNCTION_SENSOR_READ: sixteen readings, none where a sensor does not respond. -/
def Mod.sensorRead (m : Mod) (d : Nat) (r : List (Option Int)) : Mod :=
  if m.phase = .off ∨ m.pins.coreRails = false then m
  else
    let ok := (List.range 16).filter fun i => workingSensor (r.getD i none)
    let top := ok.foldl (fun (a : Option Int) i =>
      let t := (r.getD i none).getD 0
      match a with | none => some t | some b => some (max b t)) none
    let few := decide (ok.length < 12)
    let bad := (List.range 16).foldl (fun a i => if ok.contains i then a else a + 2 ^ i) 0
    let was := (m.die! d).sensorFail
    let m := m.onDie d fun x => { x with
      tjMax := top.getD x.tjMax
      sensorsOk := ok.length
      rateLowFrom := if (top.getD x.tjMax) ≤ 85 then x.rateLowFrom else none
      sensorFail := few }
    let m := m.coolant
    let m := if few && !was then m.ev 0xA060 0 [(0, 1, d), (1, 1, ok.length), (2, 2, bad)] else m
    let m := if few then { m with pwr := { m.pwr with thermOp := 0 } }.power else m
    match top with
    | some t => if 115 ≤ t then m.thermTrip d none t else m
    | none => m
def execJunctionSensorRead (d : Die) (r : List (Option Int)) (s : State) : Host.Outcome State Fault Refusal :=
  run (fun m => m.sensorRead d r) s

/-- THERM_OP_STEP: down a point while a die reads above THROT_C, up one while all read 5 °C below it or less. -/
def Mod.thermOpStep (m : Mod) : Mod :=
  let t := m.pwr.thermOp
  let failed := m.pwr.die.any fun (d : Nat × DieSt) => d.2.sensorFail
  if !m.alive then m
  else if failed then { m with pwr := { m.pwr with thermOp := 0 } }.power
  else if cores.any fun d => decide (m.pwr.throtC < (m.die! d).tjMax) then
    { m with pwr := { m.pwr with thermOp := t - 1 } }.power
  else if (cores.all fun d => decide ((m.die! d).tjMax ≤ m.pwr.throtC - 5)) && decide (t < 7) then
    let m := { m with pwr := { m.pwr with thermOp := t + 1 } }
    (if t = 6 then m.ev 0xA041 0 [(1, 1, intByte m.tjMax)] else m).power
  else m
def execThermOpStep (s : State) : Host.Outcome State Fault Refusal := run Mod.thermOpStep s

/-- Nominal stage rates in M stages/s (Table 16.1). -/
def nominalRate (op : Nat) : Nat := [500, 650, 800, 950, 1100, 1250, 1400, 1550].getD op 0
/-- RATE_MONITOR_SAMPLE: `count` stages in 10 µs; event 0xA050 after 10 ms below 95% of the nominal rate. -/
def Mod.rateSample (m : Mod) (d count : Nat) : Mod :=
  if !m.alive then m
  else
    let rate := min 65535 (count / 10)
    let x := m.die! d
    let low := decide (100 * rate < 95 * nominalRate m.pwr.opNow ∧ x.tjMax ≤ 85) && !m.pwr.ramping
    let from_ := x.rateLowFrom.getD m.now
    let say := low && !x.rateLowSeen && decide (from_ + 10000000 ≤ m.now)
    let m := m.onDie d fun x => { x with
      rate := rate
      rateLowFrom := if low then some from_ else none
      rateLowSeen := low && (x.rateLowSeen || say) }
    if say then m.ev 0xA050 0 [(0, 1, d), (1, 1, m.pwr.opNow), (2, 2, rate), (4, 1, intByte x.tjMax)] else m
def execRateMonitorSample (d : Die) (count : Nat) (s : State) : Host.Outcome State Fault Refusal :=
  run (fun m => m.rateSample d count) s

end Sys2Proof.Machine
end

