-- ==== Sys2Proof/Machine/Recorder.lean ====
section
/-! DEFINITION. Signed host commands (R542, R543, R630 to R634) and the event recorder's commands, windows and persistence
(R643 to R656). -/
namespace Sys2Proof.Machine

/-! ### Signed commands -/

/-- The bytes of an ASCII string. -/
def ascii (s : String) : List Byte := s.toList.map fun c => BitVec.ofNat 8 c.toNat

/-- The signature that a command brings is the one at hand: over this message, under this key, with this context string. -/
def sigAccepts (g : Sig) (context : String) (key message bytes : List Byte) : Bool :=
  decide (g.context = ascii context ∧ g.key = key ∧ g.message = message ∧ g.bytes = bytes)

/-- The packet bytes that a signature covers: SIG_ADDR written as zero (R543). -/
def coveredBytes (p : Packet) : Packet :=
  BitVec.ofNat 1024 (p.toNat % 2 ^ 64 + p.toNat / 2 ^ 128 * 2 ^ 128)

/-- The message of a command's signature: the packet bytes, then the 64 bytes of the command nonce (R543). -/
def Mod.signedMessage (m : Mod) (p : Packet) : List Byte :=
  leBytes 128 (coveredBytes p).toNat ++ leBytes 64 (Config.nonce m.nv.draws).toNat
/-- The 4,627 bytes at SIG_ADDR. -/
def sigAt (mem : List Host.Cell) (p : Packet) : List Byte := (List.range 4627).map fun i => Memory.read mem (pkt p 8 8 + i)

/-- Why a signature fails: 1 the signature, 2 no operator key, 3 the key unusable (event 0xB030); 0 it verifies. FW_ACTIVATE is
signed with the key of which FWK_HASH is the digest (Table 18.4). -/
def Mod.sigFault (mem : List Host.Cell) (m : Mod) (p : Packet) (g : Sig) : Nat :=
  let good := fun (key : List Byte) => sigAccepts g "LX1536CMD" key (m.signedMessage p) (sigAt mem p)
  if pktOp p = 0x59 then (if good g.key && Config.sha3 g.key = m.nv.fwkHash then 0 else 1)
  else match m.opkActive with
    | none => 2
    | some _ => if m.sec.opkBad then 3 else if good m.nv.opkKey then 0 else 1

/-- A signed command: the checks of R542 in their order; its completion renews the nonce (R633). -/
def Mod.signedStatus (mem : List Host.Cell) (m : Mod) (p : Packet) (g : Sig) : Option (Nat × Nat × Nat) :=
  let op := pktOp p
  if !m.serving && !anyStateOps.contains op then some (stDeviceState, m.phase.code, 0)
  else if !pktSigned p then some (stSignature, 0, 0)
  else if m.sigFault mem p g ≠ 0 then some (stSignature, 0, m.sigFault mem p g)
  else match badField p with
    | some a => some (stInvalidField, a, 0)
    | none => none

/-- The failing completion of a signed command. -/
def Mod.signedFail (m : Mod) (q : Nat) (p : Packet) (f : Nat × Nat × Nat) : Mod :=
  let m := if f.2.2 = 0 then m else m.ev 0xB030 0 [(0, 1, pktOp p), (1, 4, m.sec.nonceGen), (5, 1, f.2.2)]
  (m.reply q (pktId p) f.1 f.2.1).renewNonce

/-! ### Records in host memory (Table 19.1) -/

def Rec.bytes (r : Rec) : List Byte :=
  leBytes 64 (pack [(0, 2, r.code), (2, 1, r.sev), (3, 1, b2n r.late + 2 * b2n r.unjoined), (4, 4, r.pcycles), (8, 4, r.opsec),
    (12, 4, r.index), (16, 8, r.time), (24, 40, r.payload)])

/-- EVR_READ (R650). -/
def Mod.evrRead (e : Evr) (m : Mod) (q : Nat) (p : Packet) : Mod :=
  let first := pkt p 24 4
  let area := if pkt p 32 1 = 1 then e.pres else e.ring
  let head := if pkt p 32 1 = 1 then e.presNext else e.next
  if head ≤ first then m.reply q (pktId p) stOK 0 [(20, 4, head)]
  else
    let held := area.filter fun r => decide (first ≤ r.index)
    let rs := held.take (pkt p 28 4)
    let next := match rs.getLast? with | some r => r.index + 1 | none => match held with | r :: _ => r.index | [] => head
    (m.hostWrite (pkt p 16 8) (rs.flatMap Rec.bytes)).reply q (pktId p) stOK 0 [(16, 4, rs.length), (20, 4, next)]
def execEvrRead (q : Queue) (p : Packet) (s : State) : Host.Outcome State Fault Refusal :=
  run (fun m => m.command 0x50 q p fun m => m.evrRead s.evr q p) s

/-! ### Freezing, thawing, clearing (R651 to R654) -/

/-- The time base is not joined (Table 19.1, UNJOINED). -/
def Mod.unjoined (m : Mod) : Bool := m.tb.state = .free || m.tb.state = .holdover

/-- The recorder's own record, appended at once (R646, R651, R652). -/
def Evr.own (e : Evr) (m : Mod) (code : Nat) (fs : List (Nat × Nat × Nat)) : Evr :=
  e.append (e.mk' code 0 (pack fs) m.now m.unjoined)

/-- Ends a freeze: STAGING_LOST where records were discarded, then every staged record in staging order. -/
def Evr.thaw (e : Evr) (m : Mod) : Evr :=
  let st := e.staging
  let e' := { e with frozenAt := none, staging := [], lostInFreeze := 0 }
  let e' := if e.lostInFreeze = 0 then e' else e'.own m 0xE003 [(0, 8, e.lostInFreeze)]
  st.foldl Evr.append e'

/-- A command that acts on the recorder: on the row's packet after the checks of R542. -/
def Mod.evrCommand (e : Evr) (m : Mod) (op q : Nat) (p : Packet) (f : Evr → Evr) : Mod × Evr :=
  (m.command op q p fun m => m.reply q (pktId p) stOK, if m.takes op q p && (m.checkPkt p).isNone then f e else e)

def Evr.freeze (e : Evr) (now : Nat) : Evr := if e.frozenAt.isSome then e else { e with frozenAt := some now, lostInFreeze := 0 }
def execEvrFreeze (q : Queue) (p : Packet) (s : State) : Host.Outcome State Fault Refusal :=
  runE (fun e m => m.evrCommand e 0x51 q p fun e => e.freeze m.now) s
def execEvrThaw (q : Queue) (p : Packet) (s : State) : Host.Outcome State Fault Refusal :=
  runE (fun e m => m.evrCommand e 0x52 q p fun e => if e.frozenAt.isSome then e.thaw m else e) s

/-- A record of the instant of EVR_CLEAR that the ring already held enters the new one (R654); it was appended once. -/
def Evr.reenter (e : Evr) (r : Rec) : Evr :=
  { e with ring := (e.ring ++ [{ r with index := e.next }]).drop (e.ring.length + 1 - 65536), next := e.next + 1 }

/-- EVR_CLEAR: a new ring that begins with CLEARED; the records of this instant and the staged records follow. -/
def Evr.clear (e : Evr) (m : Mod) : Evr :=
  let same := e.ring.filter fun r => r.time = m.now && r.pcycles = e.pcycles
  let e' := { e with ring := [], next := 0, cleared := true }.own m 0xE002
    [(0, 4, e.next - same.length), (4, 4, m.sec.nonceGen), (8, 1, m.opkActive.getD 0)]
  (same.foldl Evr.reenter e').thaw m
def Mod.evrClear (mem : List Host.Cell) (e : Evr) (m : Mod) (q : Nat) (p : Packet) (g : Sig) : Mod × Evr :=
  if !m.takes 0x53 q p then (m, e)
  else match m.signedStatus mem p g with
    | some f => (m.signedFail q p f, e)
    | none => ((m.reply q (pktId p) stOK).renewNonce, e.clear m)
def execEvrClear (q : Queue) (p : Packet) (g : Sig) (s : State) : Host.Outcome State Fault Refusal :=
  runE (fun e m => m.evrClear s.mem e q p g) s

/-- FREEZE_EXPIRED: 10 s after EVR_FREEZE. -/
def Mod.freezeExpired (e : Evr) (m : Mod) : Evr :=
  match e.frozenAt with
  | none => e
  | some t =>
    if m.now < t + 10000000000 then e
    else (e.own m 0xE004 [(0, 8, t)]).thaw m
def execFreezeExpired (s : State) : Host.Outcome State Fault Refusal := runE (fun e m => (m, m.freezeExpired e)) s

/-! ### Windows, operating seconds, flush and start-up (R644, R649, R655, R656) -/

/-- RATE_WINDOW_CLOSE: the current window's ten operating seconds are over. -/
def execRateWindowClose (s : State) : Host.Outcome State Fault Refusal :=
  runE (fun e m => (m, if m.phase = .off ∨ m.phase = .boot then e else e.roll m.now m.unjoined)) s

/-- OPSEC_PERSIST: every 60 operating seconds. -/
def Evr.persist (e : Evr) : Evr := { e with opsecSaved := e.opsec, pcSaved := e.pcycles }
def execOpsecPersist (s : State) : Host.Outcome State Fault Refusal :=
  runE (fun e m => (m, if m.alive && decide (e.opsecSaved + 60 ≤ e.opsec) then e.persist else e)) s

/-- The flush of R383 and R616: staging and the counts go to the system region, records of the preserved kinds to the
preserved area too. -/
def Evr.flush (e : Evr) : Evr :=
  let e := (e.staging.filter Rec.preserved).foldl Evr.preserve e
  { e.persist with flushed := e.staging, staging := [] }

/-- The entry to BOOT: the ring, staging and counters are gone; the counts resume from what was persisted. -/
def Evr.boot (e : Evr) : Evr :=
  { heldBoot := e.heldBoot, pres := e.pres, presNext := e.presNext, opsec := e.opsecSaved, opsecSaved := e.opsecSaved,
    opNs := 0, pcycles := e.pcSaved + 1, pcSaved := e.pcSaved, flushed := e.flushed, winNo := e.opsecSaved / 10 }

/-- R656: RING_START, the flushed records with LATE set, the records held back from BOOT. -/
def Evr.start (e : Evr) (m : Mod) : Evr :=
  let e' := { e with flushed := [], heldBoot := [] }
  let e' := e'.own m 0xE001 [(0, 4, e.pcycles), (4, 1, b2n m.attic.lastFlushOk), (5, 2, e.flushed.length), (7, 1, m.sec.lastFatal)]
  let e' := e.flushed.foldl (fun e r => e.append { r with late := true }) e'
  e.heldBoot.foldl Evr.append e'

end Sys2Proof.Machine
end

