-- ==== Sys2Proof/Machine/Startup.lean ====
section
/-! DEFINITION. Resets, power and start-up (R383 to R385, R615 to R628, R681 to R686): the pins that power the module, the
flush, BOOT and its image, MEM_INIT, LINK_INIT, recovery mode. -/
namespace Sys2Proof.Machine

/-! ### What outlives a reset (R384, R615) -/

/-- The Attic's map with the runs of the extents in `es` alone: the space of every other tile is free (R384). -/
def Attic.keepTiles (a : Attic) (es : List Ext) : Attic :=
  (a.map.flatMap fun d => es.foldl (fun (l : List Ext) e => l.flatMap fun d => d.without e.frame e.n) [d]).foldl
    (fun a d => a.unmap d.tile d.n) a

/-- The module with everything gone that power-on and PERST# reach: the fuses and system region, the images with their
Attic tiles, the Attic's log and the pins stay. An image whose journal records are not on NAND is lost, and the journal buffer
with it, unless the flush that is to write it is still to come (R371, R383, R384): the map is the one that the snapshot and the
records on NAND give (R378), in which a freed image still stands whose records of that were lost (log entry 87). Images belong
to no job (R370). -/
def Mod.survivors (m : Mod) (flush : Bool) : Mod :=
  let back := if flush then [] else m.freed.filter fun y => match y.record with | some r => decide (m.attic.onNand < r) | none => true
  let imgs := ((m.images.filter fun (x : Image) => flush || decide (x.record ≤ m.attic.onNand)) ++ back.map (·.image)).map
    fun (x : Image) => { x with job := 0 }
  let keep := fun (h : Nat) => imgs.any fun x => x.obj = h
  let ext := (m.res.ext.filter fun e => keep e.obj && decide (e.home = homeAttic)) ++ back.flatMap (·.ext)
  let a := if flush then m.attic.keepTiles ext else { m.attic with map := m.attic.kept, recs := [] }.keepTiles ext
  let attic := fun (o : Obj) => { o with job := 0, copies := o.copies.filter fun x => x.1 = homeAttic }
  let live := (m.res.objs.filter fun (p : Nat × Obj) => keep p.1).map fun (p : Nat × Obj) => (p.1, attic p.2)
  let objs := back.foldl (fun (t : Tab Obj) y => Tab.put t y.image.obj (attic y.data)) live
  let gen := m.res.gen.filter fun (p : Nat × Nat) => imgs.any fun x => handleIdx x.obj = p.1
  { phase := .off
    pins := m.pins
    nv := m.nv
    images := imgs
    freed := if flush then m.freed else []
    res := {
      objs := objs
      ext := ext.foldr insExt []
      gen := back.foldl (fun t y => Tab.set 1 t (handleIdx y.image.obj) (handleGen y.image.obj)) gen }
    attic := {
      blocks := a.blocks
      retiredMib := a.retiredMib
      log := a.log
      head := a.head
      map := a.map
      buf := if flush then a.buf else 0
      appended := if flush then a.appended else a.onNand
      onNand := a.onNand
      region := a.region
      recs := a.recs
      kept := if flush then a.kept else a.map
      accepting := !flush }
    lnk := { dark := true }
    hif := { linkUp := false }
    free := m.free
    ids := m.ids
    orders := m.orders
    sb := { i3c := m.sb.i3c } }

/-- Leaves for OFF with the flush of R383 and R616 under way; from OFF nothing is flushed. -/
def Mod.goOff (m : Mod) : Mod :=
  if m.phase = .off then m
  else
    let x := m.survivors true
    { x with
      pins := { x.pins with flushing := true, modFault := false }
      nv := { x.nv with flushDue := true, flushOk := false, flushBytes := x.attic.buf } }

/-! ### The entry to BOOT (R618, R686) -/

/-- MOD_PGOOD is asserted, PERST# is not, no flush runs, nothing keeps the module off (Table 18.2, R586, R616). -/
def Mod.mayBoot (m : Mod) : Bool :=
  m.phase = .off && m.pins.pwrEn && m.pins.pwrGood && !m.pins.perst && !m.pins.flushing && !m.pins.thermTrip &&
    decide (44000 < m.pins.inputMv ∧ m.pins.inputMv ≤ 58000)

/-- The module at the entry to BOOT; a command nonce is drawn (R633). -/
def Mod.bootEntry (m : Mod) : Mod :=
  let x := m.survivors false
  { x with
    phase := .boot
    pins := { m.pins with modFault := false, coreRails := true, perimRails := true }
    lnk := {}
    hif := {}
    sec := { lastFail := m.nv.lastFail, lastFatal := m.nv.lastFatal, trialFailed := m.nv.trialFailed }
    nv := { m.nv with lastFail := 0, lastFatal := 0, trialFailed := false } }.renewNonce

/-- Goes to BOOT where nothing holds the module back. -/
def tryBoot (e : Evr) (m : Mod) : Mod × Evr := if m.mayBoot then (m.bootEntry, e.boot) else (m, e)

/-! ### Power, PERST#, input (R616, R681 to R685) -/

/-- INPUT_LOSS: input below 44 V, or above 58 V, where the protection disconnects (Table 21.2). The hold-up carries a flush for
5 ms, and may cut it short (R383). -/
def execInputLoss (s : State) : Host.Outcome State Fault Refusal :=
  run (fun m =>
    let m := m.goOff
    { m with pins := { m.pins with
      inputMv := 0
      pwrGood := false
      thermTrip := false
      modFault := false
      inputCut := m.pins.flushing
      coreRails := false } }) s

/-- FLUSH_DONE (R383, R655): the journal buffer and the recorder's staging are in the journal region. An image whose last
records went with it is durable (R371). After a fatal fault of a trial the module restarts from BOOT (R628). -/
def Mod.flushDone (e : Evr) (m : Mod) : Mod × Evr :=
  if !m.pins.flushing then (m, e)
  else
    let m := { m with
      phase := if m.sec.restart then .off else m.phase
      pins := { m.pins with flushing := false, inputCut := false }
      nv := { m.nv with flushOk := true } }.journalFlush
    tryBoot e.flush { m with images := m.images.map fun (x : Image) => { x with durable := true }, freed := [] }
def execFlushDone (s : State) : Host.Outcome State Fault Refusal := runE (fun e m => m.flushDone e) s

def execModPwrenRise (s : State) : Host.Outcome State Fault Refusal := run (fun m => { m with pins := { m.pins with pwrEn := true } }) s

/-- MOD_PWREN_FALL: THERMTRIP# is released, the core and stack rails being off (R685). -/
def execModPwrenFall (s : State) : Host.Outcome State Fault Refusal :=
  run (fun m =>
    let m := m.goOff
    { m with pins := { m.pins with pwrEn := false, pwrGood := false, thermTrip := false, modFault := false, coreRails := false } }) s

/-- RAILS_IN_REGULATION: MOD_PGOOD rises with MOD_PWREN high and the input above 44 V. -/
def execRailsInRegulation (s : State) : Host.Outcome State Fault Refusal :=
  runE (fun e m =>
    if m.pins.pwrEn && !m.pins.thermTrip && decide (44000 < m.pins.inputMv ∧ m.pins.inputMv ≤ 58000) then
      -- a flush that is not done when power returns after a loss of input was cut short (R383; log entry 90)
      let cut := m.pins.flushing && m.pins.inputCut
      tryBoot e { m with pins := { m.pins with
        pwrGood := true
        flushing := m.pins.flushing && !cut
        inputCut := false
        coreRails := true
        perimRails := true } }
    else (m, e)) s
def execRailOutOfRegulation (s : State) : Host.Outcome State Fault Refusal :=
  run (fun m => { m with pins := { m.pins with pwrGood := false } }) s

def execPerstAssert (s : State) : Host.Outcome State Fault Refusal :=
  run (fun m => let m := m.goOff; { m with pins := { m.pins with perst := true } }) s
def execPerstDeassert (s : State) : Host.Outcome State Fault Refusal :=
  runE (fun e m => tryBoot e { m with pins := { m.pins with perst := false } }) s

/-- INPUT_APPLIED: the input stands at `mv`; the Strongbox is supplied and resumes from what it stored (R658, R663). A loop
broken while it had no supply is found now (R688). -/
def execInputApplied (mv : Nat) (s : State) : Host.Outcome State Fault Refusal :=
  let b := s.sbx
  let b' := if b.supplied || decide (mv < 40000) then b
    else { b with supplied := true, tamper := b.tamper || b.loopOpen }
  if mv ≤ 44000 ∨ 58000 < mv then .next { s with sbx := b' }
  else run (fun m => { m with pins := { m.pins with inputMv := mv } }) { s with sbx := b' }

/-- TRIP_PERIMETER_OFF: 5 ms after a thermal trip the perimeter of dies 0 and 1 is switched off (R586). -/
def execTripPerimeterOff (s : State) : Host.Outcome State Fault Refusal :=
  run (fun m =>
    if m.pins.thermTrip && m.pins.perimRails && decide (m.pins.tripAt + 5000000 ≤ m.now) then
      let x := m.survivors false
      { x with pins := { x.pins with perimRails := false, flushing := false } }
    else m) s

/-! ### BOOT (R622, R623, R632, R633) -/

/-- Recovery mode: no slot holds a valid image. -/
def Mod.enterRecovery (m : Mod) : Mod :=
  { m with
    sec := { m.sec with recovery := true }
    nv := { m.nv with lastFail := 1 }
    lnk := { m.lnk with dark := true }
    hif := { m.hif with linkUp := false }
    pins := { m.pins with modFault := true } }.ev 0xB050 3 [(0, 1, 1), (1, 1, 1)]

/-- The chosen image boots: event 0xB001. -/
def Mod.bootImage (m : Mod) (b trial fallback : Bool) : Mod :=
  let f := m.nv.slot b
  { m with
    fwver := f.version
    sec := { m.sec with bootedB := b, trial := trial, fallback := fallback } }.ev 0xB001 0
      [(0, 1, b2n b), (1, 1, b2n fallback), (2, 4, f.version), (6, 1, f.svn)]

/-- The slot that boots (R623): PENDING on trial, else ACTIVE, else another valid one as a fallback. -/
def Mod.chooseImage (m : Mod) : Mod :=
  let m := match m.nv.slotIs .pending with
    | some b => if m.nv.slotOk b then m else m.trialFails 1 1
    | none => m
  match m.nv.slotIs .pending, m.nv.slotIs .active with
  | some b, _ => m.bootImage b true false
  | none, some a =>
    if m.nv.slotOk a then m.bootImage a false false
    else if m.nv.slotOk (!a) then m.bootImage (!a) false true else m.enterRecovery
  | none, none => m.enterRecovery

/-- Event 0x5130 of the last flush: how many of its journal bytes one that did not complete wrote is free. -/
def Mod.flushReport (m : Mod) : Mod :=
  if !m.nv.flushDue then m
  else
    let n := if m.attic.lastFlushOk then m.nv.flushBytes else (Config.freeValue m.free).toNat % (m.nv.flushBytes + 1)
    { m with free := m.free + 1, nv := { m.nv with flushDue := false } }.ev 0x5130 0
      [(0, 1, b2n m.attic.lastFlushOk), (1, 4, n)]

/-! ### Device keys (R635, R636, Table 18.6) -/

/-- A seed: the first 32 bytes of a digest (R635). -/
def seedOf (bs : List Byte) : BitVec 256 := (Config.sha3 bs).setWidth 256
def Nv.idSeed (n : Nv) : BitVec 256 := seedOf (ascii "LX1536-ID" ++ leBytes 32 n.ds.toNat)
def Nv.aliasSeed (n : Nv) (body : BitVec 512) : BitVec 256 :=
  seedOf (ascii "LX1536-ALIAS" ++ leBytes 32 n.ds.toNat ++ leBytes 64 body.toNat)

/-- ML-DSA-87's object identifier 2.16.840.1.101.3.4.3.19, an arc to four bytes (R636). -/
def oidBytes : List Byte := ([2, 16, 840, 1, 101, 3, 4, 3, 19] : List Nat).flatMap fun a => leBytes 4 a
/-- The device identity certificate, issued at manufacture: its subject serial number is DEV_SERIAL, its key the identity key. -/
def Nv.idCert (n : Nv) : List Byte :=
  let tbs := oidBytes ++ leBytes 8 n.serial ++ leBytes 2592 (Config.mldsaPublic n.idSeed).toNat
  Config.x509 (tbs ++ leBytes 4627 (Config.caSignature tbs).toNat)
/-- The alias certificate: its extension carries VERSION, SVN and BODY_HASH; the identity key signs it, with randomness `r`. -/
def Nv.aliasCert (n : Nv) (f : FwSlot) (r : BitVec 64) : List Byte :=
  let tbs := oidBytes ++ leBytes 4 f.version ++ leBytes 4 f.svn ++ leBytes 64 f.bodyHash.toNat ++
    leBytes 2592 (Config.mldsaPublic (n.aliasSeed f.bodyHash)).toNat
  Config.x509 (tbs ++ leBytes 4627 (Config.mldsaSign n.idSeed tbs r).toNat)

/-- The bytes of measurement block 3: FWK_HASH, the rollback floor as a fuse thermometer (R625), the repair fuses, the voltage
table. -/
def Nv.fused (n : Nv) : List Byte :=
  let reps := n.fuseSplices.flatMap fun (p : Nat × List Splice) => p.2.flatMap fun t => [p.1, b2n t.col, t.phys]
  leBytes 64 n.fwkHash.toNat ++ leBytes 8 (2 ^ n.floor - 1) ++ Config.fuseBytes reps ++ Config.fuseBytes n.vtab

/-- The boot ROM derives the alias key, signs its certificate with the identity key, which it erases, and read-locks the device
secret (R635); the measurements that stand for the life of a boot are taken (Table 18.6). -/
def Mod.deriveKeys (m : Mod) : Mod :=
  let f := m.nv.slot m.sec.bootedB
  { m with
    free := m.free + 1
    sec := { m.sec with
      dsLocked := true
      aliasSeed := m.nv.aliasSeed f.bodyHash
      aliasCert := m.nv.aliasCert f (Config.freeValue m.free)
      bodyHash := f.bodyHash
      fuseDigest := Config.sha3 m.nv.fused
      opkDigest := if m.opkActive.isSome then Config.sha3 m.nv.opkKey else 0 } }

/-- The rest of BOOT: the endpoint's link at full width where it trained no lower (R527), the operator key's check (R632), the
device keys, what the last flush left. The nonce was drawn at the entry; State.reset stands before that draw. -/
def Mod.bootWork (m : Mod) : Mod :=
  let m := m.chooseImage
  if m.sec.recovery then m
  else
    let bad := match m.opkActive with | some k => decide (Config.sha3 m.nv.opkKey ≠ Tab.get 0 m.nv.opkHash k) | none => false
    let m := m.deriveKeys
    let m := { m with
      sec := { m.sec with opkBad := bad, opkWasBad := bad }
      hif := if m.hif.width = 0 then { m.hif with width := 8, rate := 1280, flit := true } else m.hif
      attic := { m.attic with lastFlushOk := m.nv.flushOk }
      nv := { m.nv with flushOk := false } }
    let m := if bad then m.ev 0xB040 0 [(0, 1, m.opkActive.getD 0)] else m
    (if m.sec.nonceGen = 0 then m.renewNonce else m).flushReport

/-- MEM_INIT begins: the core rails stand at the PH_IDLE point; THROTTLE_IN# acts from now (R684). -/
def Mod.enterMemInit (m : Mod) : Mod :=
  let m := m.setPhase .memInit
  let v := m.vtab m.pwr.idlePref
  let m := { m with pwr := { m.pwr with setpoint := v, opNow := m.pwr.idlePref } }.power
  if m.pins.throttle then m.throttleOn else m

/-- BOOT_COMPLETE: Nimig runs; the recorder starts its ring (R619, R656). -/
def execBootComplete (s : State) : Host.Outcome State Fault Refusal :=
  if s.m.phase ≠ .boot ∨ s.m.sec.recovery = true then .next s
  else
    let s1 := s.commit s.m.bootWork
    if s1.m.sec.recovery then .next s1
    else .next ({ s1 with evr := s1.evr.start s1.m }.commit s1.m.enterMemInit)

/-! ### MEM_INIT (R123, R124, R318, R322, R332, R385) -/

/-- A repair applied at start-up: event 0x1121. One that finds every spare of its kind spliced is not applied, and marks the
array exhausted (R104, R127; log entry 74). -/
def Mod.startSplice (m : Mod) (k : Nat) (t : Splice) : Mod :=
  if 16 ≤ ((m.arr! (k / 2) (k % 2)).splices.filter fun s => s.col = t.col).length then
    { m with nv := { m.nv with exhausted := k :: m.nv.exhausted.filter (· ≠ k) } }.ev 0x1122 2
      [(0, 1, k / 2), (1, 1, k % 2), (2, 1, b2n t.col), (3, 2, t.phys)]
  else
  (m.onArr (k / 2) (k % 2) fun x => { x with splices := x.splices ++ [t] }).ev 0x1121 0
    [(0, 1, k / 2), (1, 1, k % 2), (2, 1, b2n t.col), (3, 2, t.phys), (5, 1, b2n t.field), (6, 1, 0)]

/-- The fuse repairs, then the journal's in order; unreadable records leave the fuses alone (R123, R128). -/
def Mod.startRepairs (m : Mod) (readable : Bool) (code : Nat) : Mod :=
  let m := m.nv.fuseSplices.foldl (fun m (p : Nat × List Splice) => p.2.foldl (fun m t => m.startSplice p.1 { t with field := false }) m) m
  if readable then m.nv.journal.foldl (fun m p => m.startSplice p.1 p.2) m
  else { m with sec := { m.sec with recordsBad := true } }.ev 0x1123 0 [(2, 4, code)]

/-- The Cellar's map-outs (R322, R323): the pseudo-channels left, a stack with fewer than 16 out whole and its reserved
area in another stack of its Shelf. -/
def Mod.startMapOuts (m : Mod) : Mod :=
  let m := (List.range 32).foldl (fun m i =>
    let gone := (m.nv.mapOuts.filter fun p => p.1 = i).map (·.2)
    m.onStack i fun x => { x with
      active := 32 - gone.length
      out := decide (32 - gone.length < 16)
      pc := gone.foldl (fun (t : Tab PcSt) h => Tab.put t h { mapped := true }) [] }) m
  (List.range 32).foldl (fun m i => if (m.stack! i).out then m.copyReserved i else m) m

/-- A core fenced at start-up; the last unfenced one cannot be (R127, R332, R595). `kind` and `code` as in event 0xD001. -/
def Mod.startupFence (m : Mod) (c kind code : Nat) : Mod :=
  if (m.core! c).fenced then m
  else if m.liveCores.length ≤ 1 then m.fatalFail 6 c
  else
    let m := { m with autoFenced := m.autoFenced ||| 2 ^ c }.onCore c fun x => { x with fenced := true }
    (m.ev 0xD001 0 [(0, 1, c), (1, 1, kind), (2, 2, code)]).devCount 0x110

/-- A reformat reaches the log, its map and its journal: blocks that were in use are erased (R385; log entry 70). -/
def Attic.reformat (a : Attic) : Attic :=
  { a with
    blocks := a.blocks.map fun (p : Nat × EBlock) => (p.1, if p.2.use.isSome then p.2.erase else p.2)
    log := []
    head := 0
    map := []
    recs := []
    kept := []
    buf := 0
    appended := 0
    onNand := 0
    region := 0 }

/-- The Attic's start (R385): codes 2 to 4 reformat it, its images lost. Event 0x5131. -/
def Mod.startAttic (m : Mod) (code : Nat) : Mod :=
  let m := { m with attic := { m.attic with startCode := code } }
  let m := if 2 ≤ code then
    let gone := fun (h : Nat) => m.images.any fun x => x.obj = h
    { m with
      attic := m.attic.reformat
      sec := { m.sec with reformatted := true }
      res := { m.res with
        objs := m.res.objs.filter fun (p : Nat × Obj) => !gone p.1
        ext := m.res.ext.filter fun e => !gone e.obj }
      images := [] }
    else m
  m.ev 0x5131 0 [(0, 1, code), (1, 4, m.images.length)]

/-- MEM_INIT_COMPLETE: the Attic, the repairs, the map-outs, the fences of cores whose arrays are exhausted or whose banks
fail. With records that cannot be read no core is fenced as exhausted (R128; log entry 74). -/
def Mod.memInit (m : Mod) (r : MemInitReport) : Mod :=
  if m.phase ≠ .memInit || m.fatal then m
  else
    let m := (m.startAttic r.atticCode).startRepairs r.recordsReadable r.atticCode
    let m := m.startMapOuts.spareCheck
    let m := if r.recordsReadable then m.nv.exhausted.foldl (fun m k => m.startupFence (k / 2) 2 0x1122) m else m
    let m := r.bankFail.foldl (fun m cb => (m.ev 0x4803 2 [(0, 1, cb.1), (1, 1, cb.2)]).startupFence cb.1 0 0x4803) m
    let m := r.calibFail.foldl (fun m sp => m.suspect sp.1 sp.2 4) m
    if m.fatal then m
    else
      let m := (List.range 64).foldl (fun m p => m.onPort p fun x => { x with link := .training }) m
      m.setPhase .linkInit
def execMemInitComplete (r : MemInitReport) (s : State) : Host.Outcome State Fault Refusal := run (fun m => m.memInit r) s

/-! ### LINK_INIT (R618, R628) -/

/-- A trial that reaches READY or DEGRADED: its slot ACTIVE, the other INACTIVE, the floor raised, event 0xB002. -/
def Mod.confirmTrial (m : Mod) : Mod :=
  if !m.sec.trial then m
  else
    let b := m.sec.bootedB
    let f := m.nv.slot b
    let nv := (m.nv.setSlot b fun f => { f with st := .active }).setSlot (!b) FwSlot.unmark
    let floor := max m.nv.floor f.svn
    { m with
      nv := { nv with floor := floor }
      sec := { m.sec with trial := false } }.ev 0xB002 0 [(0, 1, b2n b), (1, 4, f.version), (5, 1, floor)]

/-- LINK_INIT_COMPLETE: every port has trained or 2 s have passed. -/
def Mod.linkInitDone (m : Mod) : Mod :=
  let all := (List.range 64).all fun p => (m.port! p).link = .up
  if m.phase ≠ .linkInit || m.fatal || !(all || decide (m.phaseAt + 2000000000 ≤ m.now)) then m
  else (m.setPhase (if m.degradedCond then .degraded else .ready)).confirmTrial
def execLinkInitComplete (s : State) : Host.Outcome State Fault Refusal := run Mod.linkInitDone s

/-! ### A state that outlasts its limit (R621, R628) -/

/-- The limit of a start-up state in ticks, and its failure code. -/
def startLimit : Phase → Option (Nat × Nat)
  | .boot => some (3000000000, 2) | .memInit => some (120000000000, 3) | .linkInit => some (2000000000, 4) | _ => none

/-- The failure code of a start-up state that has outlasted its limit. -/
def Mod.overdue (m : Mod) : Option Nat :=
  match if m.sec.recovery || m.fatal then none else startLimit m.phase with
  | some (lim, code) => if m.phaseAt + lim < m.now then some code else none
  | none => none
/-- A start that fails goes to FAILED, from step 2 of R608 on (R621). -/
def Mod.startupFail (m : Mod) (code : Nat) : Mod :=
  let m := m.ev 0xB050 3 [(0, 1, code), (1, 1, m.phase.code)]
  { m with fatal := true, nv := { m.nv with lastFail := code } }.goFailed
/-- STARTUP_FAIL: a trial restarts from BOOT, its own event recorded before the recorder restarts (R628); any other start fails. -/
def execStartupFail (s : State) : Host.Outcome State Fault Refusal :=
  match s.m.overdue with
  | none => .next (s.commit s.m)
  | some code =>
    if s.m.onTrial then
      let s1 := s.commit (s.m.trialFails s.m.phase.code 2)
      .next ({ s1 with evr := s1.evr.boot }.commit s1.m.bootEntry)
    else .next (s.commit (s.m.startupFail code))

/-! ### Recovery mode (R622) -/

/-- Bytes of an image: those that are not listed are zero. -/
def imgByte (t : Tab Nat) (i : Nat) : Nat := Tab.get 0 t i
def imgNum (t : Tab Nat) (off n : Nat) : Nat := (List.range n).foldr (fun i a => imgByte t (off + i) + 256 * a) 0
def imgBytes (t : Tab Nat) (off n : Nat) : List Byte := (List.range n).map fun i => BitVec.ofNat 8 (imgByte t (off + i))
/-- No byte of [lo, hi) differs from zero. -/
def imgZeroes (t : Tab Nat) (lo hi : Nat) : Bool := t.all fun p => p.2 = 0 || !decide (lo ≤ p.1 ∧ p.1 < hi)

/-- The header of an image (Table 18.3). -/
def imgHeader (t : Tab Nat) : ImageHdr :=
  { magicOk := imgNum t 0 4 = 0x5746584C
    type := imgByte t 4
    reservedZero := imgZeroes t 5 8 && imgZeroes t 88 96 && imgZeroes t 7315 8192
    version := BitVec.ofNat 32 (imgNum t 8 4)
    svn := imgNum t 12 4
    bodyLen := imgNum t 16 8 }
def imgKey (t : Tab Nat) : List Byte := imgBytes t 96 2592

/-- Rules 1 to 4 of R624 for an image of n bytes. -/
def Nv.passes (nv : Nv) (t : Tab Nat) (n : Nat) (a : ImageAuth) : Bool :=
  let h := imgHeader t
  h.magicOk && (h.type = 1 || h.type = 2) && h.reservedZero && decide (h.svn ≤ 64 ∧ 1 ≤ h.bodyLen ∧ h.bodyLen ≤ 67108864) &&
    decide (8192 + h.bodyLen ≤ n) && decide (Config.sha3 (imgKey t) = nv.fwkHash) &&
    sigAccepts a.image "LX1536FW" (imgKey t) (imgBytes t 0 2688) (imgBytes t 2688 4627) &&
    decide (leBytes 64 (Config.sha3 (imgBytes t 8192 h.bodyLen)).toNat = imgBytes t 24 64)

/-- A slot that holds a Nimig image as PENDING. -/
def pendingSlot (t : Tab Nat) : FwSlot :=
  let h := imgHeader t
  { st := .pending, svn := h.svn, version := h.version.toNat, bodyHash := BitVec.ofNat 512 (imgNum t 24 64), valid := true }

/-- The image that a transfer brings, as a table of its bytes. -/
def imgOf (img : List (Nat × Byte)) : Tab Nat := img.foldl (fun t b => Tab.put t b.1 b.2.toNat) []

/-- FIRMWARE_IMAGE_TRANSFER: a TYPE 1 image valid under R624 goes to slot A as PENDING; slot B is empty. -/
def execFirmwareImageTransfer (img : ImageFile) (a : ImageAuth) (s : State) : Host.Outcome State Fault Refusal :=
  run (fun m =>
    let t := imgOf img.bytes
    if m.sec.recovery && m.nv.passes t img.len a && (imgHeader t).type = 1 && decide (m.nv.floor ≤ (imgHeader t).svn) then
      { m with nv := { m.nv with slotA := pendingSlot t, slotB := {} } }
    else m) s

/-- ACTIVATE_FIRMWARE: MOD_FAULT# is released and the module restarts from BOOT as PERST# would: after the flush (R616). -/
def execActivateFirmware (s : State) : Host.Outcome State Fault Refusal :=
  run (fun m => if m.sec.recovery then m.goOff else m) s

end Sys2Proof.Machine
end

