-- ==== Sys2Proof/Machine/Security.lean ====
section
/-! DEFINITION. DEV_QUERY, staging and activation of images (R626, R627, R631), debug unlock (R639 to R641) and the
Function Level Reset (R617). -/
namespace Sys2Proof.Machine

/-! ### DEV_QUERY (Table 15.13) -/

def devId : Nat := 0x15364C00
def devRev : Nat := 0xB0000000
/-- ATC_CAP: 24 TiB; blocks retire into the spare area (R381). -/
def atcCap : Nat := 0x180000000000

/-- The device record; bytes 72 to 4,095 are zero. -/
def Mod.devRecord (m : Mod) : Nat :=
  let sbFw := match m.met.held with | some f => f.fwver.toNat | none => 0
  pack [(0, 4, devId), (4, 4, devRev), (8, 4, m.fwver), (12, 4, sbFw), (16, 8, m.nv.serial), (24, 4, m.devState),
    (28, 4, m.lnk.chip), (32, 8, m.lnk.epoch), (40, 8, m.celCap), (48, 8, atcCap), (56, 8, m.portBits .verified),
    (64, 4, m.pwr.capW), (68, 2, m.hif.rate / 10), (70, 1, m.hif.width)]
def Mod.devQuery (m : Mod) (q : Nat) (p : Packet) : Mod :=
  (m.hostWrite (pkt p 16 8) (leBytes 4096 m.devRecord)).reply q (pktId p) stOK
def execDevQuery (q : Queue) (p : Packet) (s : State) : Host.Outcome State Fault Refusal :=
  run (fun m => m.command 0x01 q p fun m => m.devQuery q p) s

/-! ### FW_STAGE (R626) -/

/-- Adds [lo, hi) to a list of disjoint ranges. -/
def addRange (rs : List (Nat × Nat)) (lo hi : Nat) : List (Nat × Nat) :=
  if hi ≤ lo then rs
  else
    let near := rs.filter fun r => decide (r.1 ≤ hi ∧ lo ≤ r.2)
    let far := rs.filter fun r => !decide (r.1 ≤ hi ∧ lo ≤ r.2)
    let all := near.foldl (fun (a : Nat × Nat) r => (min a.1 r.1, max a.2 r.2)) (lo, hi)
    (far.filter fun r => decide (r.2 < all.1)) ++ [all] ++ far.filter fun r => decide (all.2 < r.1)

/-- The slot that staging writes: the one that is not ACTIVE. -/
def Nv.stageSlot (n : Nv) : Bool := match n.slotIs .active with | some b => !b | none => false

/-- The staged bytes with a chunk of host memory in place. -/
def stageBytes (mem : List Host.Cell) (st : Tab Nat) (a len off : Nat) : Tab Nat :=
  let kept := st.filter fun p => !decide (off ≤ p.1 ∧ p.1 < off + len)
  (mem.filter fun c => decide (a ≤ c.1 ∧ c.1 < a + len)).foldl (fun (t : Tab Nat) c => Tab.put t (c.1 - a + off) c.2.toNat) kept

/-- An OFFSET of 0 begins anew and empties the slot; a later chunk leaves no valid image there. -/
def Mod.fwStage (mem : List Host.Cell) (m : Mod) (q : Nat) (p : Packet) : Mod :=
  let a := pkt p 16 8
  let len := pkt p 24 4
  let off := pkt p 28 4
  if 67117056 < off + len then m.reply q (pktId p) stInvalidField (if 67117056 < len then 24 else 28)
  else
    let b := m.nv.stageSlot
    let sec := if off = 0 then { m.sec with stage := [], stageRanges := [], stageLen := none } else m.sec
    let sec := { sec with
      stage := stageBytes mem sec.stage a len off
      stageRanges := addRange sec.stageRanges off (off + len)
      stageLen := if bit (pkt p 32 1) 0 then some (off + len) else sec.stageLen }
    let nv := m.nv.setSlot b fun f =>
      if off = 0 then {} else { f with valid := false, st := if f.st = .pending then .pending else .empty }
    { m with sec := sec, nv := nv }.reply q (pktId p) stOK 0 [(16, 4, len)]
def execFwStage (q : Queue) (p : Packet) (s : State) : Host.Outcome State Fault Refusal :=
  runH (fun mem m => m.command 0x58 q p fun m => m.fwStage mem q p) s

/-! ### FW_ACTIVATE (R627, R631) -/

/-- The staged image's length, where LAST has been seen and every byte below it is written. -/
def Sec.staged (s : Sec) : Option Nat :=
  match s.stageLen with
  | some n => if n = 0 ∨ s.stageRanges.any (fun r => r.1 = 0 && decide (n ≤ r.2)) then some n else none
  | none => none

/-- The last key-record slot check (R631): 0 refused, 1 enrols SLOT, 2 rewrites the active slot's key. -/
def Mod.keyRecord (m : Mod) (a : ImageAuth) : Nat :=
  let t := m.sec.stage
  let slot := imgByte t 8192
  let form := decide (imgNum t 16 8 = 7231 ∧ slot ≤ 3) && imgZeroes t 8193 8196
  let serial := decide (imgNum t 8196 8 = m.nv.serial)
  let cosigOk := sigAccepts a.cosig "LX1536OPK" m.nv.opkKey (imgBytes t 8192 2604) (imgBytes t (8192 + 2604) 4627)
  match m.opkActive with
  | none => if form && serial && imgZeroes t (8192 + 2604) (8192 + 7231) then 1 else 0
  | some k =>
    if form && decide (slot = k) && decide (Config.sha3 (imgBytes t 8204 2592) = Tab.get 0 m.nv.opkHash k) then 2
    else if form && serial && cosigOk && !m.sec.opkBad && decide (k < slot) then 1 else 0

/-- The checks of R627 and R631 in their order. -/
def Mod.activateStatus (m : Mod) (p : Packet) (a : ImageAuth) : Option (Nat × Nat) :=
  let h := imgHeader m.sec.stage
  match m.sec.staged with
  | none => some (stFwImage, 1)
  | some n =>
    if !m.nv.passes m.sec.stage n a then some (stFwImage, 2)
    else if h.svn < m.nv.floor then some (stFwRollback, 0)
    else if h.version.toNat ≠ pkt p 16 4 then some (stInvalidField, 16)
    else if h.type = 2 && m.keyRecord a = 0 then some (stFwImage, 3)
    else none

/-- What a staged image that passes does: a Nimig image marks its slot PENDING; a key record blows its slot's hash fuse, unless it
only rewrites the key, and stores NEW_KEY (R631). -/
def Mod.activate (m : Mod) (a : ImageAuth) : Mod :=
  let t := m.sec.stage
  let h := imgHeader t
  let m := m.ev 0xB010 0 [(0, 1, h.type), (1, 4, h.version.toNat), (5, 1, h.svn)]
  if h.type = 1 then { m with nv := m.nv.setSlot m.nv.stageSlot fun _ => pendingSlot t }
  else
    let slot := imgByte t 8192
    let key := imgBytes t 8204 2592
    let enrol := decide (m.keyRecord a = 1)
    let m := if enrol then m.ev 0xB031 0 [(0, 1, slot), (1, 1, m.nv.opkProg % 2 ^ slot)] else m
    { m with
      nv := { m.nv with
        opkHash := if enrol then Tab.put m.nv.opkHash slot (Config.sha3 key) else m.nv.opkHash
        opkKey := key }
      sec := { m.sec with opkBad := false } }

def Mod.fwActivate (mem : List Host.Cell) (m : Mod) (q : Nat) (p : Packet) (g : Sig) (a : ImageAuth) : Mod :=
  if !m.takes 0x59 q p then m
  else match m.signedStatus mem p g with
    | some f => m.signedFail q p f
    | none =>
      match m.activateStatus p a with
      | some (st, d) => ((m.ev 0xB011 0 [(0, 2, st), (2, 4, d)]).reply q (pktId p) st d).renewNonce
      | none => ((m.activate a).reply q (pktId p) stOK).renewNonce
def execFwActivate (q : Queue) (p : Packet) (g : Sig) (a : ImageAuth) (s : State) : Host.Outcome State Fault Refusal :=
  runH (fun mem m => m.fwActivate mem q p g a) s

/-! ### Debug (R639, R640) -/

def Mod.debugUnlock (mem : List Host.Cell) (m : Mod) (q : Nat) (p : Packet) (g : Sig) : Mod :=
  if !m.takes 0x5B q p then m
  else match m.signedStatus mem p g with
    | some f => m.signedFail q p f
    | none =>
      if m.nv.dbgDisable then (m.reply q (pktId p) stDebugLocked).renewNonce
      else
        let e := m.now + pkt p 16 4 * 1000000000
        let m := { m with sec := { m.sec with dbgEnd := e } }.ev 0xB020 0 [(0, 4, pkt p 16 4), (4, 8, e)]
        (m.reply q (pktId p) stOK).renewNonce
def execDebugUnlock (q : Queue) (p : Packet) (g : Sig) (s : State) : Host.Outcome State Fault Refusal :=
  runH (fun mem m => m.debugUnlock mem q p g) s

/-- Debug locks: event 0xB021 with its reason. -/
def Mod.relock (m : Mod) (why : Nat) : Mod :=
  { m with sec := { m.sec with dbgEnd := 0 } }.ev 0xB021 0 [(0, 1, why), (1, 8, m.now)]

/-- A write of SEC_DBG_CTRL. -/
def execDebugLockWrite (v : W32) (s : State) : Host.Outcome State Fault Refusal :=
  run (fun m => if m.reachable && bit v.toNat 0 && m.dbgOpen then m.relock 2 else m) s

/-- DEBUG_RELOCK_EXPIRY: the time base has reached E; DEV_STATE changed at that tick (R540). -/
def execDebugRelockExpiry (s : State) : Host.Outcome State Fault Refusal :=
  run (fun m => if m.sec.dbgEnd ≠ 0 ∧ m.sec.dbgEnd ≤ m.now then (m.relock 1).async 1 else m) s

/-! ### FLR (R617) -/

/-- The host memory of an export that had begun to fill holds undefined bytes (R552). -/
def Mod.spoilExport (m : Mod) (x : SnapExp) : Mod :=
  if x.link || x.bytes = 0 then m
  else
    let bs := (List.range x.len).map fun i => BitVec.ofNat 8 (Config.freeValue (m.free + i)).toNat
    { m with free := m.free + x.len }.hostWrite x.addr bs

/-- The packets of every export leave what waits to be sent: none of them goes out any more, LAST among them (R552). -/
def Mod.dropExports (m : Mod) : Mod :=
  let snap := fun (p : OutPkt) => p.kind = kSnapshot
  let ids := m.lnk.tx.flatMap fun (kt : Nat × TxStream) => (kt.2.unacked.filter fun x => snap x.pkt).map fun _ => kt.1
  { m with lnk := { m.lnk with
      formed := m.lnk.formed.filter fun p => !snap p
      parked := m.lnk.parked.filter fun p => !snap p
      tx := m.lnk.tx.filter fun (kt : Nat × TxStream) => !ids.contains kt.1
      ports := m.lnk.ports.map fun (p : Nat × PortSt) => (p.1, { p.2 with waiting := p.2.waiting.filter fun f => f.kind ≠ kSnapshot }) } }

/-- A job at an FLR (R552, R617): its step ends as STEP_ABORT would end it, so that one whose verdict was finite still commits; its
checkpoint and export are abandoned; and it closes as JOB_CLOSE would, once nothing of it runs, without any reply. -/
def Mod.flrJob (m : Mod) (job : Nat) : Mod :=
  let m := match m.run? job with
    | some r => (if r.verdict.isNone then m.stopStep job stAborted 0 else m).onRun job fun r =>
        { r with queue := 64, replay := if r.verdict.isNone then none else r.replay }
    | none => m
  let m := match (m.job? job).bind (·.ckpt) with
    | some k => match k.image with
      | some h => m.freeObj h
      | none => m
    | none => m
  let m := match (m.job? job).bind (·.snap) with
    | some x => m.spoilExport x
    | none => m
  (m.onJob job fun j => { j with ckpt := none, snap := none, closing := some (64, 0) }).closeIfDue job

/-- FLR: queues stop, jobs close, HIF and DEV_CONFIG at their reset values, debug locked, IDE ended, a new nonce. What a
command in flight had started without replying goes on. -/
def Mod.flr (m : Mod) : Mod :=
  let m := m.jobs.foldl (fun m (p : Nat × Job) => m.flrJob p.1) m.dropExports
  let m := { m with
    hif := { func := m.hif.func, width := m.hif.width, rate := m.hif.rate, flit := m.hif.flit, linkUp := m.hif.linkUp, msix := m.hif.msix,
             aer := m.hif.aer, aperture := m.hif.aperture }
    tb := { m.tb with joins := [] }
    lnk := { m.lnk with helloQ := m.lnk.helloQ.map fun (h : Nat × Nat × Nat) => (64, 0, h.2.2) }
    deferFence := m.deferFence.map fun (d : Nat × Nat × Nat) => (d.1, 64, 0)
    deferUnfence := m.deferUnfence.map fun (d : Nat × Nat × Nat) => (d.1, 64, 0) }
  let m := if m.dbgOpen then m.relock 3 else { m with sec := { m.sec with dbgEnd := 0 } }
  m.renewNonce
def execFlr (s : State) : Host.Outcome State Fault Refusal := run (fun m => if m.reachable then m.flr else m) s

end Sys2Proof.Machine
end

