-- ==== Sys2Proof/Machine/Metrology.lean ====
section
/-! DEFINITION. The Strongbox (R658 to R668, R688) and the metrology mailbox (R668 to R672, R675). The module's rows never
write the Strongbox: its own rows below, and the supply's return in INPUT_APPLIED, are all that do (R659). -/
namespace Sys2Proof.Machine

/-! ### MET_READ and MET_ENERGY -/

def Mod.metRead (m : Mod) (q : Nat) (p : Packet) : Mod :=
  match (if m.met.valid then m.met.held else none) with
  | some f => m.reply q (pktId p) stOK 0 [(16, 8, f.energy.toNat), (24, 8, m.met.heldAt)]
  | none => m.reply q (pktId p) stMet
def execMetRead (q : Queue) (p : Packet) (s : State) : Host.Outcome State Fault Refusal :=
  run (fun m => m.command 0x60 q p fun m => m.metRead q p) s

/-- A read of MET_ENERGY latches FRAME, TB and POWER of the held frame (R670). -/
def Mod.metLatch (m : Mod) : Mod :=
  match m.met.held with
  | some f => { m with met := { m.met with latFrame := f.frame.toNat, latTb := m.met.heldAt, latPower := f.power } }
  | none => m
def execMetEnergyRead (s : State) : Host.Outcome State Fault Refusal :=
  run (fun m => if m.reachable then m.metLatch else m) s

/-! ### Frames (R669, R675) -/

/-- Die 0's perimeter runs: it is powered and out of reset. -/
def Mod.perimeterRuns (m : Mod) : Bool := m.phase ≠ .off

/-- The frame is below the held one. -/
def Mod.frameBack (m : Mod) (f : MetFrame) : Bool :=
  match m.met.held with
  | some h => f.energy.toNat < h.energy.toNat || f.frame.toNat < h.frame.toNat
  | none => false

/-- An accepted frame: what it shows changed, then it is held. The first frame after BOOT fills the registers. -/
def Mod.acceptFrame (m : Mod) (f : MetFrame) : Mod :=
  let m := if m.met.valid then m else m.ev 0xC002 0 [(0, 8, f.frame.toNat), (8, 8, f.energy.toNat)]
  let m := if m.met.held.isSome && f.tamper && !m.met.tamperSeen then m.ev 0xC020 0 [(0, 8, f.frame.toNat)] else m
  let m := match m.met.held with
    | some h =>
      let m := if h.pcnt = f.pcnt then m else m.ev 0xC021 0 [(0, 4, h.pcnt.toNat), (4, 4, f.pcnt.toNat)]
      if h.fwver = f.fwver then m else m.ev 0xC022 0 [(0, 4, h.fwver.toNat), (4, 4, f.fwver.toNat)]
    | none => m
  { m with met := { m.met with held := some f, heldAt := m.now, valid := true, tamperSeen := f.tamper } }

/-- MAILBOX_FRAME. -/
def Mod.mailbox (m : Mod) (f : MetFrame) (crcOk : Bool) : Mod :=
  if !m.perimeterRuns then m
  else if !crcOk then { m with met := { m.met with cntCrc := m.met.cntCrc + 1 } }
  else if m.frameBack f then
    let held := match m.met.held with | some h => h.energy.toNat | none => 0
    m.ev 0xC030 0 [(0, 8, held), (8, 8, f.energy.toNat)]
  else m.acceptFrame f
def execMailboxFrame (f : MetFrame) (crcOk : Bool) (s : State) : Host.Outcome State Fault Refusal :=
  run (fun m => m.mailbox f crcOk) s

/-- MAILBOX_TIMEOUT: 100 ms without an accepted frame. -/
def Mod.mailboxTimeout (m : Mod) : Mod :=
  match m.met.held with
  | some f =>
    if m.met.valid && decide (m.met.heldAt + 100000000 ≤ m.now) then
      { m with met := { m.met with valid := false } }.ev 0xC001 0 [(0, 8, f.frame.toNat)]
    else m
  | none => m
def execMailboxTimeout (s : State) : Host.Outcome State Fault Refusal := run Mod.mailboxTimeout s

/-! ### The Strongbox's own work (R661 to R663, R668) -/

/-- The energy register, mJ. -/
def Strongbox.energy (b : Strongbox) : Nat := b.microJ / 1000

/-- A change of the Strongbox alone. -/
def onStrongbox (f : Strongbox → Strongbox) (s : State) : Host.Outcome State Fault Refusal := .next { s with sbx := f s.sbx }

/-- STRONGBOX_FRAME_SEND: the frame goes onto the mailbox link with the current count; the next carries one more. -/
def Strongbox.send (b : Strongbox) (power : Nat) : Strongbox :=
  if !b.supplied then b
  else { b with
    sent := some { energy := BitVec.ofNat 64 b.energy, frame := BitVec.ofNat 64 b.frame, fwver := BitVec.ofNat 32 b.fwver,
                   pcnt := BitVec.ofNat 32 b.pcnt, tamper := b.tamper, nvmFault := b.nvmFault, power := power }
    frame := b.frame + 1 }
def execStrongboxFrameSend (power : Nat) (s : State) : Host.Outcome State Fault Refusal := onStrongbox (fun b => b.send power) s

/-- ENERGY_ACCUMULATE: `microJ` drawn at a mean of `power` watts; below the starting threshold nothing is registered
(Table 20.1, R664). -/
def execEnergyAccumulate (microJ power : Nat) (s : State) : Host.Outcome State Fault Refusal :=
  onStrongbox (fun b => if b.supplied && decide (b.params.startW ≤ power) then { b with microJ := b.microJ + microJ } else b) s

def execEnergyNvmWrite (s : State) : Host.Outcome State Fault Refusal :=
  onStrongbox (fun b => if b.supplied then { b with nvmMilliJ := b.energy } else b) s

/-- BUSBAR_BELOW_40V: the register is stored on the hold-up, or the hold-up fails and NVM_FAULT sets; at the next supply
the register resumes from what is stored. -/
def Strongbox.supplyLost (b : Strongbox) (holdUpOk : Bool) : Strongbox :=
  if !b.supplied then b
  else if holdUpOk then { b with supplied := false, nvmMilliJ := b.energy, microJ := b.energy * 1000 }
  else { b with supplied := false, nvmFault := true, microJ := b.nvmMilliJ * 1000 }
def execBusbarBelow40v (holdUpOk : Bool) (s : State) : Host.Outcome State Fault Refusal :=
  onStrongbox (fun b => b.supplyLost holdUpOk) s

/-! ### The Strongbox's port (R664 to R667) and the seal (R688) -/

def Strongbox.bump (b : Strongbox) : Strongbox := { b with pcnt := (b.pcnt + 1) % 2 ^ 32 }

/-- A transfer whose signature verifies under the metrology authority's key. -/
def Strongbox.transfer (b : Strongbox) : MetOp → Strongbox
  | .params p => { b.bump with params := p }
  | .firmware v => { b.bump with fwver := v.toNat }
  | .clearTamper => { b.bump with tamper := false }
  | .clearNvmFault => { b with nvmFault := false }
def execMetrologySignedTransfer (sigOk : Bool) (op : MetOp) (s : State) : Host.Outcome State Fault Refusal :=
  onStrongbox (fun b => if b.supplied && sigOk then b.transfer op else b) s

/-- The 48 readable bytes of Table 20.2. -/
def Strongbox.image (b : Strongbox) : Nat :=
  pack [(0, 8, b.energy), (8, 8, b.frame), (16, 4, b.fwver), (20, 4, b.pcnt), (24, 4, b2n b.tamper + 2 * b2n b.nvmFault),
    (32, 8, b.serial), (40, 8, b.mserial)]

/-- STRONGBOX_PRIVATE_READ: the bytes go to the bus owner; nothing of the Strongbox changes. -/
def execStrongboxPrivateRead (off len : Nat) (s : State) : Host.Outcome State Fault Refusal :=
  if s.sbx.supplied then
    run (fun m => { m with sb := { m.sb with reply := (List.range len).map fun i => BitVec.ofNat 8 (byf s.sbx.image (off + i) 1) } }) s
  else .next s

/-- MET_SEAL: driven low while the Strongbox is supplied and the loop is intact (R681, R688). -/
def Strongbox.sealLow (b : Strongbox) : Bool := b.supplied && !b.loopOpen

def execSealLoopOpen (s : State) : Host.Outcome State Fault Refusal :=
  onStrongbox (fun b => { b with loopOpen := true, tamper := b.tamper || b.supplied }) s

end Sys2Proof.Machine
end

