-- ==== Sys2Proof/Machine/Sideband.lean ====
section
/-! DEFINITION. The sideband endpoint (R689 to R692), SPDM over its three transports and ATTEST (R635 to R638), and the test
port (R696, R697). A reply of the endpoint holds the values that the answer reports, without the framing of the DMTF
standards. -/
namespace Sys2Proof.Machine

/-! ### The module endpoint at 0x4E (Table 21.4) -/

/-- The endpoint answers: from MEM_INIT until FAILED or a reset, and throughout recovery mode. -/
def Mod.endpointUp (m : Mod) : Bool := m.alive || (m.phase = .boot && m.sec.recovery)

/-- The endpoint answers a request; otherwise nothing is acknowledged (R691). -/
def Mod.answer (m : Mod) (up : Bool) (bs : List Byte) : Mod := if up then { m with sb := { m.sb with reply := bs } } else m

def execSetEndpointId (eid : Byte) (s : State) : Host.Outcome State Fault Refusal :=
  run (fun m => if m.endpointUp then { m with sb := { m.sb with eid := eid.toNat, reply := [eid] } } else m) s
def execGetEndpointId (s : State) : Host.Outcome State Fault Refusal :=
  run (fun m => m.answer m.endpointUp [BitVec.ofNat 8 m.sb.eid]) s

/-- The MCTP message types of Table 21.5; in recovery mode SPDM is not answered (R622). -/
def Mod.mctpTypes (m : Mod) : List Byte := if m.sec.recovery then [0, 1] else [0, 1, 5]
/-- MCTP_DISCOVERY: `kind` 4 asks for the version, 5 for the message types; the base standard numbers them. -/
def execMctpDiscovery (kind : Byte) (s : State) : Host.Outcome State Fault Refusal :=
  run (fun m => m.answer m.endpointUp
    (if kind = 4 then leBytes 4 Config.mctpVersion.toNat else if kind = 5 then m.mctpTypes else [])) s
/-- PLDM_DISCOVERY: the PLDM types of Table 21.5. -/
def execPldmDiscovery (s : State) : Host.Outcome State Fault Refusal :=
  run (fun m => m.answer m.endpointUp (if m.sec.recovery then [0, 5] else [0, 2])) s

/-- The sensors of Table 21.5: the four die temperatures, coolant inlet and outlet, P1, the state. -/
def Mod.sensor (m : Mod) (n : Nat) : Option Int :=
  if n < 4 then some (m.die! n).tjMax
  else match n with
    | 4 => some m.pwr.inlet
    | 5 => some m.pwr.outlet
    | 6 => some m.pwr.p1
    | 7 => some m.phase.code
    | _ => none
/-- PLDM_SENSOR_READ: the value held at the instant of the read; none in recovery mode. -/
def execPldmSensorRead (n : Nat) (s : State) : Host.Outcome State Fault Refusal :=
  run (fun m => m.answer (m.endpointUp && !m.sec.recovery) (match m.sensor n with
    | some v => leBytes 4 (BitVec.ofInt 32 v).toNat
    | none => [])) s

/-- The bus runs in I3C mode from now on (R689). -/
def execDynamicAddressAssignment (s : State) : Host.Outcome State Fault Refusal :=
  run (fun m => { m with sb := { m.sb with i3c := true } }) s

/-! ### SPDM (R637, Table 18.5) -/

def tIdx : Transport → Nat
  | .attest => 0 | .mctp => 1 | .doe => 2

/-- The responder on a transport: Nimig runs, and the transport carries messages. -/
def Mod.spdmUp (m : Mod) (t : Transport) : Bool := m.alive && (match t with | .mctp => true | _ => m.hif.linkUp)

def Mod.conn (m : Mod) (t : Transport) : SpdmConn := Tab.get {} m.spdm (tIdx t)
def Mod.setConn (m : Mod) (t : Transport) (c : SpdmConn) : Mod := { m with spdm := Tab.set {} m.spdm (tIdx t) c }

/-- A request of a code on a transport: it moves the connection from a state of `from_` to `next`, and its response carries
`values`; the transcript goes on, from GET_VERSION anew. A request out of place is answered by an error and changes nothing. -/
def Mod.spdm1 (m : Mod) (t : Transport) (code : Nat) (doeOnly : Bool) (from_ : List SpdmState) (next : Option SpdmState)
    (values : List Byte) : Mod :=
  if !m.spdmUp t || (doeOnly && t ≠ .doe) || !from_.contains (m.conn t).st then m
  else m.setConn t {
    st := next.getD (m.conn t).st
    values := values
    transcript := (if code = 0x84 then [] else (m.conn t).transcript) ++ BitVec.ofNat 8 code :: values }

def spdmAny : List SpdmState := [.idle, .versioned, .capable, .negotiated, .session, .secured]
def spdmReady : List SpdmState := [.negotiated, .session, .secured]
/-- The 4,627 bytes of a signature under the alias key, in hedged mode: over the combined prefix and the SHA3-512 hash of the
transcript, which ends in the response's values (R638). -/
def Mod.spdmSignature (m : Mod) (t : Transport) (code : Nat) (values : List Byte) : List Byte :=
  let hash := Config.sha3 ((m.conn t).transcript ++ BitVec.ofNat 8 code :: values)
  leBytes 4627 (Config.mldsaSign m.sec.aliasSeed (Config.spdmPrefix code ++ leBytes 64 hash.toNat) (Config.freeValue m.free)).toNat
/-- A signed response: its values, then the signature; the randomness of the hedged mode is spent. -/
def Mod.signed (m : Mod) (t : Transport) (code : Nat) (values : List Byte) : List Byte := values ++ m.spdmSignature t code values

/-- The measurement blocks of Table 18.6: blocks 4 and 5 as of now, the others as of this boot. -/
def Mod.measurement (m : Mod) (index : Nat) : List Byte :=
  match index with
  | 1 => leBytes 64 Config.bootRom.toNat
  | 2 => leBytes 64 m.sec.bodyHash.toNat
  | 3 => leBytes 64 m.sec.fuseDigest.toNat
  | 4 => leBytes 4 (match m.met.held with | some f => f.fwver.toNat | none => 0)
  | 5 => [if m.nv.dbgDisable then 2 else if m.dbgOpen then 1 else 0]
  | _ => leBytes 64 m.sec.opkDigest.toNat
/-- Index 0 asks for the number of blocks, 0xFF for all of them: the base standard's meaning. -/
def Mod.measured (m : Mod) (index : Nat) : List Byte :=
  if index = 0 then [6]
  else if index = 255 then [1, 2, 3, 4, 5, 6].flatMap m.measurement
  else if index ≤ 6 then m.measurement index else []

/-- The chain of slot 0 (R636): Trememar's root, the Louri product CA, the device identity certificate, the alias certificate. -/
def Mod.chain (m : Mod) : List (List Byte) := [Config.caCert 0, Config.caCert 1, m.nv.idCert, m.sec.aliasCert]

/-- Version 1.3 only. -/
def spdmVersion : List Byte := [0x13]
/-- DataTransferSize 4,096 and MaxSPDMmsgSize 65,536. -/
def spdmCaps : List Byte := leBytes 4 4096 ++ leBytes 4 65536
/-- The algorithms of Table 18.5 by the base standard's codes (log entry 92): no BaseAsymAlgo bit; BaseHashAlgo and
MeasurementHashAlgo SHA3_512; one ExtAsym entry, registry PCI-SIG, Trememar's vendor identifier, 0x0087; one extended DHE entry,
0x1024; AEAD AES_256_GCM. -/
def spdmAlgs : List Byte :=
  leBytes 4 0 ++ leBytes 4 0x20 ++ leBytes 4 0x40 ++ (leBytes 1 3 ++ leBytes 2 Config.vendorId.toNat ++ leBytes 2 0x0087) ++
    (leBytes 1 3 ++ leBytes 2 Config.vendorId.toNat ++ leBytes 2 0x1024) ++ leBytes 2 2

def Mod.getVersion (m : Mod) (t : Transport) : Mod := m.spdm1 t 0x84 false spdmAny (some .versioned) spdmVersion
def Mod.getCapabilities (m : Mod) (t : Transport) : Mod := m.spdm1 t 0xE1 false [.versioned] (some .capable) spdmCaps
def Mod.negotiate (m : Mod) (t : Transport) : Mod := m.spdm1 t 0xE3 false [.capable] (some .negotiated) spdmAlgs
def Mod.getDigests (m : Mod) (t : Transport) : Mod :=
  m.spdm1 t 0x81 false spdmReady none (leBytes 64 (Config.sha3 m.chain.flatten).toNat)
/-- Slot 0 holds the chain; the other slots are empty (R636). -/
def Mod.getCertificate (m : Mod) (t : Transport) (slot off len : Nat) : Mod :=
  m.spdm1 t 0x82 false spdmReady none (if slot = 0 then (m.chain.flatten.drop off).take len else [])
def Mod.challenge (m : Mod) (t : Transport) (slot : Nat) : Mod :=
  if slot = 0 then m.spdm1 t 0x83 false spdmReady none (m.signed t 0x83 []) else m
def Mod.getMeasurements (m : Mod) (t : Transport) (index : Nat) (sign : Bool) : Mod :=
  m.spdm1 t 0xE0 false spdmReady none (if sign then m.signed t 0xE0 (m.measured index) else m.measured index)
def Mod.chunk (m : Mod) (t : Transport) (code : Nat) : Mod :=
  m.spdm1 t code false [.capable, .negotiated, .session, .secured] none (m.conn t).values
/-- Free values are spent whatever the request was answered. -/
def Mod.spend (m : Mod) (n : Nat) : Mod := { m with free := m.free + n }

def execGetVersion (t : Transport) (s : State) : Host.Outcome State Fault Refusal := run (fun m => m.getVersion t) s
def execGetCapabilities (t : Transport) (s : State) : Host.Outcome State Fault Refusal := run (fun m => m.getCapabilities t) s
def execNegotiateAlgorithms (t : Transport) (s : State) : Host.Outcome State Fault Refusal := run (fun m => m.negotiate t) s
def execGetDigests (t : Transport) (s : State) : Host.Outcome State Fault Refusal := run (fun m => m.getDigests t) s
def execGetCertificate (t : Transport) (slot : Fin 8) (off len : Nat) (s : State) : Host.Outcome State Fault Refusal :=
  run (fun m => m.getCertificate t slot off len) s
def execChallenge (t : Transport) (slot : Fin 8) (s : State) : Host.Outcome State Fault Refusal :=
  run (fun m => (m.challenge t slot).spend 1) s
def execGetMeasurements (t : Transport) (index : Byte) (sign : Bool) (s : State) : Host.Outcome State Fault Refusal :=
  run (fun m => (m.getMeasurements t index.toNat sign).spend 1) s
def execChunkSend (t : Transport) (_last : Bool) (s : State) : Host.Outcome State Fault Refusal := run (fun m => m.chunk t 0x85) s
def execChunkGet (t : Transport) (s : State) : Host.Outcome State Fault Refusal := run (fun m => m.chunk t 0x86) s
/-- KEY_EXCHANGE: its response is signed under the alias key (R638). -/
def execKeyExchange (t : Transport) (s : State) : Host.Outcome State Fault Refusal :=
  run (fun m => (m.spdm1 t 0xE4 true [.negotiated] (some .session) (m.signed t 0xE4 [])).spend 1) s
def execFinish (t : Transport) (s : State) : Host.Outcome State Fault Refusal :=
  run (fun m => m.spdm1 t 0xE5 true [.session] (some .secured) []) s
def execKeyUpdate (t : Transport) (s : State) : Host.Outcome State Fault Refusal := run (fun m => m.spdm1 t 0xE9 true [.secured] none []) s
def execEndSession (t : Transport) (s : State) : Host.Outcome State Fault Refusal :=
  run (fun m => m.spdm1 t 0xEC true [.secured] (some .negotiated) []) s

/-- IDE_KM in a session on the DOE mailbox starts or stops the selective IDE stream. -/
def Mod.ideKm (m : Mod) (t : Transport) (go : Option Bool) : Mod :=
  if m.spdmUp t && t = .doe && (m.conn t).st = .secured then { m with hif := { m.hif with ide := go.getD m.hif.ide } } else m
def execIdeKm (t : Transport) (go : Option Bool) (s : State) : Host.Outcome State Fault Refusal := run (fun m => m.ideKm t go) s

/-! ### ATTEST (R637) -/

/-- What a request carried by ATTEST does to that transport's connection, by the base standard's request codes. -/
def Mod.attestRequest (m : Mod) (w : Nat) : Mod :=
  match byf w 1 1 with
  | 0x84 => m.getVersion .attest
  | 0xE1 => m.getCapabilities .attest
  | 0xE3 => m.negotiate .attest
  | 0x81 => m.getDigests .attest
  | 0x82 => m.getCertificate .attest (byf w 2 1 % 16) (byf w 4 2) (byf w 6 2)
  | 0x83 => m.challenge .attest (byf w 2 1)
  | 0xE0 => m.getMeasurements .attest (byf w 3 1) (bit (byf w 2 1) 0)
  | 0x85 => m.chunk .attest 0x85
  | 0x86 => m.chunk .attest 0x86
  | _ => m

/-- The response carries the values of the request, in the framing of the base standard; a request that the connection does not
take is answered without values. It goes to the buffer as far as that reaches. -/
def Mod.attest (mem : List Host.Cell) (m : Mod) (q : Nat) (p : Packet) : Mod :=
  let w := Memory.readN mem (pkt p 16 8) (min 8 (pkt p 24 4))
  let x := m.attestRequest w
  let bs := Config.spdmFrame (byf w 1 1) (if x.conn .attest = m.conn .attest ∧ byf w 1 1 ≠ 0x84 then [] else (x.conn .attest).values)
  ((x.spend 1).hostWrite (pkt p 32 8) (bs.take (pkt p 40 4))).reply q (pktId p) stOK 0 [(16, 4, bs.length)]
def execAttest (q : Queue) (p : Packet) (s : State) : Host.Outcome State Fault Refusal :=
  runH (fun mem m => m.command 0x5A q p fun m => m.attest mem q p) s

/-! ### The test port -/

/-- The identification code (R696). -/
def idcode : W32 := BitVec.ofNat 32 (0xB * 2 ^ 28 + 0x1536 * 2 ^ 12 + Config.jedec.toNat * 2 + 1)
/-- The test logic is powered. -/
def Mod.testUp (m : Mod) : Bool := m.pins.pwrGood
def execIdcode (s : State) : Host.Outcome State Fault Refusal :=
  run (fun m => if m.testUp then { m with test := .idcode, testData := idcode } else m) s
/-- BYPASS: one bit between TDI and TDO, 0 at first; every code but IDCODE's selects it. -/
def execBypass (_code : Nat) (s : State) : Host.Outcome State Fault Refusal :=
  run (fun m => if m.testUp then { m with test := .bypass, testData := 0 } else m) s
def execTrstAssert (s : State) : Host.Outcome State Fault Refusal := run (fun m => { m with test := .testLogicReset }) s

end Sys2Proof.Machine
end

