-- ==== Sys2Proof/Machine/Registers.lean ====
section
/-! DEFINITION. The registers of BAR0 as a read returns them (R10 to R15, R33 to R35 and the register tables of every
chapter), and the register writes that no row of their own covers. A register is answered as (its width, its value). -/
namespace Sys2Proof.Machine

/-! ### Forming values -/

abbrev Reg := Option (Nat × Nat)
def r32 (v : Nat) : Reg := some (32, v % 2 ^ 32)
def r64 (v : Nat) : Reg := some (64, v % 2 ^ 64)
/-- Fields as (lowest bit, bits, value). -/
def bits (fs : List (Nat × Nat × Nat)) : Nat := fs.foldl (fun a f => a + f.2.2 % 2 ^ f.2.1 * 2 ^ f.1) 0
def rBits (fs : List (Nat × Nat × Nat)) : Reg := r32 (bits fs)
def intBits (n : Nat) (v : Int) : Nat := (v % 2 ^ n).toNat
/-- A counter among the listed offsets; `base` is where the first stands. -/
def rCnt (offs : List Nat) (c : Tab W64) (o : Nat) : Reg := if offs.contains o then r64 (Tab.get 0 c o).toNat else none
def rCtrl (freeze : Bool) : Reg := rBits [(1, 1, b2n freeze)]
/-- The i-th register of an array of registers from `base`, `stride` bytes apart. -/
def regIdx (base stride n o : Nat) : Option Nat :=
  if base ≤ o ∧ (o - base) % stride = 0 ∧ (o - base) / stride < n then some ((o - base) / stride) else none
def orElse (a : Reg) (b : Unit → Reg) : Reg := match a with | some r => some r | none => b ()
/-- A status bit that depends on stages: 0 at rest, else open. -/
def Mod.stageBit (m : Mod) (busy : Bool) (off i : Nat) : Nat :=
  if busy then ((Config.stageBits off m.now).toNat / 2 ^ i) % 2 else 0

/-! ### DEV and HIF (Tables 15.8, 15.18 to 15.26, 17.5, 17.6) -/

def Mod.readDev (m : Mod) (o : Nat) : Reg :=
  match o with
  | 0x00 => r32 devId
  | 0x04 => r32 devRev
  | 0x08 => r32 m.fwver
  | 0x10 => r64 m.nv.serial
  | 0x18 => r32 m.devState
  | 0x1C => rBits [(24, 8, 16), (16, 8, 64), (12, 4, 12), (0, 9, 256)]
  | 0x100 => rBits [(24, 8, m.sec.lastFatal), (8, 4, m.autoFenced), (0, 4, m.lastAttempts)]
  | o => rCnt [0x108, 0x110, 0x118] m.devCnt o

def Mod.readHif (m : Mod) (o : Nat) : Reg :=
  let x := m.q! m.hif.qsel
  match o with
  | 0x00 => r32 m.hif.qsel
  | 0x04 => rBits [(31, 1, b2n x.en), (24, 7, x.coalCount), (16, 8, x.vector), (12, 4, x.coalTime), (0, 12, x.size)]
  | 0x08 => r64 x.sqBase
  | 0x10 => r64 x.cqBase
  | 0x18 => rBits [(31, 1, b2n x.err), (30, 1, b2n x.cfgErr), (29, 1, b2n x.cmd.isSome), (12, 12, x.sqHead), (0, 12, x.cqTail)]
  | 0x100 => r32 m.hif.async.toNat
  | 0x200 => r32 m.hif.dbgBase
  | 0x300 => rBits [(25, 1, b2n m.hif.ide), (24, 1, b2n m.hif.flit), (16, 8, m.hif.width), (0, 16, m.hif.rate)]
  | _ => none

/-! ### TB, PWR, EVR (Tables 12.18, 12.19, 16.3 to 16.13, 19.3 to 19.5) -/

def Mod.readTb (m : Mod) (o : Nat) : Reg :=
  let t := m.tb
  match o with
  | 0x00 => r64 m.now
  | 0x08 => rBits [(29, 3, tbCode t.state), (28, 1, b2n t.stepped), (20, 6, t.hops), (0, 20, t.gm)]
  | 0x0C => match t.parent with
    | some p => rBits [(31, 1, 1), (0, 6, p)]
    | none => r32 0
  | 0x10 => r64 (intBits 64 t.theta)
  | 0x18 => r32 (intBits 32 t.rho)
  | 0x1C => r32 (if t.state = .holdover then (m.now - t.holdFrom) / 1000000 else 0)
  | _ => none

def Mod.readPwr (m : Mod) (o : Nat) : Reg :=
  let p := m.pwr
  let d := m.die! p.dsel
  match o with
  | 0x00 => rBits [(29, 3, p.opNow), (25, 3, p.target), (21, 3, p.opReq), (20, 1, b2n p.ramping), (19, 1, b2n p.rampHeld),
      (18, 1, b2n p.forced), (15, 3, p.cause), (14, 1, b2n p.capUnmet), (13, 1, b2n (decide (p.thermOp < 7))),
      (12, 1, b2n p.anyWarn), (11, 1, b2n (!p.alerts.isEmpty)), (10, 1, b2n m.pins.throttle), (0, 10, p.setpoint)]
  | 0x04 => rBits [(8, 3, p.thermOp), (4, 3, p.capOp), (0, 3, p.idlePref)]
  | 0x08 => rBits [(0, 12, p.capW)]
  | 0x0C => rBits [(0, 7, p.throtC.toNat)]
  | 0x10 => rBits [(16, 16, p.vin), (0, 16, p.p1)]
  | 0x18 => r64 (p.energyUj / 1000)
  | 0x20 => rBits [(8, 8, p.outlet), (0, 8, p.inlet)]
  | 0x100 => r32 p.dsel
  | 0x104 => rBits [(24, 8, intByte d.tjMax), (16, 5, d.sensorsOk), (0, 16, d.rate)]
  | 0x108 => rBits [(16, 16, d.amps), (0, 16, d.mv)]
  | 0x200 => rCtrl p.cnt.freeze
  | o => match regIdx 0x40 4 8 o with
    | some n => rBits [(16, 12, nominalRate n), (0, 10, if m.phase = .boot || m.phase = .off then 0 else m.vtab n)]
    | none => rCnt [0x208, 0x210, 0x218, 0x220, 0x228, 0x230] p.cnt.c o

def Evr.read (e : Evr) (o : Nat) : Reg :=
  match o with
  | 0x00 => rBits [(31, 1, b2n e.frozenAt.isSome), (30, 1, b2n e.stgOvf), (29, 1, b2n e.cleared), (0, 11, e.staging.length)]
  | 0x04 => r32 e.next
  | 0x08 => r32 (match e.ring with | r :: _ => r.index | [] => e.next)
  | 0x0C => r32 e.presNext
  | 0x10 => r32 e.pcycles
  | 0x14 => r32 e.opsec
  | 0x20 => r64 e.cntRecords
  | 0x28 => r64 e.cntSupp
  | 0x30 => r64 e.cntOver
  | 0x38 => r64 e.cntLost
  | _ => none

/-! ### SEC and MET (Tables 18.8 to 18.12, 20.4, 20.5) -/

def slotCode (f : FwSlot) : Nat :=
  if f.valid then (match f.st with | .empty => 0 | .inactive => 1 | .active => 2 | .pending => 3) else 0
def slotReg (f : FwSlot) : Reg := r64 (bits [(62, 2, slotCode f), (48, 8, f.svn), (0, 32, f.version)])

def Mod.readSec (m : Mod) (o : Nat) : Reg :=
  match o with
  | 0x00 => rBits [(31, 1, b2n m.dbgOpen), (30, 1, b2n m.nv.dbgDisable), (29, 1, b2n m.sec.opkBad), (27, 2, m.opkActive.getD 0),
      (16, 4, m.nv.opkProg), (0, 7, m.nv.floor)]
  | 0x04 => rBits [(31, 1, b2n m.sec.bootedB), (30, 1, b2n m.sec.fallback), (29, 1, b2n m.sec.trialFailed), (0, 8, m.sec.lastFail)]
  | 0x08 => slotReg m.nv.slotA
  | 0x10 => slotReg m.nv.slotB
  | 0x18 => rBits [(31, 1, b2n m.sec.stageLen.isSome), (30, 1, b2n m.sec.staged.isSome),
      (0, 27, m.sec.stageRanges.foldl (fun a r => a + (r.2 - r.1)) 0)]
  | 0x20 => r32 m.sec.nonceGen
  | 0x80 => r32 0
  | 0x88 => r64 (if m.dbgOpen then m.sec.dbgEnd else 0)
  | o => match regIdx 0x40 8 8 o with
    | some i => r64 (byf (Config.nonce m.nv.draws).toNat (8 * i) 8)
    | none => none

def Mod.readMet (m : Mod) (o : Nat) : Reg :=
  let held := fun (f : MetFrame → Nat) => match m.met.held with | some x => f x | none => 0
  match o with
  | 0x00 => rBits [(31, 1, b2n m.met.valid), (30, 1, held fun x => b2n x.tamper), (29, 1, held fun x => b2n x.nvmFault),
      (28, 1, held fun x => b2n (decide (x.power < 300))), (27, 1, held fun x => b2n (decide (x.power < 6)))]
  | 0x08 => r64 (held fun x => x.energy.toNat)
  | 0x10 => r64 m.met.latFrame
  | 0x18 => r64 m.met.latTb
  | 0x20 => r32 m.met.latPower
  | 0x24 => r32 (held fun x => x.fwver.toNat)
  | 0x28 => r32 (held fun x => x.pcnt.toNat)
  | 0x30 => r64 m.met.cntCrc
  | _ => none

/-! ### The core windows (Tables 1.13, 1.14, 2.12 to 2.17, 3.3 to 3.7, 7.11 to 7.14, 9.16 to 9.19, 11.8 to 11.11) -/

def Mod.readSeq (m : Mod) (c o : Nat) : Reg :=
  let x := m.core! c
  match o with
  | 0x00 => rBits [(16, 4, x.faultSlot), (15, 1, b2n x.listFault), (14, 1, b2n x.fenced),
      (13, 1, b2n (x.slots.isEmpty && x.infl.isEmpty)), (8, 5, x.slots.length)]
  | 0x08 => r64 (bits [(32, 32, x.faultSeq), (20, 12, x.faultJob), (8, 8, x.faultOp), (0, 8, x.faultCause)])
  | _ => none

def spareCount (x : ArrSt) (col field : Bool) : Nat := (x.splices.filter fun t => t.col = col && (!field || t.field)).length
def spliceReg (x : ArrSt) (col : Bool) (i : Nat) : Reg :=
  match (x.splices.filter fun t => t.col = col)[i]? with
  | some t => rBits [(31, 1, 1), (30, 1, b2n t.field), (0, 11, t.phys)]
  | none => r32 0

/-- A descriptor that has begun on the array and not retired. -/
def Mod.arrRuns (m : Mod) (c a : Nat) : Bool :=
  (m.core! c).infl.any fun f => f.began && ((dOp f.d = 0x10 && (passOp f.d).array % 2 = a) ||
    (dOp f.d = 0x11 && (loadArrays f.d).contains a) || dOp f.d = 0x61)

/-- The next load of the array waits for a tail token (R83). -/
def Mod.loadWaits (m : Mod) (c a : Nat) : Bool :=
  match ((m.arr! c a).loads.head?).bind fun id => m.infl? c id with
  | some f => !m.setFree c a f
  | none => false

def Mod.readArr (m : Mod) (c a o : Nat) : Reg :=
  let x := m.arr! c a
  let runs := m.arrRuns c a
  let drains := (m.core! c).infl.any fun f => f.began && dOp f.d = 0x10 && (passOp f.d).array % 2 = a
  let passes := !(m.begunPasses c a).isEmpty
  let load := (m.core! c).infl.any fun f => f.began && dOp f.d = 0x11 && (loadArrays f.d).contains a
  match o with
  | 0x00 => rBits [(24, 5, spareCount x true false), (16, 5, spareCount x false false), (9, 1, m.stageBit drains 0 9),
      (8, 1, m.stageBit drains 0 8), (7, 1, b2n (m.loadWaits c a)), (6, 1, b2n load), (5, 1, x.loadSet), (4, 1, x.injSet),
      (3, 1, if passes then 1 else m.stageBit (m.refreshRuns c) 0 3), (2, 1, b2n (m.arrHeld c a = 0 && !runs)), (0, 2, m.arrHeld c a)]
  | 0x04 => rBits [(16, 12, (x.tagged.getD 1 {}).job), (0, 12, (x.tagged.getD 0 {}).job)]
  | 0x08 => rCtrl x.cnt.freeze
  | 0x0C => r32 x.stall
  | 0x100 => rBits [(19, 5, x.pend.length), (18, 1, b2n x.pendOvf), (17, 1, b2n (m.nv.exhausted.contains (2 * c + a))),
      (16, 1, b2n (x.runOut.isSome || !x.replays.isEmpty)), (8, 5, spareCount x true true), (0, 5, spareCount x false true)]
  | o => orElse (rCnt [0x10, 0x18, 0x20, 0x28, 0x30, 0x38, 0x40, 0x48, 0x50, 0x108, 0x110, 0x118] x.cnt.c o) fun _ =>
    match regIdx 0x200 4 16 o, regIdx 0x240 4 16 o, regIdx 0x800 4 512 o, regIdx 0x1000 4 1024 o with
    | some i, _, _, _ => spliceReg x false i
    | _, some i, _, _ => spliceReg x true i
    | _, _, some j, _ => rBits [(16, 11, mapPos (x.out true) (2 * j + 1)), (0, 11, mapPos (x.out true) (2 * j))]
    | _, _, _, some k => rBits [(16, 11, x.skew k), (0, 11, mapPos (x.out false) k)]
    | _, _, _, _ => none

def Mod.readVec (m : Mod) (c o : Nat) : Reg :=
  let x := m.core! c
  let held := x.infl.filter fun f => dOp f.d = 0x20 || dOp f.d = 0x21 || dOp f.d = 0x61
  let cur := held.head?
  let bf := match cur with
    | some f => dOp f.d ≠ 0x61 && (match x.recipe? f.job f.task (vecOp f.d).recipe with | some w => rcBf16 w | none => false)
    | none => false
  match o with
  | 0x00 => rBits [(16, 11, x.recipes.length), (8, 1, b2n bf), (7, 1, b2n (match cur with | some f => dOp f.d = 0x21 | none => false)),
      (6, 1, m.stageBit cur.isSome 0x80000 6), (5, 1, m.stageBit cur.isSome 0x80000 5), (4, 1, b2n cur.isSome),
      (3, 1, b2n cur.isNone), (0, 3, held.length)]
  | 0x08 => rCtrl x.vecCnt.freeze
  | 0x0C => r32 x.vecStall
  | o => rCnt [0x10, 0x18, 0x20, 0x28, 0x30, 0x38] x.vecCnt.c o

/-- Descriptors of the core that wait on a sync object: those whose header names it and those in a SYNC_WAIT on it. -/
def CoreSt.waiters (x : CoreSt) (obj : Nat) : Nat :=
  (x.slots.filter fun (p : Nat × SlotSt) =>
    (match p.2.rest with | d :: _ => p.2.blocked.isNone && !p.2.waitDone && bit (dWait d) obj | [] => false) ||
    (match p.2.blocked with
      | some id => x.infl.any fun f => f.id = id && dOp f.d = 0x40 && (waitOp f.d).obj = obj
      | none => false)).length

def Mod.readSyn (m : Mod) (c o : Nat) : Reg :=
  let x := m.core! c
  match o with
  | 0x00 => rBits [(16, 1, b2n x.synForced), (8, 6, (x.sync.filter fun p => p.2.job ≠ 0).length),
      (0, 4, (x.bars.filter fun p => p.2.job ≠ 0).length)]
  | 0x08 => rCtrl x.synCnt.freeze
  | o => orElse (rCnt [0x10, 0x18, 0x20, 0x28, 0x30] x.synCnt.c o) fun _ =>
    match regIdx 0x100 8 48 o, regIdx 0x400 16 8 o, regIdx 0x408 16 8 o with
    | some i, _, _ =>
      let y := Tab.get {} x.sync i
      r64 (bits [(61, 1, b2n y.observe), (60, 1, b2n y.saturated), (48, 12, y.job), (43, 5, x.waiters i), (0, 32, y.value)])
    | _, some j, _ =>
      let b := Tab.get {} x.bars j
      r64 (bits [(48, 12, b.job), (8, 5, b.parties), (3, 5, b.arrived),
        (1, 2, if b.failed then 2 else if b.arrived = 0 then 0 else 1), (0, 1, b2n b.sense)])
    | _, _, some j => r64 (Tab.get {} x.bars j).episode
    | _, _, _ => none

def Mod.readPan (m : Mod) (c o : Nat) : Reg :=
  let x := (m.core! c).pan
  let pinned := (m.res.ext.filter fun e => e.home = homePantry c).foldl
    (fun a e => a + ((List.range e.n).filter fun i => m.pinned e.obj (e.tile + i)).length) 0
  match o with
  | 0x00 => rBits [(31, 1, b2n x.floorReject), (30, 1, b2n x.lent.isSome), (16, 9, pinned),
      (0, 9, m.freeFrames (homePantry c))]
  | 0x04 => rBits [(24, 6, x.floors.getD 3 0), (16, 6, x.floors.getD 2 0), (8, 6, x.floors.getD 1 0), (0, 6, x.floors.getD 0 0)]
  | 0x08 => rCtrl x.cnt.freeze
  | o => rCnt [0x10, 0x18, 0x20, 0x28, 0x30, 0x38, 0x40] x.cnt.c o

/-- A core window without regard to fencing (Table 1.7). -/
def Mod.readCore (m : Mod) (c o : Nat) : Reg :=
  if o < 0x40000 then m.readSeq c o
  else if o < 0x80000 then m.readArr c ((o - 0x40000) / 0x20000) ((o - 0x40000) % 0x20000)
  else if o < 0xA0000 then m.readVec c (o - 0x80000)
  else if o < 0xC0000 then m.readSyn c (o - 0xA0000)
  else m.readPan c (o - 0xC0000)

/-! ### CEL and UPD (Tables 9.7 to 9.15, 8.9 to 8.17) -/

def Mod.readCel (m : Mod) (o : Nat) : Reg :=
  let i := m.cel.stackSel
  let x := m.stack! i
  let pc := Tab.get ({} : PcSt) x.pc m.cel.pcSel
  match o with
  | 0x00 => rBits [(31, 1, b2n m.cel.bcast), (8, 5, m.cel.pcSel), (0, 5, i)]
  | 0x04 => rBits ((List.range 4).map fun d => (2 * d, 2, m.cel.gang.getD d 0))
  | 0x08 => rCtrl m.cel.freeze
  | 0x10 => r64 m.celCap
  | 0x100 => rBits [(24, 8, intByte x.temp), (22, 2, x.refresh), (21, 1, b2n x.hot), (20, 1, b2n x.hot), (19, 1, b2n x.draining),
      (18, 1, b2n (m.drainBlocked i)), (17, 1, b2n x.rehash), (16, 1, b2n x.out), (15, 1, b2n x.regReject), (0, 6, x.active)]
  | 0x108 => r64 ((x.usable - m.lentFrames i) * 1048576)
  | 0x400 => rBits [(31, 1, b2n pc.mapped), (30, 1, b2n pc.suspect), (16, 8, m.pprLeft i m.cel.pcSel), (0, 16, min 65535 pc.corrHour)]
  | 0x408 => r64 pc.corr
  | 0x410 => r64 pc.poison
  | o => match regIdx 0x200 4 5 o with
    | some c => rBits [(16, 10, x.burst.getD c 0), (0, 9, x.rate.getD c 0)]
    | none => rCnt [0x300, 0x308, 0x310, 0x318, 0x320, 0x328, 0x330, 0x338, 0x340] x.c o

def Mod.readUpd (m : Mod) (o : Nat) : Reg :=
  let u := m.unit! m.upd.sel
  let y := m.layer! m.upd.lsel
  let bound := decide (y.job ≠ 0)
  let v := fun (n : Nat) => if bound then n else 0
  let s := Tab.get ({} : Sched) m.upd.scheds m.upd.ssel
  let share := u.q.head?.map (·.2)
  let rule := match share with | some l => (m.layer! l).cfg.rule | none => 0
  match o with
  | 0x000 => r32 m.upd.sel
  | 0x004 => rBits [(22, 2, rule), (8, 14, share.getD 0), (7, 1, b2n u.resuming), (6, 1, m.stageBit (share.isSome && rule = 2) 0x600000 6),
      (5, 1, m.stageBit share.isSome 0x600000 5), (4, 1, m.stageBit share.isSome 0x600000 4), (3, 1, b2n share.isSome),
      (2, 1, b2n u.q.isEmpty)]
  | 0x008 => rCtrl m.upd.freeze
  | 0x400 => r32 m.upd.lsel
  | 0x404 => rBits ([(0, 2, if bound then y.cfg.rule else 1)] ++ if bound then
      [(12, 14, min 16383 (y.rootL.filter y.rootR.contains).length), (7, 1, b2n y.guarded), (6, 1, b2n (decide (y.cfg.objs.getD 4 0 ≠ 0))),
        (5, 1, b2n y.cfg.frozen), (4, 1, 1), (3, 1, b2n (decide (y.cfg.masterFmt = 0)))] else [])
  | 0x408 => r64 (v y.updCount)
  | 0x410 => r64 (v y.lastUpd)
  | 0x418 => r64 (v y.guardCnt)
  | 0x420 => r64 (v y.skipCnt)
  | 0x428 => r32 (v y.epsCur)
  | 0x430 => r64 (v y.epsAt)
  | 0x800 => r32 m.upd.ssel
  | 0x804 => rBits [(31, 1, b2n (decide (s.job ≠ 0))), (16, 12, s.job), (0, 4, s.segs.length)]
  | 0x808 => r64 s.pos
  | 0x810 => r32 s.val
  | o => rCnt [0x10, 0x18, 0x20, 0x28, 0x30, 0x38, 0x40] u.c o

/-! ### RES and ATC (Tables 10.9 to 10.17) -/

def Mod.tilesIn (m : Mod) (h : Nat) (f : Nat → Bool) : Nat :=
  (m.res.ext.filter fun e => e.obj = h && f e.home).foldl (fun a e => a + e.n) 0

def Mod.readRes (m : Mod) (o : Nat) : Reg :=
  let here := m.res.objs.find? fun (p : Nat × Obj) => handleIdx p.1 = m.res.osel && (m.obj? p.1).isSome
  let h := match here with | some p => p.1 | none => 0
  let tiles := fun (f : Nat → Bool) => if here.isSome then m.tilesIn h f else 0
  match o with
  | 0x00 => rBits [(21, 1, b2n (decide (m.emptyEntries ≤ 4096))), (20, 1, b2n m.res.moves.isEmpty), (0, 19, m.emptyEntries)]
  | 0x04 => rBits [(0, 13, m.res.pins.length)]
  | 0x08 => r64 m.res.seq
  | 0x10 => rCtrl m.res.cnt.freeze
  | 0x100 => r32 m.res.osel
  | 0x104 => match here with
    | some (_, x) => rBits [(31, 1, 1), (30, 1, b2n x.borrowed.isSome), (29, 1, b2n x.image), (28, 1, x.axis), (16, 12, x.job), (0, 4, x.fmt)]
    | none => r32 0
  | 0x108 => r32 (m.genOf m.res.osel % 65536)
  | 0x10C => r32 (tiles fun x => decide (x < 4))
  | 0x110 => r32 (tiles isCellar)
  | 0x114 => r32 (tiles fun x => decide (x = homeAttic))
  | 0x118 => r32 (if here.isSome then (m.res.moves.filter fun v => v.req.obj = h).foldl (fun a v => a + v.n) 0 else 0)
  | o => rCnt [0x18, 0x20, 0x28, 0x30, 0x38, 0x40, 0x48] m.res.cnt.c o

/-- LIFE_USED: the mean erase count of the 32 TiB of NAND against 3,000, in 0.01% (R375, R380). -/
def Mod.lifeUsed (m : Mod) : Nat :=
  (m.attic.blocks.foldl (fun a (p : Nat × EBlock) => a + p.2.erases) 0) * 10000 / (3000 * (16 * chanBlocks))

def Mod.readAtc (m : Mod) (o : Nat) : Reg :=
  match o with
  | 0x00 => rBits [(16, 4, m.attic.startCode), (5, 1, b2n m.attic.lastFlushOk), (4, 1, b2n m.attic.readOnly), (3, 1, b2n m.attic.spareLow)]
  | 0x08 => r64 atcCap
  | 0x10 => r64 (m.freeFrames homeAttic * 1048576)
  | 0x18 => rBits [(16, 16, m.attic.spareGib), (0, 16, min 65535 m.lifeUsed)]
  | 0x20 => rCtrl m.attic.cnt.freeze
  | o => rCnt [0x28, 0x30, 0x38, 0x40, 0x48, 0x50] m.attic.cnt.c o

/-! ### LNK (Tables 12.9 to 12.17) -/

def linkCode : Link → Nat
  | .down => 0 | .training => 1 | .up => 2 | .retraining => 3

def credReg (x : PortSt) (i : Nat) : Reg := rBits ((List.range 4).map fun k => (8 * k, 8, x.vccred.getD (4 * i + k) 0))

def Mod.readLnk (m : Mod) (o : Nat) : Reg :=
  let p := m.lnk.psel
  let x := m.port! p
  match o with
  | 0x00 => r32 p
  | 0x04 => rBits [(31, 1, b2n m.lnk.valid), (0, 20, m.lnk.chip)]
  | 0x08 => r64 m.lnk.epoch
  | 0x10 => rBits [(16, 4, m.lnk.maxRetx), (0, 16, m.lnk.timeout)]
  | 0x18 => rCtrl m.lnk.cnt.freeze
  | 0x100 => rBits [(24, 4, x.failed), (20, 4, x.used.length), (19, 1, b2n (m.tb.parent = some p)), (18, 1, b2n x.bundleOut),
      (13, 3, verifyCode x.verify), (8, 2, linkCode x.link), (0, 8, x.retrains)]
  | 0x104 => rBits [(26, 6, x.nPort), (0, 20, x.nChip)]
  | 0x108 => rBits [(31, 1, b2n x.pendEn), (16, 5, x.pendId), (15, 1, b2n x.actEn), (0, 5, x.actId)]
  | 0x110 => credReg x 0
  | 0x114 => credReg x 1
  | 0x238 => r64 (intBits 64 (median x.delays))
  | o => orElse (rCnt [0x20, 0x28, 0x30, 0x38] m.lnk.cnt.c o) fun _ =>
    rCnt [0x200, 0x208, 0x210, 0x218, 0x220, 0x228, 0x230] x.c o

/-! ### COL (Tables 11.12 to 11.14, 13.9 to 13.15, 14.6 to 14.8) and NUM (Tables 5.6 to 5.14) -/

/-- The context view: the contexts are numbered in the order in which they opened. -/
def Mod.readCtx (m : Mod) (o : Nat) : Reg :=
  let x := m.col.ctx[m.col.csel]?
  let p := match x with | some y => if y.local_.isSome then some (collOp y.d) else none | none => none
  let e := match x with | some y => m.env? y.key | none => none
  let perm := match p with | some c => decide (c.op = 3) | none => false
  match o with
  | 0x104 => match x with
    | some y => rBits [(31, 1, 1), (30, 1, b2n y.local_.isSome), (27, 3, match p with | some c => c.op | none => 0),
        (26, 1, b2n y.prepass), (25, 1, b2n y.widened), (0, 12, y.job)]
    | none => r32 0
  | 0x108 => match x with
    | some y => rBits [(0, 16, y.collId), (16, 10, match p with | some c => c.group | none => 0)]
    | none => r32 0
  | 0x110 => r64 (match x with | some y => y.step | none => 0)
  | 0x118 => r32 (match x with | some y => y.attempt | none => 0)
  | 0x120 => r64 (match e with
    | some e => if perm then e.x.received else (e.ownBlocks.filter fun b => (e.x.block b).got || (e.p.op = 2 && e.x.started)).length
    | none => 0)
  | 0x128 => r64 (match e with | some e => if perm then e.p.nelem else e.ownBlocks.length | none => 0)
  | 0x130 => r64 (match e with | some e => stageNeed e.g e.p.blocks e.r | none => 0)
  | _ => none

def Mod.readCol (m : Mod) (o : Nat) : Reg :=
  let n := m.job? m.col.nsel
  let j := m.job? m.col.pjsel
  let b := Tab.get ({} : Bar) m.col.mbar m.col.mbsel
  match o with
  | 0x00 => rBits [(24, 1, b2n m.col.parkFull), (0, 9, m.col.ctx.length)]
  | 0x08 => rCtrl m.col.cnt.freeze
  | 0x100 => r32 m.col.csel
  | 0x200 => r32 m.col.nsel
  | 0x204 => match n with
    | some x => rBits [(31, 1, b2n x.normSat), (0, 8, intBits 8 x.z)]
    | none => r32 0
  | 0x208 => r64 (match n with | some x => intBits 128 x.norm % 2 ^ 64 | none => 0)
  | 0x210 => r64 (match n with | some x => intBits 128 x.norm / 2 ^ 64 | none => 0)
  | 0x8000 => r32 m.col.mbsel
  | 0x8004 => rBits [(20, 12, b.job), (13, 7, b.parties), (6, 7, b.arrived),
      (4, 2, if b.failed then 3 else if b.awaiting then 2 else if b.arrived = 0 then 0 else 1), (0, 1, b2n b.sense)]
  | 0x8008 => r64 b.episode
  | 0x8010 => r64 b.relFirst
  | 0x8018 => r64 b.relLast
  | 0x8020 => r32 b.relChip
  | 0x9000 => r32 m.col.pjsel
  | 0x9004 => match j with
    | some x => rBits [(31, 1, b2n x.sending), (30, 1, b2n x.matching), (27, 3, x.targetOp.getD 0), (22, 5, x.notices.length),
        (0, 16, min 65535 x.lateRun)]
    | none => r32 0
  | 0x9008 => r64 (match j with | some x => x.psSpread | none => 0)
  | 0x9010 => match j.bind (·.snap) with
    | some x => rBits [(31, 1, 1), (30, 1, b2n x.link), (16, 14, x.pos), (0, 16, min 65535 x.waits)]
    | none => r32 0
  | 0x9018 => r64 (match j.bind (·.snap) with | some x => x.captured.getD 0 | none => 0)
  | 0x9020 => r64 (match j.bind (·.snap) with | some x => x.bytes | none => 0)
  | o => orElse (m.readCtx o) fun _ => rCnt [0x10, 0x18, 0x20, 0x28, 0x30, 0x38, 0x40, 0x48] m.col.cnt.c o

/-- The numeric watch's registers. NUM_JSTATUS.EARLY_ABORT reads 1 where any loaded task of the job carries the flag; R202 does not say
what several tasks read (DESIGN CHOICE, log entry 85). -/
def Mod.readNum (m : Mod) (o : Nat) : Reg :=
  let w := m.num.snap
  let j := m.job? m.num.jsel
  let y := m.layer! m.num.usel
  let early := match j with | some x => x.tasks.any fun (t : Nat × Task) => t.2.earlyAbort | none => false
  match o with
  | 0x00 => rBits [(20, 1, m.num.hselBank), (16, 2, m.num.hselClass), (0, 14, m.num.hselLayer)]
  | 0x04 => rBits [(3, 1, b2n m.num.busy), (2, 1, b2n m.num.snapValid), (1, 1, b2n w.mark), (0, 1, b2n w.aborted)]
  | 0x08 => r64 w.step
  | 0x10 => r32 w.markId
  | 0x18 => r64 (Tab.get 0 w.c 0)
  | 0x20 => r64 (Tab.get 0 w.c 1)
  | 0x28 => r64 (Tab.get 0 w.c 2)
  | 0x400 => r32 m.num.jsel
  | 0x404 => match j with
    | some x => rBits [(2, 1, b2n x.quenching), (1, 1, b2n early), (0, 1, b2n x.nonfinite)]
    | none => r32 0
  | 0x408 => r64 (match j with | some x => x.first | none => 0)
  | 0x410 => r64 (match j with | some x => x.firstIdx | none => 0)
  | 0x800 => r32 m.num.usel
  | 0x804 => rBits [(31, 1, b2n y.cfg.uwArm), (30, 1, b2n y.latched), (0, 16, y.run)]
  | 0x808 => rBits [(16, 16, y.cfg.uwK), (0, 10, y.cfg.uwThresh)]
  | o => match regIdx 0x100 8 64 o with
    | some b => r64 (Tab.get 0 w.c (3 + b))
    | none => none

/-! ### BAR0 (Table 1.6) -/

/-- The register at a BAR0 offset, whatever is fenced. -/
def State.register (s : State) (off : Nat) : Reg :=
  let m := s.m
  if off < 0x100000 then
    let o := off % 0x10000
    match off / 0x10000 with
    | 0 => m.readDev o
    | 1 => m.readHif o
    | 2 => m.readTb o
    | 3 => m.readPwr o
    | 4 => s.evr.read o
    | 5 => m.readSec o
    | 6 => m.readMet o
    | _ => none
  else
    let o := off % 0x100000
    match off / 0x100000 with
    | 1 => m.readCore 0 o
    | 2 => m.readCore 1 o
    | 3 => m.readCore 2 o
    | 4 => m.readCore 3 o
    | 5 => m.readCel o
    | 6 => m.readUpd o
    | 7 => m.readRes o
    | 8 => m.readAtc o
    | 9 => m.readLnk o
    | 10 => m.readCol o
    | 11 => m.readNum o
    | _ => none

/-- The core in whose window an offset lies. -/
def windowCore (off : Nat) : Option Nat := if 0x100000 ≤ off ∧ off < 0x500000 then some (off / 0x100000 - 1) else none

/-- The offset lies in a fenced core's window and is not one of the two registers on the perimeter (R35). -/
def Mod.shut (m : Mod) (off : Nat) : Bool :=
  match windowCore off with
  | some c => (m.core! c).fenced && !([0, 4, 8, 12] : List Nat).contains (off % 0x100000)
  | none => false

/-- What a read of BAR0 returns: unassigned and locked offsets, and a fenced core's window, read zero (R15, R35). -/
def State.readBar0 (s : State) (off : Nat) : Nat :=
  if s.m.shut off then 0 else match s.register off with | some r => r.2 | none => 0

/-- The size of a BAR; 0 where the function has none at that index (R528). -/
def Hif.barSize (h : Hif) (i : Nat) : Nat := ((h.func.bars.find? fun b => b.index = i).map (·.size)).getD 0

/-- The function's identity and BAR registers, by dword of the Type 0 header (R527, R528; their places PRESUMED from PCI, log entry
92): no row assigns a base, so that a BAR shows its attributes alone. -/
def Hif.header (h : Hif) (dw : Nat) : Option (BitVec 32) :=
  if dw = 0 then some (h.func.device ++ Config.vendorId)
  else (h.func.bars.find? fun b => b.index + 4 = dw).map fun b => BitVec.ofNat 32 (4 * b2n b.wide + 8 * b2n b.prefetch)

/-- A doorbell's offset in BAR2 (Table 15.3). -/
def Hif.bell (h : Hif) (off : Nat) : Bool := decide (off < h.barSize 2) && ([0, 4] : List Nat).contains (off % 0x400)

/-- What a read of BAR2 returns: zero but at a doorbell, whose reading the spec leaves open (R15, R531). -/
def State.readBar2 (s : State) (off : Nat) : BitVec 32 := if s.m.hif.bell off then Config.doorbellRead off else 0

/-! ### Writes (R10, R11) -/

def Mod.onHif (m : Mod) (f : Hif → Hif) : Mod := { m with hif := f m.hif }
/-- Queue registers take a write only while EN is 0 and no command of the queue runs (R531, R537). -/
def Mod.writeQueue (m : Mod) (f : Qp → Qp) : Mod :=
  m.onQ m.hif.qsel fun x => if x.en || x.cmd.isSome then x else f x

def Mod.writeHif (m : Mod) (o v : Nat) : Mod :=
  match o with
  | 0x00 => m.onHif fun h => { h with qsel := fld v 0 6 }
  | 0x04 => m.writeQcfg v
  | 0x08 => m.writeQueue fun x => { x with sqBase := v }
  | 0x10 => m.writeQueue fun x => { x with cqBase := v }
  | 0x18 => m.onQ m.hif.qsel fun x => { x with err := x.err && !bit v 31, cfgErr := x.cfgErr && !bit v 30 }
  | 0x100 => m.onHif fun h => { h with async := h.async &&& ~~~(BitVec.ofNat 6 v) }
  | 0x200 => m.onHif fun h => { h with dbgBase := fld v 0 9 }
  | _ => m

def Mod.writePwr (m : Mod) (o v : Nat) : Mod :=
  match o with
  | 0x0C => { m with pwr := { m.pwr with throtC := (max 95 (min 110 (fld v 0 7)) : Nat) } }
  | 0x100 => { m with pwr := { m.pwr with dsel := fld v 0 2 } }
  | 0x200 => m.cntCtrl .pwr (bit v 0) (bit v 1)
  | _ => m

def Mod.writeCore (m : Mod) (c o v : Nat) : Mod :=
  if o < 0x40000 then
    if o = 0 then m.onCore c fun x => { x with listFault := x.listFault && !bit v 15 } else m
  else if o < 0x80000 then
    let a := (o - 0x40000) / 0x20000
    let k : Arr := if a = 0 then 0 else 1
    match (o - 0x40000) % 0x20000 with
    | 0x08 => m.cntCtrl (.arr (Fin.ofNat 4 c) k) (bit v 0) (bit v 1)
    | 0x0C => m.onArr c a fun x => { x with stall := v }
    | 0x100 => m.onArr c a fun x => { x with pendOvf := x.pendOvf && !bit v 18 }
    | _ => m
  else if o < 0xA0000 then
    match o - 0x80000 with
    | 0x08 => m.cntCtrl (.vec (Fin.ofNat 4 c)) (bit v 0) (bit v 1)
    | 0x0C => m.onCore c fun x => { x with vecStall := v }
    | _ => m
  else if o < 0xC0000 then
    match o - 0xA0000 with
    | 0x00 => m.onCore c fun x => { x with synForced := x.synForced && !bit v 16 }
    | 0x08 => m.cntCtrl (.syn (Fin.ofNat 4 c)) (bit v 0) (bit v 1)
    | _ => m
  else
    match o - 0xC0000 with
    | 0x00 => m.onCore c fun x => { x with pan := { x.pan with floorReject := x.pan.floorReject && !bit v 31 } }
    | 0x04 => m.panFloor c v
    | 0x08 => m.cntCtrl (.pan (Fin.ofNat 4 c)) (bit v 0) (bit v 1)
    | _ => m

def Mod.writeCel (m : Mod) (o v : Nat) : Mod :=
  match o with
  | 0x00 => { m with cel := { m.cel with bcast := bit v 31, pcSel := fld v 8 5, stackSel := fld v 0 5 } }
  | 0x04 => m.celGang v
  | 0x08 => m.cntCtrl .cel (bit v 0) (bit v 1)
  | 0x100 => m.celStacks.foldl (fun m i => m.onStack i fun x => { x with regReject := x.regReject && !bit v 15 }) m
  | o => match regIdx 0x200 4 5 o with
    | some c => m.celReg c v
    | none => m

def Mod.writeUpd (m : Mod) (o v : Nat) : Mod :=
  match o with
  | 0x000 => { m with upd := { m.upd with sel := fld v 0 5 } }
  | 0x008 => m.cntCtrl .upd (bit v 0) (bit v 1)
  | 0x400 => { m with upd := { m.upd with lsel := fld v 0 14 } }
  | 0x404 => m.onLayer m.upd.lsel fun y => { y with guarded := y.guarded && !bit v 7 }
  | 0x800 => { m with upd := { m.upd with ssel := fld v 0 6 } }
  | _ => m

/-- LNK_VCCRED: a field of 0 is taken as 1 (Table 12.16). -/
def writeCred (x : PortSt) (i v : Nat) : PortSt :=
  { x with vccred := (List.range 8).map fun k => if k / 4 = i then max 1 (fld v (8 * (k % 4)) 8) else x.vccred.getD k 32 }

def Mod.writeLnk (m : Mod) (o v : Nat) : Mod :=
  match o with
  | 0x00 => { m with lnk := { m.lnk with psel := fld v 0 6 } }
  | 0x10 => { m with lnk := { m.lnk with maxRetx := max 1 (fld v 16 4), timeout := max 1 (fld v 0 16) } }
  | 0x18 => m.cntCtrl .lnk (bit v 0) (bit v 1)
  | 0x108 => m.onPort m.lnk.psel fun x => { x with pendEn := bit v 31, pendId := fld v 16 5 }
  | 0x110 => m.onPort m.lnk.psel fun x => writeCred x 0 v
  | 0x114 => m.onPort m.lnk.psel fun x => writeCred x 1 v
  | _ => m

def Mod.writeCol (m : Mod) (o v : Nat) : Mod :=
  match o with
  | 0x00 => { m with col := { m.col with parkFull := m.col.parkFull && !bit v 24 } }
  | 0x08 => m.cntCtrl .col (bit v 0) (bit v 1)
  | 0x100 => { m with col := { m.col with csel := fld v 0 8 } }
  | 0x200 => { m with col := { m.col with nsel := fld v 0 12 } }
  | 0x8000 => { m with col := { m.col with mbsel := fld v 0 6 } }
  | 0x9000 => { m with col := { m.col with pjsel := fld v 0 12 } }
  | _ => m

def Mod.writeNum (m : Mod) (o v : Nat) : Mod :=
  match o with
  | 0x00 => m.histSelect v
  | 0x400 => { m with num := { m.num with jsel := fld v 0 12 } }
  | 0x800 => { m with num := { m.num with usel := fld v 0 14 } }
  | _ => m

/-- A write of a register of the module; writes of RO fields and of the MET block have no effect. -/
def Mod.writeReg (m : Mod) (off v : Nat) : Mod :=
  let o := off % (if off < 0x100000 then 0x10000 else 0x100000)
  if m.shut off then m
  else match windowCore off with
  | some c => m.writeCore c o v
  | none =>
    if off < 0x100000 then
      match off / 0x10000 with
      | 1 => m.writeHif o v
      | 2 => if o = 0x08 then { m with tb := { m.tb with stepped := m.tb.stepped && !bit v 28 } } else m
      | 3 => m.writePwr o v
      | 5 => if o = 0x80 && bit v 0 && m.dbgOpen then m.relock 2 else m
      | _ => m
    else match off / 0x100000 with
      | 5 => m.writeCel o v
      | 6 => m.writeUpd o v
      | 7 => if o = 0x10 then m.cntCtrl .res (bit v 0) (bit v 1)
        else if o = 0x100 then { m with res := { m.res with osel := fld v 0 16 } } else m
      | 8 => if o = 0x20 then m.cntCtrl .atc (bit v 0) (bit v 1) else m
      | 9 => m.writeLnk o v
      | 10 => m.writeCol o v
      | 11 => m.writeNum o v
      | _ => m

/-- A doorbell of BAR2 (Table 15.3); other offsets take no write. -/
def Mod.writeBell (m : Mod) (off v : Nat) : Mod :=
  if !m.hif.bell off then m
  else if off % 0x400 = 0 then m.sqDoorbell (off / 0x400) v
  else m.cqDoorbell (off / 0x400) v

/-- The width of the register at an offset; none where none is assigned. -/
def State.regWidth (s : State) (bar2 : Bool) (off : Nat) : Option Nat :=
  if bar2 then (if s.m.hif.bell off then some 32 else none)
  else (s.register off).map (·.1)

/-- The registers that `n` bytes from an offset touch, with their widths in bytes. -/
def State.touched (s : State) (bar2 : Bool) (off n : Nat) : List (Nat × Nat) :=
  ((List.range 4).map fun i => off / 4 * 4 + 4 * i - 4).eraseDups.filterMap fun r =>
    match s.regWidth bar2 r with
    | some w => if r < off + n ∧ off < r + w / 8 then some (r, w / 8) else none
    | none => none

/-- The access keeps R14: a register that it touches is touched whole, alone, at its own width. One that touches no register
reaches unassigned offsets only (R15). -/
def State.accessOk (s : State) (bar2 : Bool) (off : Nat) (wide : Bool) : Bool :=
  let n := if wide then 8 else 4
  (s.touched bar2 off n).all fun r => r = (off, n)

/-- REGISTER_WRITE: R14 states an obligation of the host and no behaviour of a write to a register that breaks it. -/
def execRegisterWrite (bar2 : Bool) (off : W32) (wide : Bool) (v : W64) (s : State) : Host.Outcome State Fault Refusal :=
  let o := off.toNat
  if !s.accessOk bar2 o wide then .fault .brokenAccess
  else if !s.m.reachable then .next s
  else if bar2 then run (fun m => m.writeBell o (v.toNat % 2 ^ 32)) s
  else if o = 0x40000 then
    .next { s with evr := { s.evr with stgOvf := s.evr.stgOvf && !bit v.toNat 30 } }
  else run (fun m => m.writeReg o v.toNat) s

end Sys2Proof.Machine
end

