-- ==== Sys2Proof/Machine/Dispatch.lean ====
section
/-! DEFINITION. One arm for each command: its meaning, called by its full name. -/
namespace Sys2Proof.Machine

def exec (i : Instr) (s : State) : Host.Outcome State Fault Refusal :=
  match i with
  | .devQuery q p => Sys2Proof.Machine.execDevQuery q p s
  | .devConfig q p => Sys2Proof.Machine.execDevConfig q p s
  | .jobOpen q p => Sys2Proof.Machine.execJobOpen q p s
  | .jobClose q p => Sys2Proof.Machine.execJobClose q p s
  | .objCreate q p => Sys2Proof.Machine.execObjCreate q p s
  | .objFree q p => Sys2Proof.Machine.execObjFree q p s
  | .objHint q p => Sys2Proof.Machine.execObjHint q p s
  | .objWrite q p => Sys2Proof.Machine.execObjWrite q p s
  | .objRead q p => Sys2Proof.Machine.execObjRead q p s
  | .taskLoad q p => Sys2Proof.Machine.execTaskLoad q p s
  | .stepRun q p => Sys2Proof.Machine.execStepRun q p s
  | .stepAbort q p => Sys2Proof.Machine.execStepAbort q p s
  | .layerSet q p => Sys2Proof.Machine.execLayerSet q p s
  | .schedSet q p => Sys2Proof.Machine.execSchedSet q p s
  | .ckptWrite q p => Sys2Proof.Machine.execCkptWrite q p s
  | .ckptRestore q p => Sys2Proof.Machine.execCkptRestore q p s
  | .snapshotExport q p => Sys2Proof.Machine.execSnapshotExport q p s
  | .topoSet q p => Sys2Proof.Machine.execTopoSet q p s
  | .timeJoin q p => Sys2Proof.Machine.execTimeJoin q p s
  | .opSet q p => Sys2Proof.Machine.execOpSet q p s
  | .powerCap q p => Sys2Proof.Machine.execPowerCap q p s
  | .coreFence q p => Sys2Proof.Machine.execCoreFence q p s
  | .coreUnfence q p => Sys2Proof.Machine.execCoreUnfence q p s
  | .evrRead q p => Sys2Proof.Machine.execEvrRead q p s
  | .evrFreeze q p => Sys2Proof.Machine.execEvrFreeze q p s
  | .evrThaw q p => Sys2Proof.Machine.execEvrThaw q p s
  | .evrClear q p g => Sys2Proof.Machine.execEvrClear q p g s
  | .fwStage q p => Sys2Proof.Machine.execFwStage q p s
  | .fwActivate q p g a => Sys2Proof.Machine.execFwActivate q p g a s
  | .attest q p => Sys2Proof.Machine.execAttest q p s
  | .debugUnlock q p g => Sys2Proof.Machine.execDebugUnlock q p g s
  | .syncForce q p => Sys2Proof.Machine.execSyncForce q p s
  | .metRead q p => Sys2Proof.Machine.execMetRead q p s
  | .sqTailDoorbell q v => Sys2Proof.Machine.execSqTailDoorbell q v s
  | .cqHeadDoorbell q v => Sys2Proof.Machine.execCqHeadDoorbell q v s
  | .queueEnable v => Sys2Proof.Machine.execQueueEnable v s
  | .queueDisable v => Sys2Proof.Machine.execQueueDisable v s
  | .commandStart => Sys2Proof.Machine.execCommandStart s
  | .hostDmaError q fetch addr kind => Sys2Proof.Machine.execHostDmaError q fetch addr kind s
  | .interruptCoalesceTimeout q => Sys2Proof.Machine.execInterruptCoalesceTimeout q s
  | .debugApertureAccess off size w => Sys2Proof.Machine.execDebugApertureAccess off size w s
  | .flr => Sys2Proof.Machine.execFlr s
  | .pcieAerError correctable status => Sys2Proof.Machine.execPcieAerError correctable status s
  | .pcieDegraded width rate => Sys2Proof.Machine.execPcieDegraded width rate s
  | .ideError status => Sys2Proof.Machine.execIdeError status s
  | .cntClear b freeze => Sys2Proof.Machine.execCntClear b freeze s
  | .cntFreeze b freeze => Sys2Proof.Machine.execCntFreeze b freeze s
  | .histogramSnapshotSelect v => Sys2Proof.Machine.execHistogramSnapshotSelect v s
  | .histogramSnapshotDone => Sys2Proof.Machine.execHistogramSnapshotDone s
  | .celGangWrite v => Sys2Proof.Machine.execCelGangWrite v s
  | .celRegWrite c v => Sys2Proof.Machine.execCelRegWrite c v s
  | .regulatorChangeEffect st c => Sys2Proof.Machine.execRegulatorChangeEffect st c s
  | .panFloorWrite c v => Sys2Proof.Machine.execPanFloorWrite c v s
  | .debugLockWrite v => Sys2Proof.Machine.execDebugLockWrite v s
  | .metEnergyRead => Sys2Proof.Machine.execMetEnergyRead s
  | .registerWrite bar2 off wide v => Sys2Proof.Machine.execRegisterWrite bar2 off wide v s
  | .phaseDispatch job => Sys2Proof.Machine.execPhaseDispatch job s
  | .lookahead c k => Sys2Proof.Machine.execLookahead c k s
  | .arrPass c k => Sys2Proof.Machine.execArrPass c k s
  | .arrLoad c k => Sys2Proof.Machine.execArrLoad c k s
  | .vecStream c k => Sys2Proof.Machine.execVecStream c k s
  | .vecReduce c k => Sys2Proof.Machine.execVecReduce c k s
  | .move c k => Sys2Proof.Machine.execMove c k s
  | .prefetch c k => Sys2Proof.Machine.execPrefetch c k s
  | .syncWait c k => Sys2Proof.Machine.execSyncWait c k s
  | .syncSignal c k => Sys2Proof.Machine.execSyncSignal c k s
  | .barrier c k => Sys2Proof.Machine.execBarrier c k s
  | .coll c k => Sys2Proof.Machine.execColl c k s
  | .updLayer c k => Sys2Proof.Machine.execUpdLayer c k s
  | .rootRefresh c k => Sys2Proof.Machine.execRootRefresh c k s
  | .histMark c k => Sys2Proof.Machine.execHistMark c k s
  | .endList c k => Sys2Proof.Machine.execEndList c k s
  | .descriptorRetire c id st => Sys2Proof.Machine.execDescriptorRetire c id st s
  | .remoteSignalAct src dst obj => Sys2Proof.Machine.execRemoteSignalAct src dst obj s
  | .syncWaitTimeout c k => Sys2Proof.Machine.execSyncWaitTimeout c k s
  | .coreBarrierRelease c bar => Sys2Proof.Machine.execCoreBarrierRelease c bar s
  | .barrierTimeout c id => Sys2Proof.Machine.execBarrierTimeout c id s
  | .arrLoadBegin c a => Sys2Proof.Machine.execArrLoadBegin c a s
  | .arrPassStage0 c a => Sys2Proof.Machine.execArrPassStage0 c a s
  | .residueMismatch c a group phys => Sys2Proof.Machine.execResidueMismatch c a group phys s
  | .passReplay c a => Sys2Proof.Machine.execPassReplay c a s
  | .sumpEccError c a row col corrected => Sys2Proof.Machine.execSumpEccError c a row col corrected s
  | .chuteParity c a row slot => Sys2Proof.Machine.execChuteParity c a row slot s
  | .xposeParity c a stationary band id => Sys2Proof.Machine.execXposeParity c a stationary band id s
  | .vecLaneParity c st => Sys2Proof.Machine.execVecLaneParity c st s
  | .vecRecipeParity c recipe job => Sys2Proof.Machine.execVecRecipeParity c recipe job s
  | .synParity c obj => Sys2Proof.Machine.execSynParity c obj s
  | .panEccError c bank word corrected => Sys2Proof.Machine.execPanEccError c bank word corrected s
  | .updUnitFault u => Sys2Proof.Machine.execUpdUnitFault u s
  | .updBufferEccError u word corrected => Sys2Proof.Machine.execUpdBufferEccError u word corrected s
  | .localisationTest c a => Sys2Proof.Machine.execLocalisationTest c a s
  | .localisationTestDone c a r => Sys2Proof.Machine.execLocalisationTestDone c a r s
  | .stepEnd job => Sys2Proof.Machine.execStepEnd job s
  | .deferredCoreFence c => Sys2Proof.Machine.execDeferredCoreFence c s
  | .deferredCoreUnfence c failing => Sys2Proof.Machine.execDeferredCoreUnfence c failing s
  | .ckptCapture job => Sys2Proof.Machine.execCkptCapture job s
  | .ckptDurable job => Sys2Proof.Machine.execCkptDurable job s
  | .snapshotCapture job => Sys2Proof.Machine.execSnapshotCapture job s
  | .snapshotDone job => Sys2Proof.Machine.execSnapshotDone job s
  | .moveCommit obj tile => Sys2Proof.Machine.execMoveCommit obj tile s
  | .sourceFrameRelease obj tile => Sys2Proof.Machine.execSourceFrameRelease obj tile s
  | .autoPolicyMove obj tile dest => Sys2Proof.Machine.execAutoPolicyMove obj tile dest s
  | .tileFaultTimeout obj tile => Sys2Proof.Machine.execTileFaultTimeout obj tile s
  | .atticGarbageCollect block => Sys2Proof.Machine.execAtticGarbageCollect block s
  | .atcDisturb ch block => Sys2Proof.Machine.execAtcDisturb ch block s
  | .atcWearMove src dst => Sys2Proof.Machine.execAtcWearMove src dst s
  | .atcPageUncorrectable ch block page rebuilt obj tile => Sys2Proof.Machine.execAtcPageUncorrectable ch block page rebuilt obj tile s
  | .atcBlockRetired ch block => Sys2Proof.Machine.execAtcBlockRetired ch block s
  | .journalFlush => Sys2Proof.Machine.execJournalFlush s
  | .stackTempRead st t => Sys2Proof.Machine.execStackTempRead st t s
  | .scrub st corrected bad => Sys2Proof.Machine.execScrub st corrected bad s
  | .cellarUncorrectable st off => Sys2Proof.Machine.execCellarUncorrectable st off s
  | .rowRepaired st pc row => Sys2Proof.Machine.execRowRepaired st pc row s
  | .poisonConsumed id sector obj tile => Sys2Proof.Machine.execPoisonConsumed id sector obj tile s
  | .correctionWindowRoll => Sys2Proof.Machine.execCorrectionWindowRoll s
  | .stackRehash st => Sys2Proof.Machine.execStackRehash st s
  | .rehashDone st => Sys2Proof.Machine.execRehashDone st s
  | .fenceEvacuationDone c bad => Sys2Proof.Machine.execFenceEvacuationDone c bad s
  | .replayBegin job => Sys2Proof.Machine.execReplayBegin job s
  | .fabricReplayFailure a b => Sys2Proof.Machine.execFabricReplayFailure a b s
  | .watchdogExpiry d => Sys2Proof.Machine.execWatchdogExpiry d s
  | .cpMemoryUncorrectable d => Sys2Proof.Machine.execCpMemoryUncorrectable d s
  | .laneFail p lane => Sys2Proof.Machine.execLaneFail p lane s
  | .retrainDone p ok => Sys2Proof.Machine.execRetrainDone p ok s
  | .portDown p cause => Sys2Proof.Machine.execPortDown p cause s
  | .portTrainRetry p => Sys2Proof.Machine.execPortTrainRetry p s
  | .portUp p peerLanes => Sys2Proof.Machine.execPortUp p peerLanes s
  | .dataFlitReceive p f => Sys2Proof.Machine.execDataFlitReceive p f s
  | .linkReplayTimeout p => Sys2Proof.Machine.execLinkReplayTimeout p s
  | .beaconSend p => Sys2Proof.Machine.execBeaconSend p s
  | .beaconReceive p b => Sys2Proof.Machine.execBeaconReceive p b s
  | .gmSeqAdvance => Sys2Proof.Machine.execGmSeqAdvance s
  | .gmLivenessTimeout => Sys2Proof.Machine.execGmLivenessTimeout s
  | .helloSend p => Sys2Proof.Machine.execHelloSend p s
  | .helloReceive p b => Sys2Proof.Machine.execHelloReceive p b s
  | .helloTimeout => Sys2Proof.Machine.execHelloTimeout s
  | .creditInit p f => Sys2Proof.Machine.execCreditInit p f s
  | .laneHealth p f => Sys2Proof.Machine.execLaneHealth p f s
  | .retrain p f => Sys2Proof.Machine.execRetrain p f s
  | .controlRepeat p => Sys2Proof.Machine.execControlRepeat p s
  | .creditInitTimeout p => Sys2Proof.Machine.execCreditInitTimeout p s
  | .packetForward p h body => Sys2Proof.Machine.execPacketForward p h body s
  | .exchange p h body => Sys2Proof.Machine.execExchange p h body s
  | .reduce p h body dupOk => Sys2Proof.Machine.execReduce p h body dupOk s
  | .barrierPacket p h body => Sys2Proof.Machine.execBarrierPacket p h body s
  | .e2eAck p h => Sys2Proof.Machine.execE2eAck p h s
  | .pace p h body => Sys2Proof.Machine.execPace p h body s
  | .snapshot p h body src => Sys2Proof.Machine.execSnapshot p h body src s
  | .treePacketSend k => Sys2Proof.Machine.execTreePacketSend k s
  | .e2eAckTimer src job vc => Sys2Proof.Machine.execE2eAckTimer src job vc s
  | .e2eRetx dst job vc => Sys2Proof.Machine.execE2eRetx dst job vc s
  | .collTimeout job collId => Sys2Proof.Machine.execCollTimeout job collId s
  | .throttleInAssert ns acts => Sys2Proof.Machine.execThrottleInAssert ns acts s
  | .throttleInRelease => Sys2Proof.Machine.execThrottleInRelease s
  | .regAlert kind d v => Sys2Proof.Machine.execRegAlert kind d v s
  | .regAlertClear kind => Sys2Proof.Machine.execRegAlertClear kind s
  | .forcedHoldoffEnd => Sys2Proof.Machine.execForcedHoldoffEnd s
  | .rampStep => Sys2Proof.Machine.execRampStep s
  | .droopSample d mv => Sys2Proof.Machine.execDroopSample d mv s
  | .droopWarnTimeout d => Sys2Proof.Machine.execDroopWarnTimeout d s
  | .powerSample watts vin => Sys2Proof.Machine.execPowerSample watts vin s
  | .capDecision => Sys2Proof.Machine.execCapDecision s
  | .junctionSensorRead d r => Sys2Proof.Machine.execJunctionSensorRead d r s
  | .tripPerimeterOff => Sys2Proof.Machine.execTripPerimeterOff s
  | .thermOpStep => Sys2Proof.Machine.execThermOpStep s
  | .rateMonitorSample d count => Sys2Proof.Machine.execRateMonitorSample d count s
  | .inputLoss => Sys2Proof.Machine.execInputLoss s
  | .flushDone => Sys2Proof.Machine.execFlushDone s
  | .modPwrenRise => Sys2Proof.Machine.execModPwrenRise s
  | .railsInRegulation => Sys2Proof.Machine.execRailsInRegulation s
  | .modPwrenFall => Sys2Proof.Machine.execModPwrenFall s
  | .railOutOfRegulation => Sys2Proof.Machine.execRailOutOfRegulation s
  | .perstAssert => Sys2Proof.Machine.execPerstAssert s
  | .perstDeassert => Sys2Proof.Machine.execPerstDeassert s
  | .bootComplete => Sys2Proof.Machine.execBootComplete s
  | .memInitComplete r => Sys2Proof.Machine.execMemInitComplete r s
  | .linkInitComplete => Sys2Proof.Machine.execLinkInitComplete s
  | .startupFail => Sys2Proof.Machine.execStartupFail s
  | .firmwareImageTransfer img a => Sys2Proof.Machine.execFirmwareImageTransfer img a s
  | .activateFirmware => Sys2Proof.Machine.execActivateFirmware s
  | .debugRelockExpiry => Sys2Proof.Machine.execDebugRelockExpiry s
  | .rateWindowClose => Sys2Proof.Machine.execRateWindowClose s
  | .freezeExpired => Sys2Proof.Machine.execFreezeExpired s
  | .opsecPersist => Sys2Proof.Machine.execOpsecPersist s
  | .mailboxFrame f crcOk => Sys2Proof.Machine.execMailboxFrame f crcOk s
  | .mailboxTimeout => Sys2Proof.Machine.execMailboxTimeout s
  | .strongboxFrameSend power => Sys2Proof.Machine.execStrongboxFrameSend power s
  | .energyAccumulate microJ power => Sys2Proof.Machine.execEnergyAccumulate microJ power s
  | .energyNvmWrite => Sys2Proof.Machine.execEnergyNvmWrite s
  | .busbarBelow40v holdUpOk => Sys2Proof.Machine.execBusbarBelow40v holdUpOk s
  | .metrologySignedTransfer sigOk op => Sys2Proof.Machine.execMetrologySignedTransfer sigOk op s
  | .strongboxPrivateRead off len => Sys2Proof.Machine.execStrongboxPrivateRead off len s
  | .sealLoopOpen => Sys2Proof.Machine.execSealLoopOpen s
  | .setEndpointId eid => Sys2Proof.Machine.execSetEndpointId eid s
  | .getEndpointId => Sys2Proof.Machine.execGetEndpointId s
  | .mctpDiscovery kind => Sys2Proof.Machine.execMctpDiscovery kind s
  | .pldmDiscovery => Sys2Proof.Machine.execPldmDiscovery s
  | .pldmSensorRead sensor => Sys2Proof.Machine.execPldmSensorRead sensor s
  | .getVersion t => Sys2Proof.Machine.execGetVersion t s
  | .getCapabilities t => Sys2Proof.Machine.execGetCapabilities t s
  | .negotiateAlgorithms t => Sys2Proof.Machine.execNegotiateAlgorithms t s
  | .getDigests t => Sys2Proof.Machine.execGetDigests t s
  | .getCertificate t slot off len => Sys2Proof.Machine.execGetCertificate t slot off len s
  | .challenge t slot => Sys2Proof.Machine.execChallenge t slot s
  | .getMeasurements t index sign => Sys2Proof.Machine.execGetMeasurements t index sign s
  | .chunkSend t last => Sys2Proof.Machine.execChunkSend t last s
  | .chunkGet t => Sys2Proof.Machine.execChunkGet t s
  | .keyExchange t => Sys2Proof.Machine.execKeyExchange t s
  | .finish t => Sys2Proof.Machine.execFinish t s
  | .keyUpdate t => Sys2Proof.Machine.execKeyUpdate t s
  | .endSession t => Sys2Proof.Machine.execEndSession t s
  | .ideKm t go => Sys2Proof.Machine.execIdeKm t go s
  | .idcode => Sys2Proof.Machine.execIdcode s
  | .bypass code => Sys2Proof.Machine.execBypass code s
  | .timeJoinTimeout q => Sys2Proof.Machine.execTimeJoinTimeout q s
  | .inputApplied mv => Sys2Proof.Machine.execInputApplied mv s
  | .idleFlitReceive p f => Sys2Proof.Machine.execIdleFlitReceive p f s
  | .trstAssert => Sys2Proof.Machine.execTrstAssert s
  | .dynamicAddressAssignment => Sys2Proof.Machine.execDynamicAddressAssignment s

end Sys2Proof.Machine
end

