-- ==== Sys2Proof/Machine/Tick.lean ====
section
/-! DEFINITION. The passing of time: one nanosecond of the module's oscillator, and what an export reads in it. -/
namespace Sys2Proof.Machine

/-- The counters of ticks (Tables 9.14, 10.11, 16.13). -/
def Mod.tickPower (m : Mod) : Mod :=
  let m := if m.pwr.cause = 1 then m.pwrCnt 0x208 1 else m
  let m := if m.pwr.forced then m.pwrCnt 0x210 1 else m
  if m.pwr.cause = 5 then m.pwrCnt 0x218 1 else m

/-- The refresh interval in force, in nanoseconds (Table 9.4). -/
def StackSt.interval (x : StackSt) : Nat := [3900, 1950, 975].getD x.refresh 3900
/-- A class's bucket fills at RATE / 256 of the stack's 1.2288 TB/s, in a nanosecond RATE × 24 fifths of a byte, up to BURST KiB
(R294, R304). -/
def StackSt.refill (x : StackSt) : StackSt :=
  let fill := fun (i : Nat) => min (5120 * x.inForceBurst.getD i 0) (x.tokens.getD i 0 + 24 * x.inForceRate.getD i 0)
  { x with tokens := (List.range 5).map fill }
def Mod.tickStack (m : Mod) (i : Nat) : Mod :=
  let m := m.onStack i StackSt.refill
  let x := m.stack! i
  let m := if x.hot then m.stackCnt i 0x338 1 else m
  if !x.out && m.now % x.interval = 0 then m.stackCnt i 0x340 1 else m

/-- Faulting pins that wait for their tile. -/
def Mod.faultPins (m : Mod) : Nat :=
  (m.res.waiting.filter fun r => r.kind = 1).length + (m.res.moves.filter fun v => v.servesPin).length

/-- Descriptors of a core that wait: for sync objects of their header, or as a SYNC_WAIT (R397, R398). -/
def CoreSt.waiting (x : CoreSt) : Nat :=
  (x.slots.filter fun (p : Nat × SlotSt) =>
    (match p.2.rest with | d :: _ => p.2.blocked.isNone && !p.2.waitDone && dWait d != 0 | [] => false) ||
    (match p.2.blocked with
      | some id => x.infl.any fun f => f.id = id && dOp f.d = 0x40
      | none => false)).length

/-- SYN_CNT_WAIT_STAGES counts while a descriptor waits; how many stages a nanosecond holds is free (log entry 8). -/
def Mod.tickWaits (m : Mod) (c : Nat) : Mod :=
  if (m.core! c).waiting = 0 then m
  else { m with free := m.free + 1 }.synCnt c 0x28 ((m.core! c).waiting * (Config.freeValue m.free).toNat)

/-- How many codewords an UP port's FEC corrects, or cannot, in a nanosecond is free (Table 12.17). -/
def Mod.tickFec (m : Mod) (p : Nat) : Mod :=
  if (m.port! p).link ≠ .up then m
  else (({ m with free := m.free + 2 }.portCnt p 0x220 (Config.freeValue m.free).toNat).portCnt p 0x228 (Config.freeValue (m.free + 1)).toNat)

/-- What one nanosecond does while Nimig runs. -/
def Mod.tickAlive (mem : List Host.Cell) (m : Mod) : Mod :=
  let m := (List.range 32).foldl Mod.tickStack m.tickPower
  let m := (List.range 4).foldl Mod.tickWaits m
  let m := m.lnk.ports.foldl (fun m (p : Nat × PortSt) => m.tickFec p.1) m
  let m := if m.faultPins = 0 then m else m.resCnt 0x48 m.faultPins
  (m.jobs.foldl (fun m (p : Nat × Job) => m.snapRead mem p.1) m).lostRoutes

/-- The time base advances (R450). -/
def Mod.tick (m : Mod) : Mod :=
  { m with tb := { m.tb with nanoTicks := m.tb.nanoTicks + (1000000000 + m.tb.rho).toNat } }

/-- The operating seconds count while input power is present, in OFF too (R644). -/
def Evr.tick (e : Evr) : Evr :=
  if 999999999 ≤ e.opNs then { e with opNs := 0, opsec := e.opsec + 1 } else { e with opNs := e.opNs + 1 }

/-- One nanosecond. In OFF the operating seconds alone count. -/
def tick (s : State) : State :=
  let s := if s.m.pins.inputMv = 0 then s else { s with evr := s.evr.tick }
  if s.m.phase = .off then s
  else s.commit (if s.m.alive then s.m.tick.tickAlive s.mem else s.m.tick)

end Sys2Proof.Machine
end

