-- ==== Sys2Proof/Safety.lean ====
section
/-! DEFINITION. What a safe state is, and when a command may act, in the terms the statements use. -/
namespace Sys2Proof.Machine

/-- The recorder keeps within its sizes (R645, R646, R647). -/
def Evr.bounded (e : Evr) : Prop := e.staging.length ≤ 1024 ∧ e.ring.length ≤ 65536 ∧ e.pres.length ≤ 1024

/-- Records stand in rising INDEX, the newest just below the next one (R646, R647). -/
def numbered (l : List Rec) (next : Nat) : Prop :=
  l.length ≤ next ∧ l.map (fun r => r.index) = List.range' (next - l.length) l.length
/-- The ring and the preserved area are numbered without a gap. -/
def Evr.numbered (e : Evr) : Prop := Machine.numbered e.ring e.next ∧ Machine.numbered e.pres e.presNext

/-- A step of the machine runs to a next state; the one stop is a register write that breaks R14. -/
def Safe (s : State) : Prop := ∃ t, step s = .next t

/-- A host command acts: it is its queue's command in flight, its turn has come, and it passes the checks of R542. -/
def State.accepts (s : State) (op : Nat) (q : Queue) (p : Packet) : Prop :=
  s.m.takes op q p = true ∧ s.m.checkPkt p = none

/-- A signed host command acts: its signature verifies as well (R543). -/
def State.acceptsSigned (s : State) (op : Nat) (q : Queue) (p : Packet) (g : Sig) : Prop :=
  s.m.takes op q p = true ∧ s.m.signedStatus s.mem p g = none

/-- The core, the slot and the opcode of a row that issues a descriptor (Table 1.9). -/
def issueOf : Instr → Option (Core × Slot × Nat)
  | .arrPass c k => some (c, k, opArrPass) | .arrLoad c k => some (c, k, opArrLoad)
  | .vecStream c k => some (c, k, opVecStream) | .vecReduce c k => some (c, k, opVecReduce)
  | .move c k => some (c, k, opMove) | .prefetch c k => some (c, k, opPrefetch)
  | .syncWait c k => some (c, k, opSyncWait) | .syncSignal c k => some (c, k, opSyncSignal)
  | .barrier c k => some (c, k, opBarrier) | .coll c k => some (c, k, opColl)
  | .updLayer c k => some (c, k, opUpdLayer) | .rootRefresh c k => some (c, k, opRootRefresh)
  | .histMark c k => some (c, k, opHistMark) | .endList c k => some (c, k, opEnd)
  | _ => none

/-- Slot k of a core is at a head of opcode `op` that this opportunity issues (R41, R45 to R48, R349): its wait is satisfied, no
check of R52 fails, it is the winner, it is not quenched, and the tiles it needs are pinned, which leaves `m`. -/
def State.issues (s : State) (c k op : Nat) (sl : SlotSt) (d : Nat) (m : Mod) : Prop :=
  Tab.find (s.m.core! c).slots k = some sl ∧ sl.rest.head? = some d ∧ dOp d = op ∧ s.m.headOpen c k sl d = true ∧
  waited sl d = true ∧ descCauses s.m c sl d = [] ∧ (decide (dOp d = opUpdLayer) && s.m.snapUnread sl.l.job (updLayerNo d)) = false ∧
  s.m.winner c = some k ∧ (s.m.quenched sl.l.job && quenchable d) = false ∧
  s.m.takePins c sl.l.job (descPins s.m c sl.l.task sl.l.job d) = some m

/-- Slot k of a core is at a head that this opportunity of opcode `op` finds faulty (R52): its lowest failing cause is `cause`. -/
def State.faultsAt (s : State) (c k op : Nat) (sl : SlotSt) (d cause : Nat) : Prop :=
  Tab.find (s.m.core! c).slots k = some sl ∧ sl.rest.head? = some d ∧ (dOp d = op ∨ dOp d ∉ opcodes) ∧ s.m.headOpen c k sl d = true ∧
  (waited sl d = true ∨ s.m.waitsMet c d = true ∨ bindCauses s.m c sl.l.job d ≠ []) ∧ cause ∈ descCauses s.m c sl d ∧ ∀ x ∈ descCauses s.m c sl d, cause ≤ x

/-- The head taken from its slot, in flight under the next id with its pins. -/
def State.taken (s : State) (c k : Nat) (sl : SlotSt) (d : Nat) (m : Mod) : Mod :=
  m.takeHead c k sl d (descPins s.m c sl.l.task sl.l.job d)

/-- A packet that its port lets through, for this module, the next of its stream (R432, R433, R445); its leaving the receive buffer
leaves `m`. -/
def State.inOrder (s : State) (p h body : Nat) (m : Mod) : Prop :=
  (∃ epoch, s.m.arrival p h body = some (m, epoch) ∧ m.portDrops p h epoch = false) ∧ hDst h = m.lnk.chip ∧
  m.lostFor (hSrc h) (hJob h) = false ∧ hSeq h = (m.rx! (streamKey (hSrc h) (hJob h) (hVc h))).next

/-- The packet as its stream holds it. -/
def heldOf (p h body : Nat) (src : SnapSrc) : HeldPkt := { seq := hSeq h, port := p, hdr := h, body := body, src := src }

end Sys2Proof.Machine
end

