-- ==== Sys2Proof/WellFormed.lean ====
section
/-! DEFINITION. Which commands are well formed: the operand ranges that their types do not state. -/
namespace Sys2Proof

/-- The queue, packet and opcode of each host command (Table 15.6). -/
def Instr.hostOpcode : Instr → Option (Queue × Packet × Nat)
  | .devQuery q p => some (q, p, 0x01) | .devConfig q p => some (q, p, 0x02)
  | .jobOpen q p => some (q, p, 0x08) | .jobClose q p => some (q, p, 0x09)
  | .objCreate q p => some (q, p, 0x10) | .objFree q p => some (q, p, 0x11) | .objHint q p => some (q, p, 0x12)
  | .objWrite q p => some (q, p, 0x13) | .objRead q p => some (q, p, 0x14)
  | .taskLoad q p => some (q, p, 0x20) | .stepRun q p => some (q, p, 0x21) | .stepAbort q p => some (q, p, 0x22)
  | .layerSet q p => some (q, p, 0x28) | .schedSet q p => some (q, p, 0x29)
  | .ckptWrite q p => some (q, p, 0x30) | .ckptRestore q p => some (q, p, 0x31) | .snapshotExport q p => some (q, p, 0x32)
  | .topoSet q p => some (q, p, 0x38) | .timeJoin q p => some (q, p, 0x39)
  | .opSet q p => some (q, p, 0x40) | .powerCap q p => some (q, p, 0x41)
  | .coreFence q p => some (q, p, 0x48) | .coreUnfence q p => some (q, p, 0x49)
  | .evrRead q p => some (q, p, 0x50) | .evrFreeze q p => some (q, p, 0x51) | .evrThaw q p => some (q, p, 0x52)
  | .evrClear q p _ => some (q, p, 0x53)
  | .fwStage q p => some (q, p, 0x58) | .fwActivate q p _ _ => some (q, p, 0x59) | .attest q p => some (q, p, 0x5A)
  | .debugUnlock q p _ => some (q, p, 0x5B) | .syncForce q p => some (q, p, 0x5C) | .metRead q p => some (q, p, 0x60)
  | _ => none

/-- A host command's packet carries the command's own opcode in byte 0 (Table 15.4). -/
def Instr.opcodeOk (i : Instr) : Bool :=
  match i.hostOpcode with
  | some (_, p, op) => p.toNat % 256 == op
  | none => true

/-- The KIND that a link packet's row carries in its header (Table 12.3, byte 7). -/
def Instr.packetKind : Instr → Option (PktHdr × Nat)
  | .exchange _ h _ => some (h, 1) | .reduce _ h _ _ => some (h, 2) | .barrierPacket _ h _ => some (h, 3)
  | .e2eAck _ h => some (h, 4) | .pace _ h _ => some (h, 5) | .snapshot _ h _ _ => some (h, 6)
  | _ => none

/-- A packet's row carries its own KIND. -/
def Instr.kindOk (i : Instr) : Bool :=
  match i.packetKind with
  | some (h, k) => h.toNat / 2 ^ 56 % 256 == k
  | none => true

/-- The ranges of operands that are numbers or pairs: each as its rule or table gives it. -/
def Instr.rangesOk : Instr → Bool
  | .debugApertureAccess off size w => decide (1 ≤ size ∧ off.toNat + size ≤ 2 ^ 32) && (match w with
    | some v => decide (v < 2 ^ (8 * size))
    | none => true)
  | .pcieDegraded width rate => ([1, 2, 4, 8] : List Nat).contains width &&
      ([1280, 640, 320, 160, 80, 50, 25] : List Nat).contains rate && !(width == 8 && rate == 1280)
  | .remoteSignalAct src dst _ => src != dst
  | .fabricReplayFailure a b => a != b
  | .fenceEvacuationDone _ bad => bad.all fun b => decide (b.1 < 16384 ∧ b.2.2 < 16384)
  | .scrub _ corrected bad => (corrected.all fun p => decide (p.1 < 2 ^ 36)) && bad.all fun p => decide (p < 2 ^ 36)
  | .panEccError _ _ word _ => decide (word.toNat < 524288)
  | .updBufferEccError _ word _ => decide (word.toNat < 9216)
  | .cellarUncorrectable _ off => decide (off < 2 ^ 36)
  | .dataFlitReceive _ f => decide (f.body < 2 ^ 1952)
  | .idleFlitReceive _ f => decide (f.body < 2 ^ 1952)
  | .creditInit _ f => decide (f.body < 2 ^ 1952)
  | .laneHealth _ f => decide (f.body < 2 ^ 1952)
  | .retrain _ f => decide (f.body < 2 ^ 1952)
  | .throttleInAssert ns acts => if acts then decide (20 ≤ ns) else decide (ns < 50)
  | .regAlert kind _ v => match kind with
    | .inputLow => decide (v < 46500)
    | .overCurrent => decide (600 < v ∧ v < 65536)
    | .hot => decide (125 < v ∧ v < 65536)
  | .powerSample watts vin => decide (watts < 65536 ∧ vin < 65536)
  | .junctionSensorRead _ r => r.length == 16
  | .memInitComplete r => (r.calibFail.all fun p => decide (p.1 < 32 ∧ p.2 < 32)) &&
      (r.bankFail.all fun p => decide (p.1 < 4 ∧ p.2 < 64)) && decide (r.atticCode ≤ 4)
  | .strongboxPrivateRead off len => decide (off + len ≤ 48)
  | _ => true

/-- A well-formed command. -/
def Instr.wellFormed (i : Instr) : Bool := i.opcodeOk && i.kindOk && i.rangesOk

end Sys2Proof
end

