-- ==== Sys2Proof/Certificates/Slice0/Obligations.lean ====
section
/-! DEFINITION. The statements for the provers. The first 39 say where every command of the table completes and the exact state it leaves
(and so what it leaves alone); the rest are rules of the machine, its frames and its invariants. -/
section Statements
open Sys2Proof
open Sys2Proof.Machine

/-- The device commands that answer from what the module holds: each, once accepted, completes with OK and the data its
table names (Tables 15.9, 15.13; R540, R569, R579, R626, R650, R671). OP_SET: 0xFF leaves a job's preference as it is. The exact
next state is given. -/
def Obligations.QueryCommandsComplete : Prop := ∀ (q : Queue) (p : Packet) (s : State),
  (s.accepts 0x01 q p → exec (.devQuery q p) s =
    .next (s.commit ((s.m.hostWrite (pkt p 16 8) (leBytes 4096 s.m.devRecord)).reply q (pktId p) stOK))) ∧
  (s.accepts 0x02 q p → exec (.devConfig q p) s =
    .next (s.commit ({ s.m with hif := { s.m.hif with asyncVec := pkt p 16 1, asyncMask := pkt p 18 2 } }.reply q (pktId p) stOK))) ∧
  (s.accepts 0x41 q p → exec (.powerCap q p) s =
    .next (s.commit ({ s.m with pwr := { s.m.pwr with capW := pkt p 16 4 } }.reply q (pktId p) stOK 0 [(16, 4, s.m.pwr.capW)]))) ∧
  (s.accepts 0x50 q p → ∀ area last, area = (if pkt p 32 1 = 1 then s.evr.pres else s.evr.ring) →
    pkt p 24 4 < (if pkt p 32 1 = 1 then s.evr.presNext else s.evr.next) → (∀ r ∈ area, pkt p 24 4 ≤ r.index) →
    (area.take (pkt p 28 4)).getLast? = some last → exec (.evrRead q p) s =
      .next (s.commit ((s.m.hostWrite (pkt p 16 8) ((area.take (pkt p 28 4)).flatMap Rec.bytes)).reply q (pktId p) stOK 0
        [(16, 4, (area.take (pkt p 28 4)).length), (20, 4, last.index + 1)]))) ∧
  (s.accepts 0x60 q p → ∀ f, s.m.met.valid = true → s.m.met.held = some f → exec (.metRead q p) s =
    .next (s.commit (s.m.reply q (pktId p) stOK 0 [(16, 8, f.energy.toNat), (24, 8, s.m.met.heldAt)]))) ∧
  (s.accepts 0x58 q p → pkt p 28 4 + pkt p 24 4 ≤ 67117056 → ∀ sec0 : Sec,
    sec0 = (if pkt p 28 4 = 0 then { s.m.sec with stage := [], stageRanges := [], stageLen := none } else s.m.sec) →
    exec (.fwStage q p) s = .next (s.commit ({ s.m with
      sec := { sec0 with
        stage := stageBytes s.mem sec0.stage (pkt p 16 8) (pkt p 24 4) (pkt p 28 4)
        stageRanges := addRange sec0.stageRanges (pkt p 28 4) (pkt p 28 4 + pkt p 24 4)
        stageLen := if bit (pkt p 32 1) 0 then some (pkt p 28 4 + pkt p 24 4) else sec0.stageLen }
      nv := s.m.nv.setSlot s.m.nv.stageSlot fun (f : FwSlot) =>
        if pkt p 28 4 = 0 then ({} : FwSlot) else { f with valid := false, st := if f.st = SlotState.pending then SlotState.pending else SlotState.empty } }.reply q
      (pktId p) stOK 0 [(16, 4, pkt p 24 4)]))) ∧
  (s.accepts 0x5A q p → ∀ w x bs, w = Memory.readN s.mem (pkt p 16 8) (min 8 (pkt p 24 4)) → x = s.m.attestRequest w →
    bs = Config.spdmFrame (byf w 1 1) (if x.conn .attest = s.m.conn .attest ∧ byf w 1 1 ≠ 0x84 then [] else (x.conn .attest).values) →
    exec (.attest q p) s = .next (s.commit (((x.spend 1).hostWrite (pkt p 32 8) (bs.take (pkt p 40 4))).reply q (pktId p) stOK 0
      [(16, 4, bs.length)]))) ∧
  (s.accepts 0x40 q p → pktJob p = 0 → pkt p 20 1 ≠ 0xFF → exec (.opSet q p) s =
    .next (s.commit (({ s.m with pwr := { s.m.pwr with idlePref := pkt p 20 1 } }.power).reply q (pktId p) stOK))) ∧
  (s.accepts 0x40 q p → ∀ j, pktJob p ≠ 0 → s.m.job? (pktJob p) = some j → exec (.opSet q p) s =
    .next (s.commit ({ s.m with jobs := Tab.put s.m.jobs (pktJob p) { j with
      ops := (List.range 4).map fun i => if pkt p (16 + i) 1 = 0xFF then j.ops.getD i 5 else pkt p (16 + i) 1 } }.reply q
        (pktId p) stOK)))

/-- The commands that hold their queue until later: TIME_JOIN, TOPO_SET, CORE_FENCE, CORE_UNFENCE. CORE_FENCE fences
at once where every job stands at a step boundary (R596); SYNC_FORCE acts as a SET and answers the old value (R413). -/
def Obligations.WaitingDeviceCommandsComplete : Prop := ∀ (q : Queue) (p : Packet) (s : State),
  (s.accepts 0x39 q p → s.m.tb.state ≠ .free → exec (.timeJoin q p) s =
    .next (s.commit (({ s.m with tb := { s.m.tb with joins := s.m.tb.joins ++ [(q.val, s.m.now + 1000000 * pkt p 16 4)] } }.hold q).finishJoins))) ∧
  (s.accepts 0x38 q p → ∀ w, w = Memory.readN s.mem (pkt p 16 8) (min (pkt p 24 4) 524824) →
    536 + 128 * min 4096 (topoEntries w) ≤ pkt p 24 4 → (∀ c ∈ topoChecks w, c.2 = true) → s.m.topoReject w = none →
    ∀ m : Mod, m = s.m.replyTopo.commitTopo w → exec (.topoSet q p) s = .next (s.commit (({ m with lnk := { m.lnk with
      helloQ := some (q.val, pktId p, m.now + 1000000 * (if byf w 12 2 = 0 then 20 else byf w 12 2)) } }.hold q).checkHello))) ∧
  (s.accepts 0x48 q p → s.m.liveCores.contains (pkt p 16 1) = true → 1 < s.m.liveCores.length → s.m.deferFence = [] →
    s.m.allAtBoundary = true → exec (.coreFence q p) s =
      .next (s.commit (({ s.m with deferFence := [(pkt p 16 1, q.val, pktId p)] }.hold q).startFence (pkt p 16 1) 1 0))) ∧
  (s.accepts 0x49 q p → (s.m.core! (pkt p 16 1)).fenced = true → s.m.exhausted (pkt p 16 1) = false → exec (.coreUnfence q p) s =
    .next (s.commit ({ s.m with deferUnfence := s.m.deferUnfence ++ [(pkt p 16 1, q.val, pktId p)] }.hold q))) ∧
  (s.accepts 0x5C q p → s.m.dbgOpen = true → (s.m.sync! (pkt p 16 1) (pkt p 17 1)).job ≠ 0 →
    pkt p 20 4 ≤ (s.m.sync! (pkt p 16 1) (pkt p 17 1)).limit → exec (.syncForce q p) s =
    .next (s.commit (((((s.m.signal (pkt p 16 1) (pkt p 17 1) true (pkt p 20 4)).onCore (pkt p 16 1) fun x => { x with synForced := true }).ev
      0x6030 0 [(0, 1, pkt p 16 1), (1, 1, pkt p 17 1), (2, 2, (s.m.sync! (pkt p 16 1) (pkt p 17 1)).job),
        (4, 4, (s.m.sync! (pkt p 16 1) (pkt p 17 1)).value), (8, 4, pkt p 20 4)]).settle (pkt p 16 1)).reply q (pktId p) stOK 0
      [(16, 4, (s.m.sync! (pkt p 16 1) (pkt p 17 1)).value)])))

/-- The recorder's commands (R651, R653) and the signed commands FW_ACTIVATE (R627) and DEBUG_UNLOCK (R639): each completes with
OK; a signed one renews the command nonce (R633). -/
def Obligations.RecorderAndSignedCommandsComplete : Prop := ∀ (q : Queue) (p : Packet) (g : Sig) (a : ImageAuth) (s : State),
  (s.accepts 0x51 q p → s.evr.frozenAt = none → exec (.evrFreeze q p) s =
    .next ({ s with evr := { s.evr with frozenAt := some s.m.now, lostInFreeze := 0 } }.commit (s.m.reply q (pktId p) stOK))) ∧
  (s.accepts 0x52 q p → s.evr.frozenAt.isSome = true → exec (.evrThaw q p) s =
    .next ({ s with evr := s.evr.thaw s.m }.commit ((s.m.reply q (pktId p) stOK).evrTraffic s.evr (s.evr.thaw s.m)))) ∧
  (s.acceptsSigned 0x53 q p g → exec (.evrClear q p g) s =
    .next ({ s with evr := s.evr.clear s.m }.commit ((s.m.reply q (pktId p) stOK).renewNonce.evrTraffic s.evr (s.evr.clear s.m)))) ∧
  (s.acceptsSigned 0x59 q p g → s.m.activateStatus p a = none → exec (.fwActivate q p g a) s =
    .next (s.commit ((s.m.activate a).reply q (pktId p) stOK).renewNonce)) ∧
  (s.acceptsSigned 0x5B q p g → s.m.nv.dbgDisable = false → exec (.debugUnlock q p g) s =
    .next (s.commit (({ s.m with sec := { s.m.sec with dbgEnd := s.m.now + pkt p 16 4 * 1000000000 } }.ev 0xB020 0
      [(0, 4, pkt p 16 4), (4, 8, s.m.now + pkt p 16 4 * 1000000000)]).reply q (pktId p) stOK).renewNonce))

/-- JOB_OPEN, JOB_CLOSE, OBJ_CREATE and OBJ_FREE complete: the job enters or leaves the job table, the object the object
table, and the reply names the handle or the step (R337, R339, R548, R556). A job opens without a histogram log or with
one, by what HIST_RECORDS says. -/
def Obligations.JobAndObjectCommandsComplete : Prop := ∀ (q : Queue) (p : Packet) (s : State),
  (s.accepts 0x08 q p → s.m.job? (pktJob p) = none → s.m.jobs.length < 16 → ∀ m1 m2 h,
    m1 = { s.m with jobs := Tab.put s.m.jobs (pktJob p) (jobOfPkt p) } → m1.makeLog (pktJob p) (pkt p 44 4) = .ok (m2, h) →
    ∀ r, r = (m2.onJob (pktJob p) fun j => { j with log := h }).reading (pktJob p) 0 →
    exec (.jobOpen q p) s = .next (s.commit (r.1.power.reply q (pktId p) stOK 0 [(16, 4, h), (24, 8, r.2)]))) ∧
  (s.accepts 0x09 q p → s.m.run? (pktJob p) = none → s.m.mayClose (pktJob p) = true → exec (.jobClose q p) s =
    .next (s.commit ((((s.m.reading (pktJob p) 1).1.closeJob (pktJob p)).drive.reply q (pktId p) stOK 0
      [(16, 8, s.m.stepOf (pktJob p)), (24, 8, (s.m.reading (pktJob p) 1).2)]).settleHints))) ∧
  (s.accepts 0x10 q p → (objOfPkt p).borrowed = none → ∀ (m : Mod) (h : Nat), s.m.create (objOfPkt p) = .ok (m, h) →
    exec (.objCreate q p) s = .next (s.commit (m.reply q (pktId p) stOK 0 [(16, 4, h)]))) ∧
  (s.accepts 0x10 q p → ∀ c, (objOfPkt p).borrowed = some c → s.m.liveCores.contains c = true → ∀ (m : Mod) (h : Nat),
    s.m.create (objOfPkt p) = .ok (m, h) → exec (.objCreate q p) s = .next (s.commit (m.reply q (pktId p) stOK 0 [(16, 4, h)]))) ∧
  (s.accepts 0x11 q p → ∀ o, s.m.obj? (pkt p 16 4) = some o → (o.job = pktJob p ∨ (o.image = true ∧ o.job = 0)) →
    exec (.objFree q p) s = .next (s.commit ((s.m.freeObj (pkt p 16 4)).drive.reply q (pktId p) stOK).settleHints))

/-- OBJ_HINT, OBJ_WRITE and OBJ_READ complete: hints on the tiles named (R365); tiles, scales or a scale history moved between
host memory and the object, the traffic of each tile counted where it lives (R559, Tables 9.2, 10.17). -/
def Obligations.TransferCommandsComplete : Prop := ∀ (q : Queue) (p : Packet) (s : State),
  (s.accepts 0x12 q p → ∀ o, s.m.objOfJob (pkt p 16 4) (pktJob p) = some o → pkt p 20 4 < o.tiles → pkt p 24 4 < o.tiles →
    s.m.hintArgOk (pkt p 28 1) (pkt p 29 1) = true →
    (s.m.directed o.job = false ∨ pkt p 28 1 = 0 ∨ 3 < pkt p 28 1 ∨ o.borrowed.isSome = true) →
    exec (.objHint q p) s = .next (s.commit ((((List.range (pkt p 24 4 + 1 - pkt p 20 4)).map (· + pkt p 20 4)).foldl
      (fun m t => m.hintTile (s.m.directed o.job) o (pkt p 16 4) (pkt p 28 1) (pkt p 29 1) t)
        (s.m.markPinned q (pkt p 16 4) (pkt p 20 4) (pkt p 24 4))).reply q (pktId p) stOK 0 [(16, 4, 0)]).drive)) ∧
  (s.accepts 0x13 q p → s.m.run? (pktJob p) = none → s.m.partBad p = none → s.m.isImage (pkt p 16 4) = false →
    pkt p 20 1 = 0 → s.m.heldByAttic (pkt p 16 4) (pktTiles p) = false → ∀ m m', s.m.hostPins (pkt p 16 4) true (pktTiles p) = some m →
    m' = (pktTiles p).foldl (fun m t => m.hostTraffic (pkt p 16 4) t false) m → exec (.objWrite q p) s =
      .next (s.commit (((m'.onObj (pkt p 16 4) fun o => (pktTiles p).foldl
        (fun o t => o.loadTile s.mem (pkt p 32 8 + 1048576 * (t - pkt p 24 4)) t) o).pump.drive.reply q (pktId p) stOK).settleHints))) ∧
  (s.accepts 0x13 q p → s.m.run? (pktJob p) = none → s.m.partBad p = none → s.m.isImage (pkt p 16 4) = false →
    pkt p 20 1 = 2 → historyOk (Memory.readN s.mem (pkt p 32 8) 72) = true → exec (.objWrite q p) s =
      .next (s.commit ((s.m.onObj (pkt p 16 4) fun o => o.setHistory (Memory.readN s.mem (pkt p 32 8) 72)).reply q (pktId p) stOK))) ∧
  (s.accepts 0x14 q p → s.m.partBad p = none → ∀ o, s.m.obj? (pkt p 16 4) = some o → o.image = false → pkt p 20 1 = 0 →
    ∀ m m', s.m.hostPins (pkt p 16 4) false (pktTiles p) = some m →
      (∀ x ∈ o.poisonHere fun t => m.homeOf (pkt p 16 4) t, x / 16384 ∉ pktTiles p) →
      m' = (pktTiles p).foldl (fun m t => m.hostTraffic (pkt p 16 4) t true) m → exec (.objRead q p) s = .next (s.commit ((((pktTiles p).foldl
        (fun m t => m.hostWrite (pkt p 32 8 + 1048576 * (t - pkt p 24 4)) (o.tileBytes t)) m').pump.drive.reply q (pktId p) stOK).settleHints))) ∧
  (s.accepts 0x14 q p → s.m.partBad p = none → ∀ o, s.m.obj? (pkt p 16 4) = some o → pkt p 20 1 = 1 → exec (.objRead q p) s =
    .next (s.commit ((s.m.hostWrite (pkt p 32 8) ((pktTiles p).flatMap fun t => leBytes 4 (o.tileScale t))).reply q (pktId p) stOK)))

/-- TASK_LOAD, LAYER_SET, SCHED_SET, STEP_RUN and STEP_ABORT complete (R226, R287, R550, R554, R561): what was checked whole
is bound, or the step starts or ends. -/
def Obligations.StepCommandsComplete : Prop := ∀ (q : Queue) (p : Packet) (s : State),
  (s.accepts 0x20 q p → ∀ j, s.m.job? (pktJob p) = some j → j.run = none → j.tasks.length < 16 → ∀ m,
    s.m.loadTask (fun off n => Memory.readN s.mem (pkt p 16 8 + off) n) (pkt p 24 4) (pktJob p) j.tasks.length (bit (pkt p 28 1) 0) = .ok m →
    exec (.taskLoad q p) s = .next (s.commit (m.reply q (pktId p) stOK 0 [(16, 1, j.tasks.length)]))) ∧
  (s.accepts 0x28 q p → ∀ w, w = Memory.readN s.mem (pkt p 32 8) 128 → recordRsv w = none → ∀ m,
    s.m.layerChange (pktJob p) (pkt p 16 2) (pkt p 24 8) w (s.m.run? (pktJob p)).isNone = .ok m →
    exec (.layerSet q p) s = .next (s.commit (m.reply q (pktId p) stOK))) ∧
  (s.accepts 0x29 q p → ∀ w, w = Memory.readN s.mem (pkt p 24 8) 176 → schedOk w = true →
    ∀ old, old = Tab.get ({} : Sched) s.m.upd.scheds (pkt p 16 1) → (old.job = 0 ∨ old.job = pktJob p) → old.pend = none →
    (s.m.run? (pktJob p)).isSome = true → exec (.schedSet q p) s =
      .next (s.commit ({ s.m with upd := { s.m.upd with scheds := Tab.put s.m.upd.scheds (pkt p 16 1) { old with
        pend := some (byf w 0 4, byf w 8 8, (List.range (byf w 4 1)).map (segOf w), pktJob p) } } }.reply q (pktId p) stOK))) ∧
  (s.accepts 0x21 q p → ∀ j, s.m.job? (pktJob p) = some j → j.run = none →
    (pkt p 24 8 = 0xFFFFFFFFFFFFFFFF ∨ pkt p 24 8 = j.step) → (∀ t ∈ maskList 16 (pkt p 16 2), (Tab.find j.tasks t).isSome = true) →
    ∀ r : Run, r = {
      queue := q.val
      cmdId := pktId p
      mask := pkt p 16 2
      tasks := maskList 16 (pkt p 16 2)
      variantOf := []
      step := j.step } →
    exec (.stepRun q p) s = .next (s.commit ((s.m.onJob (pktJob p) fun j => { j with run := some r }).hold q))) ∧
  (s.accepts 0x22 q p → ∀ r, s.m.run? (pktJob p) = some r → r.verdict = none → exec (.stepAbort q p) s =
    .next (s.commit (((s.m.stopStep (pktJob p) stAborted 0).onRun (pktJob p) fun r => { r with replay := none }).reply q
      (pktId p) stOK 0 [(16, 1, 1)]))) ∧
  (s.accepts 0x22 q p → (∀ r, s.m.run? (pktJob p) = some r → r.verdict ≠ none) → exec (.stepAbort q p) s =
    .next (s.commit (s.m.reply q (pktId p) stOK 0 [(16, 1, 0)])))

/-- CKPT_WRITE and SNAPSHOT_EXPORT hold their queue; CKPT_RESTORE creates the image's objects and names their handles (R514, R557,
R558). -/
def Obligations.SavingCommandsComplete : Prop := ∀ (q : Queue) (p : Packet) (s : State) (j : Job), s.m.job? (pktJob p) = some j →
  (s.accepts 0x30 q p → j.ckpt = none → s.m.attic.readOnly = false →
    ∀ hs, hs = ((List.range (pkt p 24 4)).map fun i => Memory.readN s.mem (pkt p 16 8 + 4 * i) 4) → s.m.badHandle (pktJob p) hs = none →
    exec (.ckptWrite q p) s = .next (s.commit ((s.m.onJob (pktJob p) fun j => { j with ckpt := some (ckptOfPkt q p hs) }).hold q))) ∧
  (s.accepts 0x31 q p → j.run = none → ∀ o im m map, s.m.obj? (pkt p 16 4) = some o →
    (s.m.images.find? fun x => x.obj = pkt p 16 4 && x.durable && (x.job = 0 || x.job = pktJob p)) = some im →
    s.m.restoreImage (pktJob p) im = .ok (m, map) → bit (pkt p 20 1) 0 = false → exec (.ckptRestore q p) s =
      .next (s.commit ((m.hostWrite (pkt p 24 8) (map.flatMap fun x => leBytes 4 x.1 ++ leBytes 4 x.2)).drive.reply q (pktId p) stOK 0
        [(16, 4, map.length), (24, 8, im.step)]))) ∧
  (s.accepts 0x32 q p → j.snap = none → pkt p 20 1 = 1 → 4 * (pkt p 18 2 + 1 - pkt p 16 2) ≤ pkt p 32 8 →
    ∀ x : SnapExp, x = {
      queue := q.val
      cmdId := pktId p
      lo := pkt p 16 2
      hi := pkt p 18 2
      link := true
      vc := pkt p 21 1
      syncObj := pkt p 22 1
      syncCore := pkt p 23 1
      addr := pkt p 24 8
      len := pkt p 32 8
      dstChip := pkt p 40 4
      dstJob := pkt p 44 2
      id := s.m.ids } →
    exec (.snapshotExport q p) s =
      .next (s.commit (({ s.m with ids := s.m.ids + 1 }.onJob (pktJob p) fun j => { j with snap := some x }).hold q)))

/-- The doorbells and queue controls of a module that the host reaches complete, whatever the state of their queue, with the effect of
R531 to R533, R536 and R537: SQ_TAIL_DOORBELL takes a tail that moves forward inside the ring, and stops its queue for one that does
not; CQ_HEAD_DOORBELL takes a head inside the ring; QUEUE_ENABLE starts a stopped queue with its pointers at 0, or says CFG_ERR;
QUEUE_DISABLE stops an enabled queue, and configures one that is not. Nothing else of the module changes. -/
def Obligations.QueueControlsComplete : Prop := ∀ (q : Queue) (v : W32) (s : State), s.m.reachable = true →
  ((s.m.q! q).en = true → (s.m.q! q).halted = false → v.toNat % 4096 ≤ (s.m.q! q).size →
    (v.toNat % 4096 = (s.m.q! q).sqTail ∨
      ((s.m.q! q).sqTail + ((s.m.q! q).size + 1) - (s.m.q! q).sqHead) % ((s.m.q! q).size + 1) <
        (v.toNat % 4096 + ((s.m.q! q).size + 1) - (s.m.q! q).sqHead) % ((s.m.q! q).size + 1)) →
    exec (.sqTailDoorbell q v) s = .next (s.commit (s.m.onQ q fun x => { x with sqTail := v.toNat % 4096 }))) ∧
  ((s.m.q! q).en = true → v.toNat % 4096 ≤ (s.m.q! q).size →
    exec (.cqHeadDoorbell q v) s = .next (s.commit (s.m.onQ q fun x => { x with cqHead := v.toNat % 4096 }))) ∧
  ((s.m.q! q).en = true → (s.m.q! q).halted = false → (s.m.q! q).size < v.toNat % 4096 →
    exec (.sqTailDoorbell q v) s = .next (s.commit (s.m.queueError q 1 (v.toNat % 4096))) ∧
    exec (.cqHeadDoorbell q v) s = .next (s.commit (s.m.queueError q 1 (v.toNat % 4096)))) ∧
  ((s.m.q! q).en = true → (s.m.q! q).halted = false → v.toNat % 4096 ≤ (s.m.q! q).size → v.toNat % 4096 ≠ (s.m.q! q).sqTail →
    (v.toNat % 4096 + ((s.m.q! q).size + 1) - (s.m.q! q).sqHead) % ((s.m.q! q).size + 1) ≤
      ((s.m.q! q).sqTail + ((s.m.q! q).size + 1) - (s.m.q! q).sqHead) % ((s.m.q! q).size + 1) →
    exec (.sqTailDoorbell q v) s = .next (s.commit (s.m.queueError q 2 (v.toNat % 4096)))) ∧
  ((s.m.q! q).en = false → exec (.sqTailDoorbell q v) s = .next (s.commit s.m) ∧ exec (.cqHeadDoorbell q v) s = .next (s.commit s.m)) ∧
  (∀ x, x = s.m.q! s.m.hif.qsel → bit v.toNat 31 = true → x.en = false → x.cmd = none →
    x.sqBase % 4096 ≠ 0 ∨ x.cqBase % 4096 ≠ 0 ∨ fld v.toNat 0 12 = 0 → exec (.queueEnable v) s =
      .next (s.commit (s.m.onQ s.m.hif.qsel fun _ => { x with
        coalCount := fld v.toNat 24 7
        vector := fld v.toNat 16 8
        coalTime := fld v.toNat 12 4
        size := fld v.toNat 0 12
        cfgErr := true }))) ∧
  (bit v.toNat 31 = true → (s.m.q! s.m.hif.qsel).en = true ∨ (s.m.q! s.m.hif.qsel).cmd.isSome = true → exec (.queueEnable v) s = .next (s.commit s.m)) ∧
  (∀ x, x = s.m.q! s.m.hif.qsel → bit v.toNat 31 = false → x.en = false → x.cmd = none → exec (.queueDisable v) s =
    .next (s.commit (s.m.onQ s.m.hif.qsel fun _ => { x with
      coalCount := fld v.toNat 24 7
      vector := fld v.toNat 16 8
      coalTime := fld v.toNat 12 4
      size := fld v.toNat 0 12 }))) ∧
  (∀ x, x = s.m.q! s.m.hif.qsel → bit v.toNat 31 = true → x.en = false → x.cmd = none → x.sqBase % 4096 = 0 → x.cqBase % 4096 = 0 →
    1 ≤ fld v.toNat 0 12 → exec (.queueEnable v) s = .next (s.commit (s.m.onQ s.m.hif.qsel fun _ => { x with
      coalCount := fld v.toNat 24 7
      vector := fld v.toNat 16 8
      coalTime := fld v.toNat 12 4
      size := fld v.toNat 0 12
      en := true
      halted := false
      sqHead := 0
      sqTail := 0
      cqHead := 0
      cqTail := 0
      phase := true
      unsig := 0
      unsigFrom := 0 }))) ∧
  (bit v.toNat 31 = false → (s.m.q! s.m.hif.qsel).en = true → exec (.queueDisable v) s =
    .next (s.commit (s.m.onQ s.m.hif.qsel fun x => { x with en := false, stopping := x.cmd.isSome })))

/-- COMMAND_START fetches the entry at the head of the next queue in round-robin order that may start (R534): the head
advances modulo the size, the command is in flight. A packet with an opcode of Table 15.6 waits to act. -/
def Obligations.CommandStartFetchesInTurn : Prop := ∀ (s : State) (q : Nat), s.m.fetching = true →
  s.m.nextQueue s.mem = some q → hostOps.contains (pktOp (s.m.nextPkt s.mem q)) = true →
  exec .commandStart s = .next (s.commit ({ s.m with
    hif := { s.m.hif with rr := (q + 1) % 64 }
    orders := s.m.orders + 1 }.onQ q fun x => { x with
      sqHead := (x.sqHead + 1) % (x.size + 1)
      cmd := some { pkt := s.m.nextPkt s.mem q, order := s.m.orders + 1 } }))

/-- Failed DMA, coalesced interrupts, PCI Express events and FLR (R530, R538, R562, R617): each records its event or signals its
vector, and changes nothing else that its rule does not name. -/
def Obligations.PciEventsComplete : Prop := ∀ (q : Queue) (addr : W64) (kind : DmaError) (st : W32) (s : State), s.m.reachable = true →
  (s.m.fetching = true → s.m.nextQueue s.mem = some q.val → exec (.hostDmaError q true addr kind) s =
    .next (s.commit (s.m.queueError q 3 (s.m.q! q).sqTail))) ∧
  (∀ c m, (s.m.q! q).cmd = some c → c.acting = false → s.m.readsHost c.pkt = true →
    m = s.m.ev 0x9002 0 [(0, 1, q.val), (1, 1, pktOp c.pkt), (2, 8, addr.toNat), (10, 1, dmaCode kind)] →
    exec (.hostDmaError q false addr kind) s =
      .next (s.commit ((if pktSigned c.pkt then m.renewNonce else m).reply q (pktId c.pkt) stHostAccess))) ∧
  ((s.m.q! q).unsig ≠ 0 → (s.m.q! q).unsigFrom + 1000 * (s.m.q! q).coalTime ≤ s.m.now → exec (.interruptCoalesceTimeout q) s =
    .next (s.commit ({ s.m.onQ q fun x => { x with unsig := 0 } with hif := { (s.m.onQ q fun x => { x with unsig := 0 }).hif with
      msix := (s.m.q! q).vector :: (s.m.onQ q fun x => { x with unsig := 0 }).hif.msix } }))) ∧
  (exec (.pcieAerError true st) s =
    .next (s.commit ({ s.m with hif := { s.m.hif with aer := st.toNat :: s.m.hif.aer } }.ev 0x9003 1 [(0, 4, st.toNat)]))) ∧
  (exec (.pcieAerError false st) s =
    .next (s.commit ({ s.m with hif := { s.m.hif with aer := st.toNat :: s.m.hif.aer } }.ev 0x9004 0 [(0, 4, st.toNat)]))) ∧
  (∀ w r, (Instr.pcieDegraded w r).wellFormed = true → exec (.pcieDegraded w r) s =
    .next (s.commit ({ s.m with hif := { s.m.hif with width := w, rate := r } }.ev 0x9005 0 [(0, 1, w), (1, 2, r)]))) ∧
  (exec (.ideError st) s = .next (s.commit (s.m.ev 0x9006 0 [(0, 4, st.toNat)]))) ∧
  (exec .flr s = .next (s.commit s.m.flr) ∧ (s.commit s.m.flr).m.hif.q = [] ∧ (s.commit s.m.flr).m.sec.dbgEnd = 0 ∧
    (s.commit s.m.flr).m.tb.joins = [] ∧ (s.commit s.m.flr).m.hif.qsel = 0)

/-- The debug aperture reads zero while debug is locked and takes no write (R529); the counter controls clear, freeze or run a
block's counters (R99, Table 2.14). Unlocked, an access goes through the aperture. -/
def Obligations.ApertureAndCountersComplete : Prop := ∀ (off : W32) (size : Nat) (v : Nat) (b : CntBlk) (f : Bool) (s : State),
  s.m.reachable = true →
  (s.m.dbgOpen = true → exec (.debugApertureAccess off size (some v)) s = .next (s.commit
    ((sectorPieces (size + 1) (s.m.hif.dbgBase * 2 ^ 32 + off.toNat) size).foldl (fun m p =>
      m.apertureWrite p.1 p.2 (v / 2 ^ (8 * (p.1 - (s.m.hif.dbgBase * 2 ^ 32 + off.toNat))))) s.m))) ∧
  (s.m.dbgOpen = false → exec (.debugApertureAccess off size (some v)) s = .next (s.commit s.m) ∧
    exec (.debugApertureAccess off size none) s =
      .next (s.commit { s.m with hif := { s.m.hif with aperture := some 0 :: s.m.hif.aperture } })) ∧
  exec (.cntClear b f) s = .next (s.commit (s.m.cntCtrl b true f)) ∧
  exec (.cntFreeze b f) s = .next (s.commit (s.m.cntCtrl b false f)) ∧
  (∀ off n, (Cnt.get ((s.m.pwr.cnt.add off n).ctrl true f) off) = 0 ∧ (s.m.pwr.cnt.freeze = true → s.m.pwr.cnt.add off n = s.m.pwr.cnt))

/-- The register rows complete (R202, R299, R307, R330, R640, R670): what each write or read changes, with everything else of the
module as it was. -/
def Obligations.RegisterRowsComplete : Prop := ∀ (v : W32) (s : State), s.m.reachable = true →
  (fld v.toNat 16 2 ≠ 3 → exec (.histogramSnapshotSelect v) s = .next (s.commit { s.m with num := { s.m.num with
    hselBank := fld v.toNat 20 1
    hselClass := fld v.toNat 16 2
    hselLayer := fld v.toNat 0 14
    busy := true
    snapValid := false
    next := s.m.histWin (decide (fld v.toNat 20 1 = 0)) (fld v.toNat 0 14) (fld v.toNat 16 2) } })) ∧
  (s.m.num.busy = true → exec .histogramSnapshotDone s = .next (s.commit { s.m with num := { s.m.num with
    busy := false
    snap := s.m.num.next
    snapValid := s.m.num.hselBank = 0 || s.m.num.next.closed } })) ∧
  (s.m.jobs = [] → exec (.celGangWrite v) s = .next (s.commit { s.m with cel := { s.m.cel with
    gang := [fld v.toNat 0 2, fld v.toNat 2 2, fld v.toNat 4 2, fld v.toNat 6 2] } })) ∧
  (∀ c : Fin 5, s.m.cel.bcast = false → exec (.celRegWrite c v) s =
    .next (s.commit (s.m.onStack s.m.cel.stackSel fun x => x.writeReg c (fld v.toNat 0 9) (fld v.toNat 16 10)))) ∧
  (∀ (st : Stack) (c : Fin 5) rb, Tab.find (s.m.stack! st).pendReg c = some rb → exec (.regulatorChangeEffect st c) s =
    .next (s.commit (s.m.onStack st fun x => { x with
      pendReg := Tab.del x.pendReg c
      inForceRate := x.inForceRate.set c rb.1
      inForceBurst := x.inForceBurst.set c rb.2
      tokens := x.tokens.set c (min (x.tokens.getD c 0) (5120 * rb.2)) }))) ∧
  (∀ c : Core, (s.m.core! c).fenced = false →
    fld v.toNat 0 6 + fld v.toNat 8 6 + fld v.toNat 16 6 + fld v.toNat 24 6 ≤ 32 → exec (.panFloorWrite c v) s =
    .next (s.commit (s.m.onCore c fun x => { x with pan := { x.pan with
      floors := [fld v.toNat 0 6, fld v.toNat 8 6, fld v.toNat 16 6, fld v.toNat 24 6] } }))) ∧
  (bit v.toNat 0 = true → s.m.dbgOpen = true → exec (.debugLockWrite v) s = .next (s.commit
    ({ s.m with sec := { s.m.sec with dbgEnd := 0 } }.ev 0xB021 0 [(0, 1, 2), (1, 8, s.m.now)]))) ∧
  (∀ f, s.m.met.held = some f → exec .metEnergyRead s = .next (s.commit { s.m with met := { s.m.met with
    latFrame := f.frame.toNat
    latTb := s.m.met.heldAt
    latPower := f.power } }))

/-- A register write completes where it keeps R14 (R10): a doorbell of BAR2, EVR_STATUS's W1C bit, or the register at the offset.
A write that breaks R14 is the one stop of the model. -/
def Obligations.RegisterWriteCompletes : Prop := ∀ (off : W32) (wide : Bool) (v : W64) (s : State),
  (∀ bar2, s.accessOk bar2 off.toNat wide = false → exec (.registerWrite bar2 off wide v) s = .fault .brokenAccess) ∧
  (s.m.reachable = true →
    (s.accessOk true off.toNat wide = true → exec (.registerWrite true off wide v) s =
      .next (s.commit (s.m.writeBell off.toNat (v.toNat % 2 ^ 32)))) ∧
    (s.accessOk false off.toNat wide = true → off.toNat ≠ 0x40000 → exec (.registerWrite false off wide v) s =
      .next (s.commit (s.m.writeReg off.toNat v.toNat))) ∧
    (s.accessOk false 0x40000 wide = true → off.toNat = 0x40000 → exec (.registerWrite false off wide v) s =
      .next { s with evr := { s.evr with stgOvf := s.evr.stgOvf && !bit v.toNat 30 } }))

/-- Every descriptor of Table 1.9 issues: once its slot is due (R41, R45 to R48), the head leaves its slot, is in flight, has
its opcode's effect at issue, and the core's waiters are evaluated. A vector descriptor whose tiles are there and which is the
oldest of its engine does its work at once (R251, R351). -/
def Obligations.DescriptorsIssue : Prop := ∀ (c : Core) (k : Slot) (s : State) (sl : SlotSt) (d : Nat) (m : Mod),
  (s.issues c k opArrPass sl d m → exec (.arrPass c k) s =
    .next (s.commit (((s.taken c k sl d m).issuePass c s.m.ids sl d).settle c))) ∧
  (s.issues c k opArrLoad sl d m → exec (.arrLoad c k) s =
    .next (s.commit (((s.taken c k sl d m).issueLoad c s.m.ids sl d).settle c))) ∧
  (s.issues c k opVecStream sl d m → exec (.vecStream c k) s =
    .next (s.commit (((s.taken c k sl d m).issueVec c s.m.ids).settle c))) ∧
  (s.issues c k opVecReduce sl d m → exec (.vecReduce c k) s =
    .next (s.commit (((s.taken c k sl d m).issueVec c s.m.ids).settle c))) ∧
  (∀ f, (s.taken c k sl d m).infl? c s.m.ids = some f → f.d = d → (s.taken c k sl d m).mayWork c f = true →
    (s.issues c k opVecStream sl d m → exec (.vecStream c k) s = .next (s.commit ((((s.taken c k sl d m).onInfl c f.id
      fun f => { f with worked := true }).runVec c f.task f.job d false).settle c))) ∧
    (s.issues c k opVecReduce sl d m → exec (.vecReduce c k) s = .next (s.commit ((((s.taken c k sl d m).onInfl c f.id
      fun f => { f with worked := true }).runVec c f.task f.job d true).settle c)))) ∧
  (s.issues c k opMove sl d m → exec (.move c k) s =
    .next (s.commit (((s.taken c k sl d m).issueMove c sl d).settle c))) ∧
  (s.issues c k opPrefetch sl d m → exec (.prefetch c k) s =
    .next (s.commit (((s.taken c k sl d m).issuePrefetch c s.m.ids sl d).settle c))) ∧
  (s.issues c k opSyncWait sl d m → exec (.syncWait c k) s =
    .next (s.commit (((s.taken c k sl d m).issueWait c k s.m.ids d).settle c))) ∧
  (s.issues c k opSyncSignal sl d m → exec (.syncSignal c k) s =
    .next (s.commit (((s.taken c k sl d m).issueSignal c s.m.ids d).settle c))) ∧
  (s.issues c k opBarrier sl d m → exec (.barrier c k) s =
    .next (s.commit (((s.taken c k sl d m).issueBarrier c s.m.ids sl d).settle c))) ∧
  (s.issues c k opColl sl d m → exec (.coll c k) s =
    .next (s.commit (((s.taken c k sl d m).issueColl c s.m.ids sl d).settle c))) ∧
  (s.issues c k opUpdLayer sl d m → exec (.updLayer c k) s =
    .next (s.commit (((s.taken c k sl d m).issueUpd c s.m.ids sl d).settle c))) ∧
  (s.issues c k opRootRefresh sl d m → exec (.rootRefresh c k) s =
    .next (s.commit (((s.taken c k sl d m).issueRefresh c s.m.ids d).settle c))) ∧
  (s.issues c k opHistMark sl d m → exec (.histMark c k) s =
    .next (s.commit (((s.taken c k sl d m).issueHist c s.m.ids sl d).settle c))) ∧
  (s.issues c k opEnd sl d m → exec (.endList c k) s =
    .next (s.commit (((s.taken c k sl d m).issueEnd c k s.m.ids sl).settle c)))

/-- PHASE_DISPATCH (R30 to R32): the next phase is dispatched when nothing of the phase before is left; PH_UPD waits for a finite
verdict and for every ROOT_REFRESH of the job. The first dispatch of a step waits for the module's work at step boundaries
(R119, R120, R596), that of a later attempt does not. LOOKAHEAD (R50, R51) asks for the tiles that the next descriptors
read. -/
def Obligations.DispatchCompletes : Prop := ∀ (job : JobId) (c : Core) (k : Slot) (s : State),
  (∀ j r, s.m.job? job.toNat = some j → j.run = some r → s.m.serving = true → r.halted = false → r.replay = none →
    r.verdict ≠ some false → j.halted = false →
    (r.dispatched = true → r.phase < 3 → s.m.phaseLeft job.toNat r.phase = false →
      exec (.phaseDispatch job) s = .next (s.commit (s.m.dispatchPhase job.toNat (r.phase + 1)))) ∧
    (r.dispatched = true → r.phase = 3 → s.m.phaseLeft job.toNat 3 = false → r.verdict = some true →
      s.m.refreshLeft job.toNat = false →
      exec (.phaseDispatch job) s = .next (s.commit (s.m.dispatchPhase job.toNat 4))) ∧
    (r.dispatched = false → ∀ vs, s.m.variants j r r.tasks [] = .ok vs → ∀ m, m = (s.m.onRun job.toNat fun r => { r with variantOf := vs }) →
      (r.started = false → s.m.moduleWaits = false → j.captureWaits = false → exec (.phaseDispatch job) s =
        .next (s.commit ((m.beginStep job.toNat).dispatchPhase job.toNat r.phase))) ∧
      (r.started = true → exec (.phaseDispatch job) s =
        .next (s.commit ((if r.phase = 0 then m.resumeBars job.toNat else m).dispatchPhase job.toNat r.phase))))) ∧
  (∀ sl h t, Tab.find (s.m.core! c).slots k = some sl → sl.rest = h :: t → sl.blocked = none → sl.stopped = false →
    s.m.halted sl.l.job = false → (s.m.core! c).fenced = false → dNoLook h = false → sl.waitDone = true →
    ∀ m, m = (if dOp h = opArrLoad then s.m.tagLoad c 0 sl.l.job h else s.m) → exec (.lookahead c k) s = .next (s.commit
      ((sortTiles (Mod.readsAhead c sl.l.task sl.l.job m (s.m.aheadOf c (t.take 8))).eraseDups).foldl (fun m p =>
        m.request (tileReq p.1 p.2 c 5 c sl.l.job)) s.m)))

/-- The engines' own events complete: a load or pass begins, on every array that it names, and its engine does the work once every
tile that it pins is there; a DRAIN_ONLY pass waits for no tile; a descriptor retires; a signal between cores acts (R43, R68, R80, R83, R351,
R396). -/
def Obligations.EngineEventsComplete : Prop := ∀ (c : Core) (a : Arr) (s : State),
  (∀ id f, (s.m.arr! c a).loads.head? = some id → s.m.infl? c id = some f →
    (∀ i ∈ loadArrays f.d, (s.m.arr! c i).loads.head? = some f.id ∧ s.m.setFree c i f = true ∧ s.m.pathFree c i f = true ∧
      s.m.arrayOpen c i f = true) → s.m.firstTile f = true → exec (.arrLoadBegin c a) s =
      .next (s.commit (((loadArrays f.d).foldl (fun m i => m.fillHalf c i) (((loadArrays f.d).foldl (fun m i => m.onArr c i fun x => { x with
        loads := x.loads.drop 1
        loadSet := f.setOn i }) s.m).onInfl c f.id fun f => { f with began := true })).engineStep c f.id))) ∧
  (∀ id f, (s.m.arr! c a).q.head? = some id → s.m.infl? c id = some f → s.m.arrayOpen c a f = true →
    s.m.tokensOut c a f = true →
    ((passOp f.d).drain = false → (s.m.arr! c a).runOut = none → f.load ∉ (s.m.arr! c a).loads → s.m.firstTile f = true → exec (.arrPassStage0 c a) s =
      .next (s.commit (((s.m.onArr c a fun x => { x with q := x.q.drop 1, injSet := f.set }).onInfl c f.id fun f =>
        { f with began := true }).engineStep c f.id))) ∧
    ((passOp f.d).drain = true → exec (.arrPassStage0 c a) s =
      .next (s.commit (((s.m.onArr c a fun x => { x with q := x.q.drop 1 }).onInfl c f.id fun f =>
        { f with began := true }).engineStep c f.id)))) ∧
  (∀ (m : Mod) id f, m.infl? c id = some f → m.mayWork c f = true → ∀ m', m' = (m.onInfl c f.id fun f => { f with worked := true }) →
    (dOp f.d = opArrLoad → m.engineStep c id = m'.fillSets c f) ∧
    (dOp f.d = opArrPass → m.engineStep c id = (m'.runPass c f.job f.d
      (((m'.arr! c ((passOp f.d).array % 2)).sets).getD f.set {}) f.cols).residueCheck c f)) ∧
  (∀ id st f, s.m.infl? c id = some f → s.m.mayRetire c f = true → exec (.descriptorRetire c id st) s =
    .next (s.commit ((((s.m.retireWork c f st).panCnt c 0x38 st.panDefer).retire c id true).drive))) ∧
  (∀ (dst : Core) (obj : Fin 48) r, ((s.m.core! c).remote.find? fun r => r.1 = dst.val && r.2.1 = obj.val) = some r →
    ∀ m, m = (s.m.onCore c fun x => { x with remote := x.remote.erase r }) → (m.core! dst).fenced = false →
    exec (.remoteSignalAct c dst obj) s =
      .next (s.commit ((((m.signal dst obj r.2.2.1 r.2.2.2.1).retireCore c r.2.2.2.2 true).settle dst).settle c)))

/-- Waits and barriers end: a SYNC_WAIT that times out with ACT retires without signals and signals TO, without ACT ends the step (R399
to R401); a core barrier releases; a barrier or collective whose deadline has come ends as R411 and R501 state. -/
def Obligations.TimeoutsComplete : Prop := ∀ (c : Core) (s : State),
  (∀ (k : Slot) sl id f, Tab.find (s.m.core! c).slots k = some sl → sl.blocked = some id → s.m.infl? c id = some f →
    dOp f.d = opSyncWait → f.overdue s.m.now = true →
    ((waitOp f.d).act = true → (waitOp f.d).toEn = false → exec (.syncWaitTimeout c k) s =
      .next (s.commit (((s.m.synCnt c 0x20 1).retireCore c f.id false).settle c))) ∧
    ((waitOp f.d).act = true → (waitOp f.d).toEn = true → exec (.syncWaitTimeout c k) s =
      .next (s.commit ((((s.m.synCnt c 0x20 1).retireCore c f.id false).signal c (waitOp f.d).toId false 1).settle c))) ∧
    ((waitOp f.d).act = false → ∀ m m', m = s.m.synCnt c 0x20 1 →
      m' = m.ev 0x6010 0 [(0, 1, c.val), (1, 1, (waitOp f.d).obj), (2, 2, f.job), (4, 4, dSeq f.d), (8, 8, m.stepOf f.job),
        (16, 4, (m.sync! c (waitOp f.d).obj).value)] → exec (.syncWaitTimeout c k) s = .next (s.commit
      (((m'.onSlot c k fun s => { s with stopped := true }).stopStep f.job stSyncTimeout 0).retire c f.id false)))) ∧
  (∀ (b : Fin 8) ps pay first last count ep rest, (s.m.bar! c b).releasable = (ps, pay, first, last, count, ep) :: rest →
    s.m.tooLate ps = none → ∀ m, m = ((s.m.onBar c b fun b => { b with releasable := rest }).synCnt c 0x30 1) →
    exec (.coreBarrierRelease c b) s = .next (s.commit (m.releaseParties ps pay first last m.lnk.chip count ep))) ∧
  (∀ id f, s.m.infl? c id = some f → dOp f.d = opBarrier → f.overdue s.m.now = true → exec (.barrierTimeout c id) s =
    .next (s.commit (s.m.failBarrier (barOp f.d).scope c (barOp f.d).bar (c.val, id)))) ∧
  (∀ (job : JobId) (coll : BitVec 16) x id f, s.m.ctx? (ctxKey job.toNat coll.toNat) = some x → x.local_ = some id →
    s.m.infl? x.core id = some f → f.overdue s.m.now = true → exec (.collTimeout job coll) s =
    .next (s.commit (s.m.endColl (ctxKey job.toNat coll.toNat) 0x8020 stCollTimeout 0)))

/-- A contained fault of a powered core (R589, R590): its record is emitted and the core is contained; a corrected one is only
recorded. Each row carries the payload of its event table. -/
def Obligations.CoreFaultsContain : Prop := ∀ (c : Core) (a : Arr) (s : State), s.m.powered c = true →
  (∀ (row : Fin 2048) (col : Fin 1024), ∀ pay, pay = [(0, 1, c.val), (1, 1, a.val), (2, 2, row.val), (4, 2, col.val)] →
    exec (.sumpEccError c a row col true) s = .next (s.commit (s.m.ev 0x1010 1 pay)) ∧
    exec (.sumpEccError c a row col false) s = .next (s.commit ((s.m.ev 0x1011 2 pay).containCore c 0x1011))) ∧
  (∀ (row : Fin 1024) (slot : W32), exec (.chuteParity c a row slot) s = .next (s.commit ((s.m.ev 0x1012 2
    [(0, 1, c.val), (1, 1, a.val), (2, 2, row.val), (4, 4, slot.toNat)]).containCore c 0x1012))) ∧
  (∀ st band id f, s.m.infl? c id = some f → id ∈ (if st then (s.m.arr! c a).statHalf else (s.m.arr! c a).moveHalf) →
    exec (.xposeParity c a st band id) s = .next (s.commit ((s.m.ev 0x1013 2
    [(0, 1, c.val), (1, 1, a.val), (2, 1, b2n st), (3, 1, band.val), (4, 2, f.job), (6, 4, dSeq f.d)]).containCore c 0x1013))) ∧
  (∀ (st : Fin 8) f, s.m.vecRuns c = some f →
    exec (.vecLaneParity c st) s = .next (s.commit ((s.m.ev 0x1201 2
      [(0, 1, c.val), (1, 1, st.val), (2, 2, f.job), (4, 4, dSeq f.d)]).containCore c 0x1201))) ∧
  (∀ (r : Byte) (job : JobId), ((s.m.core! c).recipes.any fun x => x.job = job.toNat && x.idx = r.toNat) = true →
    exec (.vecRecipeParity c r job) s = .next (s.commit ((s.m.ev 0x1202 2
      [(0, 1, c.val), (1, 1, r.toNat), (2, 2, job.toNat)]).containCore c 0x1202))) ∧
  (∀ (bank : Fin 64) (w : W32), ∀ pay, pay = [(0, 1, c.val), (1, 1, bank.val), (2, 4, w.toNat)] →
    exec (.panEccError c bank w true) s = .next (s.commit ((s.m.panCnt c 0x40 1).ev 0x4801 1 pay)) ∧
    exec (.panEccError c bank w false) s = .next (s.commit (((s.m.badWord c bank w.toNat).ev 0x4802 2 pay).containCore c 0x4802))) ∧
  (∀ obj : Fin 64, obj.val < 48 → exec (.synParity ⟨c.val, by omega⟩ obj) s = .next (s.commit ((s.m.ev 0x6040 2
    [(0, 1, c.val), (1, 1, obj.val), (2, 2, (s.m.sync! c obj).job)]).containCore c 0x6040)))

/-- The residue check, replay, update units and repair (R114, R115, R119, R121, R280): what each of their events does. -/
def Obligations.ArrayAndUnitEventsComplete : Prop := ∀ (c : Core) (a : Arr) (s : State),
  (∀ (g : Fin 32) (ph : Fin 1040) id f m, ((s.m.begunPasses c a).find? fun f => f.id = id) = some f → s.m.powered c = true →
    (s.m.arr! c a).pend.length < 16 → ∀ pay, pay = [(0, 1, c.val), (1, 1, a.val), (2, 2, f.job), (4, 4, dSeq f.d), (8, 1, g.val),
      (9, 1, f.replays), (10, 2, ph.val)] → m = (((s.m.arrCnt c a 0x108 1).ev 0x1101 1 pay).onArr c a fun x =>
        { x with pend := x.pend ++ [(g.val, ph.val)] }) →
    ((∀ p, (s.m.arr! c a).runOut = some p → id < p) → f.replays < 2 → exec (.residueMismatch c a ⟨id, g⟩ ph) s =
      .next (s.commit (m.onArr c a fun x => { x with runOut := some id }))) ∧
    ((∀ p, (s.m.arr! c a).runOut = some p → id < p) → 2 ≤ f.replays → exec (.residueMismatch c a ⟨id, g⟩ ph) s =
      .next (s.commit (m.coreFault c 0x1102 pay))) ∧
    (∀ p, (s.m.arr! c a).runOut = some p → p ≤ id → exec (.residueMismatch c a ⟨id, g⟩ ph) s = .next (s.commit m))) ∧
  (∀ p fs m, (s.m.arr! c a).runOut = some p → fs = ((s.m.begunPasses c a).filter fun f => decide (p ≤ f.id)) →
    m = (s.m.onCore c fun x => { x with
      infl := x.infl.map fun (f : Infl) => if (fs.map fun (f : Infl) => f.id).contains f.id then { f with replays := f.replays + 1 } else f }) → exec (.passReplay c a) s =
    .next (s.commit (fs.foldl (fun m f => m.slotsReleased c f) ((m.onArr c a fun x => { x with
      runOut := none
      replays := fs.map (·.id) }).arrCnt c a 0x110 (fs.map (·.id)).length)).drive)) ∧
  (∀ (u : UnitId) id l t m, (s.m.unit! u).q = (id, l) :: t → m = ({ s.m with free := s.m.free + 1 }.onUnit u fun x => { x with
      resuming := true
      next := s.m.nextBlock l u
      staged := s.m.stagedValues l ((s.m.blocksLeft l u).take stageBlocks) }).ev 0x3031 2 [(0, 1, u.val), (1, 2, l), (4, 8, s.m.nextBlock l u)] →
    exec (.updUnitFault u) s = .next (s.commit (match m.run? (s.m.layer! l).job with
      | some r => if 8 ≤ r.attempt ∧ r.halted = false ∧ r.verdict ≠ some false then m.fatalFail 5 (u.val / 8) else m
      | none => m))) ∧
  (∀ (u : UnitId) (w : W32), s.m.alive = true → w.toNat < blockWords + stageWords → exec (.updBufferEccError u w true) s =
    .next (s.commit (s.m.ev 0x3030 1 [(0, 1, u.val), (2, 4, w.toNat)]))) ∧
  (∀ (u : UnitId) (w : W32) id l t, (s.m.unit! u).q = (id, l) :: t → (s.m.unit! u).staged ≠ [] → w.toNat < blockWords + stageWords →
    exec (.updBufferEccError u w false) s = .next (s.commit (({ s.m with free := s.m.free + 1 }.ev 0x3032 3
      [(0, 1, u.val), (1, 2, l), (4, 8, s.m.nextBlock l u)]).fatalFail 4 (u.val / 8)))) ∧
  (s.m.powered c = true → (s.m.arr! c a).pend ≠ [] → (s.m.arr! c a).testing = false → s.m.allAtBoundary = true → s.m.arraysIdle c = true →
    exec (.localisationTest c a) s = .next (s.commit (s.m.onArr c a fun x => { x with testing := true }))) ∧
  (∀ e t, (s.m.arr! c a).testing = true → (s.m.arr! c a).pend = e :: t → exec (.localisationTestDone c a .nothing) s =
    .next (s.commit ((s.m.onArr c a fun x => { x with testing := false, pend := x.pend.drop 1 }).ev 0x1110 0
      [(0, 1, c.val), (1, 1, a.val), (2, 1, 2)])))

/-- A localisation that reports a row counts one mismatch more for it; the fourth repairs it (R121, R122). -/
def Obligations.FourthMismatchRepairs : Prop := ∀ (c : Core) (a : Arr) (r : Fin 1040) (s : State) e t m,
  (s.m.arr! c a).testing = true → (s.m.arr! c a).pend = e :: t →
  m = (s.m.onArr c a fun x => { x with testing := false, pend := x.pend.drop 1 }) →
  ∀ n m', n = Tab.get 0 s.m.nv.mismatch (countKey c a false r) + 1 →
    m' = { m with nv := { m.nv with mismatch := Tab.set 0 m.nv.mismatch (countKey c a false r) n } }.ev 0x1110 0
      [(0, 1, c.val), (1, 1, a.val), (2, 1, 0), (3, 2, r.val), (5, 1, n)] →
    exec (.localisationTestDone c a (.row r)) s = .next (s.commit (if n = 4 then
      (m'.ev 0x1120 0 [(0, 1, c.val), (1, 1, a.val), (2, 1, 0), (3, 2, r.val)]).repair c a false r else m'))

/-- Step ends, deferred fences and unfences, captures and exports take effect at the boundary that their rules name (R52, R119,
R514, R519, R550, R557, R596, R597). -/
def Obligations.BoundaryEventsComplete : Prop := ∀ (job : JobId) (c : Core) (s : State),
  (∀ r st d m, s.m.run? job.toNat = some r → m = s.m.endWaits job.toNat → m.stepOver job.toNat r = some (st, d) → exec (.stepEnd job) s =
    .next (s.commit ((m.finishStep job.toNat st d r).closeIfDue job.toNat))) ∧
  (∀ r, s.m.run? job.toNat = some r → ((∀ c ∈ r.causes, c.2.1 ≠ stAborted) → s.m.endWaits job.toNat = s.m) ∧
    ((∃ c ∈ r.causes, c.2.1 = stAborted) → (∀ c ∈ cores, ∀ f ∈ (s.m.core! c).inflOf job.toNat, f.endless = true) →
      s.m.endWaits job.toNat = s.m.abandonWaiting job.toNat)) ∧
  (∀ d, (s.m.deferFence.find? fun d => d.1 = c.val) = some d → (s.m.core! c).fencing = none → (s.m.core! c).fenced = false →
    1 < s.m.liveCores.length → s.m.allAtBoundary = true → exec (.deferredCoreFence c) s = .next (s.commit (s.m.startFence c 1 0))) ∧
  (∀ d (f : Option (Fin 64)), (s.m.deferUnfence.find? fun d => d.1 = c.val) = some d → s.m.allAtBoundary = true → (s.m.core! c).fenced = true →
    s.m.exhausted c = false → exec (.deferredCoreUnfence c f) s =
      .next (s.commit (({ s.m with deferUnfence := s.m.deferUnfence.erase d }.unfence c (f.map fun (x : Fin 64) => x.val)).replyLate d.2.1 d.2.2 stOK))) ∧
  (∀ j k h, s.m.job? job.toNat = some j → j.ckpt = some k → k.image = some h →
    (∀ x ∈ s.m.images, x.obj = h → x.record ≤ s.m.attic.onNand) → exec (.ckptDurable job) s =
    .next (s.commit ((({ s.m with images := s.m.images.map fun (x : Image) => if x.obj = h then { x with durable := true } else x }.onJob
      job.toNat fun j => { j with ckpt := none }).reply k.queue k.cmdId stOK 0 [(16, 4, h), (24, 8, k.step)]).closeIfDue job.toNat))) ∧
  (∀ j x, s.m.job? job.toNat = some j → j.snap = some x → x.captured = none → s.m.atBoundary job.toNat = true → exec (.snapshotCapture job) s =
    .next (s.commit (s.m.onJob job.toNat fun j => { j with snap := some { x with
      captured := some j.step
      unread := s.m.snapLayers job.toNat x.lo x.hi } }))) ∧
  (∀ j x st, s.m.job? job.toNat = some j → j.snap = some x → x.captured = some st → x.unread = [] → x.link = false →
    exec (.snapshotDone job) s = .next (s.commit (s.m.finishSnap job.toNat x st)))

/-- CKPT_CAPTURE at the step boundary (R369, R557): the image object is created in the Attic and the image holds the objects, layers,
schedules and the step of that instant; its map changes are in the journal up to the record that it names (R371). -/
def Obligations.CkptCaptureCompletes : Prop := ∀ (job : JobId) (s : State) j k (objs : List (Nat × Obj)) tiles (m : Mod) h p,
  s.m.job? job.toNat = some j → j.ckpt = some k → k.image = none → s.m.atBoundary job.toNat = true → s.m.attic.readOnly = false →
  s.m.badHandle job.toNat k.handles = none → objs = (k.handles.filterMap fun h => (s.m.obj? h).map fun o => (h, o)) →
  tiles = max 1 (objs.foldl (fun a x => a + x.2.tiles) 0) →
  s.m.addObj ({ job := job.toNat, fmt := 8, rows := 1024 * tiles, cols := 1024, image := true, copies := imagePoison objs } : Obj) = some (m, h) →
  m.placeImage h tiles = some p → ∀ x, x = (objs.foldl (fun m x => m.readTiles x.1 x.2.allTiles) p).atcCnt 0x30 (1048576 * tiles) →
  exec (.ckptCapture job) s = .next (s.commit ({ x with images := x.images ++ [({
    obj := h
    job := job.toNat
    step := j.step
    objs := objs
    layers := x.layersIn job.toNat k.lo k.hi
    scheds := x.schedsIn job.toNat k.schedMask
    record := x.attic.appended } : Image)] }.onJob job.toNat fun j => { j with ckpt := some { k with image := some h, step := j.step } }))

/-- The end of a fence and of an attempt, and the fatal causes (R591, R599, R608): REPLAY_BEGIN begins the next attempt and sends its
notice; a fabric failure, a watchdog or an uncorrectable control-processor word fails the module. That the record of a fabric
failure names the lower die is the model's choice (log entry 84). -/
def Obligations.FenceReplayAndFatalComplete : Prop := ∀ (c : Core) (job : JobId) (a b : Die) (s : State),
  (∀ k code bad, (s.m.core! c).fencing = some (k, code) → exec (.fenceEvacuationDone c bad) s =
    .next (s.commit ((s.m.finishFence s.evr.opsec c k code bad).drive))) ∧
  (∀ j r q vs, s.m.job? job.toNat = some j → j.run = some r → r.replay = some q → q.attempt = 0 → s.m.inflLive job.toNat = false →
    (∀ c ∈ cores, (s.m.core! c).fencing ≠ none → j.taskBinds r c = false) → s.m.variants j r r.tasks [] = .ok vs → ∀ m, m = s.m.beginAttempt job.toNat q vs →
    exec (.replayBegin job) s = .next (s.commit ((m.ev 0xD010 0 [(0, 2, job.toNat), (2, 8, r.step), (10, 1, m.attemptOf job.toNat),
      (11, 1, q.point), (12, 2, q.code)]).sendNotice job.toNat 1 q.point (m.attemptOf job.toNat) 0).power)) ∧
  (s.m.phase ≠ .off → (a ≠ b → exec (.fabricReplayFailure a b) s = .next (s.commit (s.m.fatalFail 1 (min a.val b.val)))) ∧
    exec (.watchdogExpiry a) s = .next (s.commit (s.m.fatalFail 2 a)) ∧
    exec (.cpMemoryUncorrectable a) s = .next (s.commit (s.m.fatalFail 7 a)))

/-- The residency engine's events (R353 to R363): a move commits, the new place of the tile standing for the old, and what waited for it
goes on; the source is given back; the policy asks for a move; a tile fault that waited more than 100 ms ends its step. -/
def Obligations.ResidencyEventsComplete : Prop := ∀ (obj : BitVec 16) (tile : W32) (dest : Byte) (s : State),
  (∀ v e m, (s.m.res.moves.find? fun v => handleIdx v.req.obj = obj.toNat && decide (v.tile0 ≤ tile.toNat ∧ tile.toNat < v.tile0 + v.n)) =
      some v → exec (.moveCommit obj tile) s = .next (s.commit (s.m.commitMove v).settleHints.drive) ∧
    ((s.m.extsOf v.req.obj v.tile0).head? = some e → s.m.isImage v.req.obj = false → e.home ≠ homeAttic → s.m.leaving v.home = false →
      m = ({ s.m with res := { s.m.res with moves := s.m.res.moves.filter (· != v) } }.cutExt v.req.obj e.home v.tile0 v.n) →
      ∀ x, x = ({ m with res := { m.res with
        releasing := m.res.releasing ++ [{ e with tile := v.tile0, n := v.n, frame := e.frame + (v.tile0 - e.tile) }] } }.land v) →
      s.m.commitMove v = (((((x.1.addExt { obj := v.req.obj, tile := v.tile0, n := v.n, home := v.home, frame := x.2 }).resCnt 0x28 1).resCnt
        0x40 (1048576 * v.n)).tileTraffic e.home v.req.cls (1048576 * v.n) true).tileTraffic v.home v.req.cls (1048576 * v.n) false).pump)) ∧
  (∀ e, (s.m.res.releasing.find? fun e => handleIdx e.obj = obj.toNat && decide (e.tile ≤ tile.toNat ∧ tile.toNat < e.tile + e.n)) = some e →
    exec (.sourceFrameRelease obj tile) s = .next (s.commit { s.m with res := { s.m.res with releasing := s.m.res.releasing.erase e } }.pump.drive)) ∧
  (∀ o, s.m.obj? (s.m.handle obj.toNat) = some o → o.borrowed = none → s.m.directed o.job = false → tile.toNat < o.tiles →
    s.m.homeOk dest.toNat = true → exec (.autoPolicyMove obj tile dest) s =
      .next (s.commit (s.m.request (tileReq (s.m.handle obj.toNat) tile.toNat dest.toNat 6 0 o.job)))) ∧
  (∀ r, (s.m.res.waiting.find? fun r => r.kind = 1 && handleIdx r.obj = obj.toNat && r.tile = tile.toNat &&
      decide (r.since + 100000000 < s.m.now)) = some r →
    ∀ m, m = ({ s.m with res := { s.m.res with waiting := s.m.res.waiting.filter (· != r) } }.ev 0x5012 0
      [(0, 1, r.dest), (1, 2, r.job), (4, 4, r.obj), (8, 4, r.tile), (12, 8, s.m.stepOf r.job)]).stopStep r.job stResExhausted 0 →
    exec (.tileFaultTimeout obj tile) s = .next (s.commit (cores.foldl (fun m c => ((m.core! c).infl.filter fun f =>
      f.pins.any fun p => p.1 = r.obj && p.2.1 = r.tile && !m.at? p.1 p.2.1 p.2.2).foldl (fun m f => m.abandon c f) m) m).drive))

/-- The Cellar's events (R309 to R319): a reading of at most 85 °C leaves a cool stack at code 0; errors of the stacks are counted and
recorded and poison what cannot be corrected; a drained stack is re-hashed at a step boundary. -/
def Obligations.CellarEventsComplete : Prop := ∀ (st : Stack) (s : State),
  (∀ t : Int, s.m.alive = true → (s.m.stack! st).hot = false → t ≤ 85 → (s.m.stack! st).refresh = 0 → exec (.stackTempRead st t) s =
    .next (s.commit (s.m.onStack st fun x => { x with temp := t, refresh := 0 }).drive)) ∧
  (∀ l b, s.m.alive = true → (∀ p ∈ l, p.2 ≤ 4) → exec (.scrub st l b) s = .next (s.commit ((b.filter fun p =>
    p < ((s.m.rollHour s.evr.opsec).stack! st).active * 1610612736).foldl (fun m p => m.sectorBad s.evr.opsec st p) ((l.filter fun p =>
      p.1 < ((s.m.rollHour s.evr.opsec).stack! st).active * 1610612736).foldl (fun m p => m.sectorCorr st p.1 p.2)
        (s.m.rollHour s.evr.opsec))))) ∧
  (∀ off, s.m.alive = true → off < ((s.m.rollHour s.evr.opsec).stack! st).active * 1610612736 → exec (.cellarUncorrectable st off) s =
    .next (s.commit ((s.m.rollHour s.evr.opsec).sectorBad s.evr.opsec st off))) ∧
  (∀ (h : Pc) (row : BitVec 16), s.m.alive = true → (Tab.get {} (s.m.stack! st).pc h).mapped = false →
    exec (.rowRepaired st h row) s = .next (s.commit (if s.m.pprLeft st h = 0 then s.m.suspect st h 1 else
      { s.m with nv := { s.m.nv with pprUsed := Tab.upd 0 s.m.nv.pprUsed (32 * st.val + h.val) (· + 1) } }.ev 0x4030 1
        [(0, 1, st.val), (1, 1, h.val), (2, 2, row.toNat), (4, 1, s.m.pprLeft st h - 1)]))) ∧
  exec .correctionWindowRoll s = .next (s.commit (s.m.rollHour s.evr.opsec)) ∧
  ((s.m.stack! st).draining = true → (s.m.stack! st).rehash = false → s.m.allAtBoundary = true →
    (∀ e ∈ s.m.res.ext ++ s.m.res.releasing, e.home ≠ homeStack st) → (∀ v ∈ s.m.res.moves, v.home ≠ homeStack st) →
    ((s.m.copyReserved st).stack! st).reservedIn.isSome = true →
    exec (.stackRehash st) s = .next (s.commit ((s.m.copyReserved st).onStack st fun x => { x with rehash := true }))) ∧
  ((s.m.stack! st).rehash = true → exec (.rehashDone st) s = .next (s.commit (s.m.rehashDone st)))

/-- A descriptor that reads a poisoned sector (R315, R316): the update engine guards the element and raises the step's flag; any other
engine ends the step with MEM_POISON. Event 0x4011 tells the place. -/
def Obligations.PoisonConsumptionCompletes : Prop := ∀ (id : Nat) (sec : Fin 16384) (obj : BitVec 16) (tile : W32) (s : State)
    (f : Infl) (o : Obj) (e : Ext) (p : Nat × Nat × Nat) (n : Nat), cores.findSome? (fun c => s.m.infl? c id) = some f →
  s.m.objAny (s.m.handle obj.toNat) = some o →
  (f.pins.find? fun p => p.1 = s.m.handle obj.toNat && p.2.1 = tile.toNat) = some p →
  ((s.m.extsOf (s.m.handle obj.toNat) tile.toNat).find? fun e => meets e.home p.2.2) = some e → o.poisonedIn e.home tile.toNat sec = true →
  n < 32 → e.home = homeStack n →
  ∀ off m, off = (e.frame + (tile.toNat - e.tile)) * 1048576 + sec.val * 64 →
    m = s.m.ev 0x4011 0 [(0, 1, n), (1, 1, (s.m.stack! n).pcOf off), (2, 8, off), (10, 2, f.job), (12, 8, s.m.stepOf f.job),
      (20, 4, s.m.handle obj.toNat)] →
    exec (.poisonConsumed id sec obj tile) s = .next (s.commit
      (if dOp f.d = opUpdLayer then m.stepFlag f.job flagPoison else m.stopStep f.job stMemPoison 0))

/-- The Attic's events (R375 to R382): collection, disturb and wear moves copy the live tiles of a log block to the log's head and erase
blocks; a page that parity rebuilds is counted, one that it cannot is lost; a retired block takes 16 MiB of the spare, and takes no more pages
of an open log block; the journal goes to NAND, where its records enter the map that a start-up rebuilds. -/
def Obligations.AtticEventsComplete : Prop := ∀ (ch : Fin 16) (block dst : W32) (b : Nat) (page obj : BitVec 16) (tile : W32) (s : State),
  s.m.alive = true →
  (∀ n m, s.m.attic.accepting = true → s.m.attic.sparse b = some n → m = s.m.relocate n → ∀ x,
    x = ((m.attic.blocks.filter fun (p : Nat × EBlock) => p.2.use = some n).map fun (p : Nat × EBlock) => p.1).foldl
      (fun m b => m.onBlk b EBlock.erase) m →
    exec (.atticGarbageCollect b) s = .next (s.commit { x with attic := { x.attic with log := Tab.del x.attic.log n } })) ∧
  (∀ k m, k = ch.val + 16 * block.toNat → s.m.attic.accepting = true → 50000 ≤ (s.m.attic.blk k).reads →
    m = (match (s.m.attic.blk k).use with | some n => s.m.relocate n | none => s.m) →
    exec (.atcDisturb ch block) s = .next (s.commit (((m.onBlk k EBlock.erase).atcCnt 0x48 1).ev 0x5110 1
      [(0, 1, ch.val), (4, 4, block.toNat)]))) ∧
  (∀ n e m, s.m.attic.accepting = true → (s.m.attic.blk block.toNat).use = some n → e = (s.m.attic.blk block.toNat).erases →
    e = s.m.attic.wearRange.1 → e + 500 < s.m.attic.wearRange.2 → (s.m.attic.blk dst.toNat).isFree = true →
    e < (s.m.attic.blk dst.toNat).erases → dst.toNat % 16 = block.toNat % 16 → dst.toNat < 16 * chanBlocks →
    m = { s.m with attic := s.m.attic.closeLog.openLog (some (dst.toNat % 16, dst.toNat / 16)) }.relocate n →
    exec (.atcWearMove block dst) s = .next (s.commit (({ m with attic := m.attic.closeLog }.onBlk block.toNat EBlock.erase).ev 0x5111 0
      [(0, 1, block.toNat % 16), (4, 4, block.toNat / 16), (8, 4, e)]))) ∧
  exec (.atcPageUncorrectable ch block page true obj tile) s = .next (s.commit ((s.m.atcCnt 0x40 1).ev 0x5120 1
    [(0, 1, ch.val), (4, 4, block.toNat), (8, 2, page.toNat)])) ∧
  (∀ o, s.m.objAny (s.m.handle obj.toNat) = some o → s.m.at? (s.m.handle obj.toNat) tile.toNat homeAttic = true →
    exec (.atcPageUncorrectable ch block page false obj tile) s = .next (s.commit ((s.m.loseTile (s.m.handle obj.toNat) tile.toNat).ev 0x5124 0
      [(0, 4, s.m.handle obj.toNat), (4, 4, tile.toNat), (8, 2, o.job)]))) ∧
  ((Tab.get {} s.m.attic.blocks (ch.val + 16 * block.toNat)).retired = false → ∀ x m,
    x = (if (s.m.attic.blk (ch.val + 16 * block.toNat)).use = some (s.m.attic.head / logTiles) then { s.m with attic := s.m.attic.closeLog } else s.m) →
    m = x.onBlk (ch.val + 16 * block.toNat) (fun b => { b with retired := true }) → ∀ m',
    m' = { m with attic := { m.attic with retiredMib := m.attic.retiredMib + 16 } }.atcCnt 0x50 1 →
    exec (.atcBlockRetired ch block) s = .next (s.commit ((m'.ev 0x5121 1
      [(0, 1, ch.val), (4, 4, block.toNat), (8, 2, m'.attic.spare)]).spareCheck))) ∧
  (s.m.attic.accepting = true → 0 < s.m.attic.buf → exec .journalFlush s = .next (s.commit ({ s.m with
    attic := { s.m.attic.settle s.m.attic.appended with buf := 0 } }.journalWrite s.m.attic.buf)))

/-- Lanes, training and retraining of a port (R419 to R421, R426): a failed lane in use retrains the port; a retrain that fails is
counted, one that succeeds trains the port and resends; a DOWN port tries again and comes UP; a port goes DOWN. -/
def Obligations.PortEventsComplete : Prop := ∀ (p : Port) (s : State),
  (∀ lane : Fin 4, (s.m.port! p).link = .up → bit (s.m.port! p).failed lane = false → ∀ y m,
    y = { (s.m.port! p) with failed := (s.m.port! p).failed + 2 ^ lane.val } → m = (s.m.setPort p y).sendLaneHealth p →
    exec (.laneFail p lane) s = .next (s.commit (if (s.m.port! p).used.contains lane.val then
      (((m.sendRetrain p 1).startRetrain p)).ev 0x7003 1 [(0, 1, p.val), (1, 1, lane.val), (2, 1, y.newWidth)] else m))) ∧
  (∀ lane : Fin 4, (s.m.port! p).link = .training → bit (s.m.port! p).failed lane = false → exec (.laneFail p lane) s =
    .next (s.commit (s.m.setPort p { (s.m.port! p) with failed := (s.m.port! p).failed + 2 ^ lane.val }))) ∧
  ((s.m.port! p).link = .retraining → (s.m.port! p).badRetrains < 2 → exec (.retrainDone p false) s =
    .next (s.commit ((s.m.startRetrain p).onPort p fun x => { x with badRetrains := x.badRetrains + 1 }))) ∧
  ((s.m.port! p).link = .retraining → (s.m.port! p).badRetrains < 3 → 0 < (s.m.port! p).newWidth → exec (.retrainDone p true) s =
    .next (s.commit (s.m.trained p))) ∧
  ((s.m.port! p).link = .down → (s.m.port! p).holdDown = false → s.m.lit = true → exec (.portTrainRetry p) s =
    .next (s.commit (s.m.onPort p fun x => { x with link := .training, failed := 0 }))) ∧
  (∀ (l : BitVec 4) x, x = { (s.m.port! p) with peerLanes := l.toNat } → x.link = .training → 0 < x.newWidth → s.m.lit = true →
    exec (.portUp p l) s = .next (s.commit (((s.m.setPort p { x with
      retrains := 0
      txLseq := 0
      rxLseq := 0
      turns := []
      asm := []
      replay := []
      waiting := []
      resends := 0
      delays := [] }).trained p).ev 0x7001 0 [(0, 1, p.val), (1, 1, x.newWidth)]))) ∧
  ((s.m.port! p).link = .up ∨ (s.m.port! p).link = .retraining → ∀ m, m = (s.m.dropPort p).ev 0x7002 0 [(0, 1, p.val), (1, 1, 1)] →
    exec (.portDown p .dark) s = .next (s.commit ((m.afterDown p (s.m.streamsVia p) ((s.m.port! p).verify = .verified)
      (s.m.port! p).expChip).parentGone p)))

/-- Flits and CONTROL messages at an UP port (R422 to R427): a DATA flit in order advances the expected LSEQ and joins its packet in the
receive buffer; one whose CRC fails is counted and asked for again; the header of a CONTROL flit acts as any flit's, and then the
credits and lane health of the peer are taken; one that Table 12.22 does not name is counted alone; the timeouts act once due. -/
def Obligations.FlitAndControlEventsComplete : Prop := ∀ (p : Port) (s : State), (s.m.port! p).link = .up →
  (∀ f : Flit, crcOk f = false → exec (.dataFlitReceive p f) s = .next (s.commit ((s.m.portCnt p 0x210 1).sendNak p)) ∧
    exec (.idleFlitReceive p f) s = .next (s.commit (s.m.portCnt p 0x210 1))) ∧
  (∀ f : Flit, crcOk f = true → f.type = 1 → f.lseq = ((s.m.flitAck p f).port! p).rxLseq →
    exec (.dataFlitReceive p f) s = .next (s.commit ((((s.m.flitAck p f).onPort p fun x => { x with
      rxLseq := (x.rxLseq + 1) % 4096 }).portCnt p 0x208 1).assemble p f))) ∧
  (∀ f : Flit, crcOk f = true → f.type = 0 → exec (.idleFlitReceive p f) s = .next (s.commit (s.m.flitAck p f))) ∧
  ((s.m.port! p).ackAt + 5000 ≤ s.m.now → exec (.linkReplayTimeout p) s = .next (s.commit (s.m.resend p))) ∧
  (∀ f : Flit, crcOk f = true → f.type = 4 → ctrlNamed f = true →
    (ctrlMsg f = 1 → ((s.m.flitAck p f).port! p).gotCredit = false → exec (.creditInit p f) s =
      .next (s.commit (((s.m.flitAck p f).onPort p fun x => { x with
        gotCredit := true
        credits := (List.range 8).map fun i => 16 * byf f.body (1 + i) 1 }).pumpPort p))) ∧
    (ctrlMsg f = 2 → exec (.laneHealth p f) s = .next (s.commit ((s.m.flitAck p f).onPort p fun x => { x with peerLanes := byf f.body 1 1 }))) ∧
    (ctrlMsg f = 3 → exec (.retrain p f) s = .next (s.commit ((s.m.flitAck p f).startRetrain p)))) ∧
  (∀ f : Flit, crcOk f = false ∨ (f.type = 4 ∧ ctrlNamed f = false) → ∀ r, r = .next (s.commit (s.m.portCnt p 0x210 1)) →
    exec (.creditInit p f) s = r ∧ exec (.laneHealth p f) s = r ∧ exec (.retrain p f) s = r) ∧
  (0 < (s.m.port! p).ctrlLeft → (s.m.port! p).trainedAt + 1000 * (3 - (s.m.port! p).ctrlLeft) ≤ s.m.now → exec (.controlRepeat p) s =
    .next (s.commit (((s.m.onPort p fun x => { x with ctrlLeft := x.ctrlLeft - 1 }).sendCreditInit p).sendLaneHealth p))) ∧
  ((s.m.port! p).gotCredit = false → (s.m.port! p).trainedAt + 20000 ≤ s.m.now → exec (.creditInitTimeout p) s =
    .next (s.commit (s.m.startRetrain p)))

/-- Hellos and the time base (R439 to R442, R450 to R459): a hello of this epoch that names what the map expects verifies its port, another
marks a mismatch; the hello exchange ends; beacons go out and elect a grandmaster; a lost parent leaves HOLDOVER; a TIME_JOIN times out. -/
def Obligations.HelloAndTimeBaseEventsComplete : Prop := ∀ (p : Port) (s : State),
  ((s.m.port! p).link = .up → (s.m.port! p).mapped = true → exec (.helloSend p) s = .next (s.commit (s.m.putFlit p 3 false
    (pack [(0, 4, s.m.lnk.chip), (4, 1, p.val), (5, 1, if (s.m.port! p).actEn then (s.m.port! p).actId + 128 else 0), (8, 8, s.m.lnk.epoch),
      (16, 1, verifyCode (s.m.port! p).verify)])))) ∧
  (∀ (b : HelloBody) (hdr : W64) m, (s.m.port! p).link = .up → b.rsvZero = true →
    m = ((s.m.flitAck p { hdr := hdr, body := 0, crc := 0 }).onPort p fun x => { x with
      nChip := b.chip.toNat
      nPort := b.port.val
      nBundle := b.bundle.val + 32 * b2n b.member }) → (m.port! p).mapped = true → b.epoch.toNat = m.lnk.epoch →
    (m.port! p).verify = .waiting → (m.helloWrong p b (b.bundle.val + 32 * b2n b.member) = true → exec (.helloReceive p ⟨hdr, b⟩) s =
      .next (s.commit ((m.onPort p fun x => { x with verify := .mismatch }).ev 0x7010 0
        [(0, 1, p.val), (1, 3, b.chip.toNat), (4, 1, b.port.val), (5, 8, b.epoch.toNat)]).checkHello)) ∧
    (m.helloWrong p b (b.bundle.val + 32 * b2n b.member) = false → ∀ x, x = ((m.onPort p fun x => { x with verify := .verified }).pumpPort p) →
      exec (.helloReceive p ⟨hdr, b⟩) s = .next (s.commit ((x.lnk.tx.filter fun kt => kt.2.due).foldl (fun m kt => m.reroute kt.1) x).checkHello))) ∧
  (∀ q c t m, s.m.lnk.helloQ = some (q, c, t) → t ≤ s.m.now → m = (((List.range 64).foldl Mod.helloOver s.m).replyTopo) →
    ∀ x, x = { m with lnk := { m.lnk with helloQ := none } } →
    exec .helloTimeout s = .next (s.commit ((x.lnk.tx.filter fun kt => kt.2.due).foldl (fun m kt => m.reroute kt.1) x))) ∧
  (∀ x : Mod, ((x.port! p).verify = .waiting → (x.port! p).link = .down ∨ (x.port! p).link = .training →
      x.helloOver p = x.onPort p fun y => { y with verify := .dark }) ∧
    ((x.port! p).verify = .waiting → (x.port! p).link = .up ∨ (x.port! p).link = .retraining →
      x.helloOver p = if (x.port! p).olderHello then x.onPort p fun y => { y with verify := .late } else x) ∧
    ((x.port! p).verify ≠ .waiting → x.helloOver p = x)) ∧
  (∀ q c t, s.m.lnk.helloQ = some (q, c, t) → t ≤ s.m.now → (∀ q : Port, (s.m.port! q).verify ≠ .waiting) → (∀ kt ∈ s.m.lnk.tx, kt.2.due = false) →
    exec .helloTimeout s = .next (s.commit { s.m.replyTopo with lnk := { s.m.replyTopo.lnk with helloQ := none } })) ∧
  ((s.m.port! p).link = .up → s.m.tb.following = false → exec (.beaconSend p) s = .next (s.commit (s.m.putFlit p 2 false
    (pack [(0, 8, s.m.now), (8, 1, s.m.frac), (9, 1, tbCode s.m.tb.state), (12, 4, s.m.lnk.chip), (16, 8, s.m.tb.gmSeq), (24, 8, s.m.lnk.epoch),
      (32, 8, (s.m.port! p).lastTx), (40, 1, (s.m.port! p).lastTxF), (48, 8, (s.m.port! p).lastRx), (56, 1, (s.m.port! p).lastRxF)])))) ∧
  (∀ (b : BeaconBody) (hdr : W64) m, (s.m.port! p).link = .up → m = ((s.m.flitAck p { hdr := hdr, body := 0, crc := 0 }).onPort p fun x => { x with
      lastTx := b.txTime.toNat
      lastTxF := b.txFrac.toNat
      lastRx := s.m.now
      lastRxF := s.m.frac }) → (m.port! p).verify = .verified → b.epoch.toNat = m.lnk.epoch →
    (b.echoTx.toNat * 256 + b.echoTxF.toNat) + 2048000 < m.now * 256 + m.frac → (m.heed p b).tb.parent ≠ some p.val →
    exec (.beaconReceive p ⟨hdr, b⟩) s = .next (s.commit (m.heed p b))) ∧
  (∀ (b : BeaconBody) (m : Mod), (m.tb.following = true → m.tb.parent = some p.val → ((m.hear p b).port! p).advHeard = false →
      m.heed p b = (m.hear p b).loseParent) ∧
    (m.tb.parent ≠ some p.val ∨ ((m.hear p b).port! p).advHeard = true → m.heed p b = (m.hear p b).elect)) ∧
  (∀ (b : BeaconBody) (hdr : W64) m (d e : Int) m', (s.m.port! p).link = .up → m = ((s.m.flitAck p { hdr := hdr, body := 0, crc := 0 }).onPort p fun x => { x with
      lastTx := b.txTime.toNat
      lastTxF := b.txFrac.toNat
      lastRx := s.m.now
      lastRxF := s.m.frac }) → (m.port! p).verify = .verified → b.epoch.toNat = m.lnk.epoch →
    e = m.stamp - (b.echoTx.toNat * 256 + b.echoTxF.toNat : Int) → 0 ≤ e → e ≤ 2048000 →
    d = (e - ((b.txTime.toNat * 256 + b.txFrac.toNat : Int) - (b.echoRx.toNat * 256 + b.echoRxF.toNat : Int))) / 2 →
    m' = (((m.onPort p fun x => { x with delays := (x.delays ++ [d]).drop ((x.delays ++ [d]).length - 16) }).bundleSkew p).heed p b) →
    m'.tb.parent = some p.val → m'.tb.following = true → exec (.beaconReceive p ⟨hdr, b⟩) s =
      .next (s.commit ({ m' with tb := { m'.tb with gmSeq := (m'.port! p).advSeq } }.offset
        ((b.txTime.toNat * 256 + b.txFrac.toNat : Int) + d - m.stamp)))) ∧
  (s.m.tb.state = .grandmaster → exec .gmSeqAdvance s = .next (s.commit { s.m with tb := { s.m.tb with
    gmSeq := (s.m.tb.gmSeq + 1) % 2 ^ 64 } })) ∧
  (s.m.tb.parent = some p.val → s.m.liveAdv p = false → s.m.tb.following = true → s.m.bestPort s.m.tb.gm = none → exec .gmLivenessTimeout s =
    .next (s.commit ({ s.m with tb := { s.m.tb with
      state := .holdover
      parent := none
      holdFrom := s.m.now
      rho := clampRate s.m.tb.f
      lockRun := 0 } }.ev 0x7031 0 [(1, 3, s.m.tb.gm)]))) ∧
  (∀ (q : Queue) t, s.m.tb.joins.find? (fun j => j.1 = q.val) = some (q.val, t) → t ≤ s.m.now → exec (.timeJoinTimeout q) s =
    .next (s.commit ({ s.m with tb := { s.m.tb with joins := s.m.tb.joins.erase (q.val, t) } }.replyHeld q stTimeJoin 0
      [(16, 1, tbCode s.m.tb.state)])))

/-- Packets at a port (R432, R445 to R448, R465, R484, R518): a packet of a row's kind is received in its stream's order; a forwarded one leaves by the
next hop of its route; acknowledgements and retransmissions act once due. -/
def Obligations.PacketEventsComplete : Prop := ∀ (p : Port) (h : PktHdr) (body : Nat) (s : State),
  (∀ m k, s.inOrder p h.toNat body m → k = streamKey (hSrc h.toNat) (hJob h.toNat) (hVc h.toNat) →
    (hKind h.toNat = kExchange → exec (.exchange p h body) s =
      .next (s.commit (deliverRun Mod.collGate Mod.collDeliver k 4096 m (heldOf p h.toNat body {})).lostRoutes)) ∧
    (∀ ok, hKind h.toNat = kReduce → exec (.reduce p h body ok) s =
      .next (s.commit (deliverRun Mod.collGate (Mod.reduceAct (hSeq h.toNat) ok) k 4096 m (heldOf p h.toNat body {})).lostRoutes)) ∧
    (hKind h.toNat = kBarrier → exec (.barrierPacket p h body) s =
      .next (s.commit (deliverRun Mod.barGate Mod.barDeliver k 4096 m (heldOf p h.toNat body {})))) ∧
    (hKind h.toNat = kPace → exec (.pace p h body) s =
      .next (s.commit (deliverRun openGate Mod.paceDeliver k 4096 m (heldOf p h.toNat body {})))) ∧
    (∀ src, hKind h.toNat = kSnapshot → exec (.snapshot p h body src) s =
      .next (s.commit (deliverRun Mod.snapGate Mod.snapDeliver k 4096 m (heldOf p h.toNat body src))))) ∧
  (∀ m0 epoch, s.m.arrival p h.toNat 0 = some (m0, epoch) → m0.portDrops p h.toNat epoch = false → hKind h.toNat = kAck → hDst h.toNat = m0.lnk.chip →
    m0.lostFor (hSrc h.toNat) (hJob h.toNat) = false →
    ∀ m, m = m0.ackedTo (hSrc h.toNat) (hJob h.toNat) (hVc h.toNat) (hSeq h.toNat) → (∀ x ∈ m.col.ctx, x.stagePend = []) →
    exec (.e2eAck p h) s = .next (s.commit m)) ∧
  (∀ m epoch, s.m.arrival p h.toNat body = some (m, epoch) → m.portDrops p h.toNat epoch = false → hDst h.toNat ≠ m.lnk.chip →
    hHop h.toNat ≤ hLast h.toNat → ∀ e, e = hRoute h.toNat (hHop h.toNat) →
    m.hopUp e.1 = true → hKind h.toNat ≠ kReduce → exec (.packetForward p h body) s = .next (s.commit ({ m with
      lnk := { m.lnk with fwd := m.lnk.fwd ++ [(e.1, hopOn h.toNat, body)] } }.emit e.1 e.2 (hKind h.toNat) (hLen h.toNat)
        (hopOn h.toNat + 2 ^ 320 * body) true))) ∧
  ((∀ x ∈ s.m.lnk.inbox, x.port ≠ p.val ∨ x.bytes ≠ h.toNat + 2 ^ 320 * body) →
    s.m.arrival p h.toNat body = if (s.m.port! p).link = .up then some (s.m, s.m.lnk.epoch) else none) ∧
  (∀ x, (s.m.lnk.inbox.find? fun x => x.port = p.val && x.bytes = h.toNat + 2 ^ 320 * body) = some x →
    (s.m.lnk.inbox.find? fun y => y.key = x.key) = some x → s.m.arrival p h.toNat body =
      some ({ s.m with lnk := { s.m.lnk with inbox := s.m.lnk.inbox.erase x } }.freeBuf p x.vc x.owe, x.epoch)) ∧
  (∀ k x, s.m.lnk.formed[k]? = some x → exec (.treePacketSend k) s =
    .next (s.commit ({ s.m with lnk := { s.m.lnk with formed := s.m.lnk.formed.eraseIdx k } }.send x).lostRoutes)) ∧
  (∀ (src : BitVec 20) (job : JobId) (vc : Fin 8), 0 < (s.m.rx! (streamKey src.toNat job.toNat vc)).unackedN →
    (s.m.rx! (streamKey src.toNat job.toNat vc)).firstAt + 2000 ≤ s.m.now → exec (.e2eAckTimer src job vc) s =
      .next (s.commit (s.m.ackStream src.toNat job.toNat vc))) ∧
  (∀ (dst : BitVec 20) (job : JobId) (vc : Fin 8) k t, k = streamKey dst.toNat job.toNat vc → s.m.tx! k = t → t.unacked ≠ [] →
    t.unreachable = false → t.due = false → t.oldestAt + 1000 * s.m.lnk.timeout < s.m.now →
    ((t.unacked.head?.map (·.retx)) = some false → exec (.e2eRetx dst job vc) s = .next (s.commit (s.m.reroute k)) ∧
      (s.m.lnk.maxRetx ≤ t.retx → exec (.e2eRetx dst job vc) s = .next (s.commit (s.m.destUnreachable k)))) ∧
    ((t.unacked.head?.map (·.retx)) = some true → exec (.e2eRetx dst job vc) s =
      .next (s.commit ((s.m.onTx k fun t => { t with badRoutes := t.route :: t.badRoutes }).reroute k))))

/-- The forced sources (R574, R575, R577, R578, R684): THROTTLE_IN# acts once it lasts 50 ns; an alert acts while its condition holds; a
droop warning and its trip; the hold-off ends 10 µs after the last condition; a ramp steps by 10 mV. -/
def Obligations.ForcedSourcesComplete : Prop := ∀ (d : Die) (s : State), s.m.railsOn = true →
  (∀ ns acts, s.m.pins.throttle = false → 50 ≤ ns → exec (.throttleInAssert ns acts) s =
    .next (s.commit { s.m with pins := { s.m.pins with throttle := true } }.throttleOn)) ∧
  (s.m.pwr.acting.contains .throttle = true → exec .throttleInRelease s = .next (s.commit ({ s.m with
    pins := { s.m.pins with throttle := false }
    pwr := { s.m.pwr with throttleTicks := s.m.now - s.m.pwr.throttleFrom } }.forceOff .throttle))) ∧
  (∀ v m, v < 46500 → (∀ a ∈ s.m.pwr.alerts, a.kind ≠ 1) → m = { s.m with pwr := { s.m.pwr with
      alerts := s.m.pwr.alerts ++ [({ kind := 1, die := 0, value := v } : RegAlert)]
      alertSeen := (s.m.pwr.alertSeen.filter fun a => !RegAlert.same .inputLow d a) ++ [({ kind := 1, die := 0, value := v } : RegAlert)] } } →
    exec (.regAlert .inputLow d v) s = .next (s.commit ((m.forceOn .alert).ev 0xA012 0 [(0, 1, 0), (1, 1, 1), (2, 2, v)]))) ∧
  (∀ v m, 125 < v → (∀ a ∈ s.m.pwr.alerts, a.kind = 3 → a.die ≠ d.val) → m = { s.m with pwr := { s.m.pwr with
      alerts := s.m.pwr.alerts ++ [({ kind := 3, die := d, value := v } : RegAlert)]
      alertSeen := (s.m.pwr.alertSeen.filter fun a => !RegAlert.same .hot d a) ++ [({ kind := 3, die := d, value := v } : RegAlert)] } } →
    exec (.regAlert .hot d v) s = .next (s.commit ((m.forceOn .alert).ev 0xA012 0 [(0, 1, d.val), (1, 1, 3), (2, 2, v)]))) ∧
  (∀ k m, (∀ a ∈ s.m.pwr.alerts, RegAlert.same k d a = true) → m = { s.m with pwr := { s.m.pwr with alerts := [] } } →
    exec (.regAlertClear ⟨k, d⟩) s = .next (s.commit (m.forceOff .alert))) ∧
  (∀ k, (∃ a ∈ s.m.pwr.alerts, RegAlert.same k d a = false) → exec (.regAlertClear ⟨k, d⟩) s = .next (s.commit { s.m with pwr := { s.m.pwr with
    alerts := s.m.pwr.alerts.filter fun a => !RegAlert.same k d a } })) ∧
  (∀ t, s.m.pwr.holdoff = some t → t + 10000 ≤ s.m.now → s.m.pwr.released = [.droop] → exec .forcedHoldoffEnd s =
    .next (s.commit { s.m with pwr := { s.m.pwr with
      holdoff := none
      released := []
      alertSeen := [] } }.power)) ∧
  (s.m.pwr.ramping = true → s.m.pwr.anyWarn = false → s.m.pwr.rampAt + 1000 ≤ s.m.now →
    s.m.pwr.setpoint + 10 < s.m.vtab s.m.pwr.target → exec .rampStep s = .next (s.commit { s.m with pwr := { s.m.pwr with
      setpoint := s.m.pwr.setpoint + 10
      rampAt := s.m.now } })) ∧
  (∀ mv m, s.m.pwr.setpoint ≤ mv + 60 → mv + 25 < s.m.pwr.setpoint → (s.m.die! d).warn = false → s.m.pwr.ramping = false →
    m = ({ s.m with free := s.m.free + 1 }.onDie d fun x => { x with mv := mv, warnLow := mv, amps := (Config.freeValue s.m.free).toNat % 65536 }) → exec (.droopSample d mv) s = .next (s.commit (((m.onDie d fun x => { x with
      warn := true
      warnFrom := m.now }).ev 0xA020 1 [(0, 1, d.val), (1, 2, m.pwr.setpoint), (3, 2, mv)]).pwrCnt 0x220 1).settleDroop)) ∧
  ((s.m.die! d).warn = true → s.m.pwr.forced = false → (s.m.die! d).warnFrom + 5000 < s.m.now → s.m.pwr.acting.contains .droop = false →
    exec (.droopWarnTimeout d) s = .next (s.commit ((((s.m.ev 0xA021 0
      [(0, 1, d.val), (1, 2, s.m.pwr.setpoint), (3, 2, (s.m.die! d).warnLow), (5, 1, 2)]).pwrCnt 0x228 1).forceOn .droop).settleDroop)))

/-- The cap loop, the sensors, the thermal ceiling and the rate monitors (R567, R568, R580, R583 to R586). -/
def Obligations.CapAndThermalComplete : Prop := ∀ (d : Die) (s : State), s.m.alive = true →
  (∀ w v xs, xs = (s.m.pwr.samples ++ [w]).drop (s.m.pwr.samples.length - 99) → exec (.powerSample w v) s =
    .next (s.commit { s.m with pwr := { s.m.pwr with
      samples := xs
      p1 := xs.foldl (· + ·) 0 / xs.length
      vin := v % 65536
      energyUj := s.m.pwr.energyUj + 10 * w
      belowFor := if xs.foldl (· + ·) 0 / xs.length + 250 ≤ s.m.pwr.capW then s.m.pwr.belowFor + 10 else 0 } })) ∧
  (s.m.pwr.capW < s.m.pwr.p1 → 0 < s.m.pwr.capOp → exec .capDecision s =
    .next (s.commit { s.m with pwr := { s.m.pwr with capOp := s.m.pwr.capOp - 1, belowFor := 0 } }.power)) ∧
  (s.m.pwr.p1 ≤ s.m.pwr.capW → 1000 ≤ s.m.pwr.belowFor → s.m.pwr.capOp < 7 → exec .capDecision s =
    .next (s.commit { s.m with pwr := { s.m.pwr with
      capUnmet := false
      capUnmetFor := 0
      capOp := s.m.pwr.capOp + 1
      belowFor := 0 } }.power)) ∧
  (∀ t : Int, -40 ≤ t → t < 115 → s.m.phase ≠ .off → s.m.pins.coreRails = true → exec (.junctionSensorRead d (List.replicate 16 (some t))) s =
    .next (s.commit (s.m.onDie d fun x => { x with
      tjMax := t
      sensorsOk := 16
      rateLowFrom := if t ≤ 85 then x.rateLowFrom else none
      sensorFail := false }).coolant)) ∧
  ((∀ x ∈ s.m.pwr.die, x.2.sensorFail = false) → (s.m.die! d).tjMax > s.m.pwr.throtC → exec .thermOpStep s =
    .next (s.commit { s.m with pwr := { s.m.pwr with thermOp := s.m.pwr.thermOp - 1 } }.power)) ∧
  ((∀ x ∈ s.m.pwr.die, x.2.sensorFail = false) → (∀ d : Die, (s.m.die! d).tjMax ≤ s.m.pwr.throtC - 5) → s.m.pwr.thermOp < 6 →
    exec .thermOpStep s = .next (s.commit { s.m with pwr := { s.m.pwr with thermOp := s.m.pwr.thermOp + 1 } }.power)) ∧
  (∀ n, 95 * nominalRate s.m.pwr.opNow ≤ 100 * min 65535 (n / 10) → exec (.rateMonitorSample d n) s =
    .next (s.commit (s.m.onDie d fun x => { x with
      rate := min 65535 (n / 10)
      rateLowFrom := none
      rateLowSeen := false }))) ∧
  (s.m.pins.thermTrip = true → s.m.pins.perimRails = true → s.m.pins.tripAt + 5000000 ≤ s.m.now → exec .tripPerimeterOff s = .next (s.commit { s.m.survivors false with
    pins := { (s.m.survivors false).pins with perimRails := false, flushing := false } }))

/-- Supply, reset and flush (R383, R616, R655, R681 to R685): a module that leaves for OFF keeps only what outlives a reset and flushes; a pin
that stood between OFF and BOOT lets BOOT begin once nothing holds it. -/
def Obligations.PinEventsComplete : Prop := ∀ (s : State),
  (s.m.phase ≠ .off → ∀ x m, x = s.m.survivors true → m = { x with
      pins := { x.pins with flushing := true, modFault := false }
      nv := { x.nv with flushDue := true, flushOk := false, flushBytes := x.attic.buf } } →
    exec .perstAssert s = .next (s.commit { m with pins := { m.pins with perst := true } }) ∧
    exec .modPwrenFall s = .next (s.commit { m with pins := { m.pins with
      pwrEn := false
      pwrGood := false
      thermTrip := false
      modFault := false
      coreRails := false } }) ∧
    exec .inputLoss s = .next (s.commit { m with pins := { m.pins with
      inputMv := 0
      pwrGood := false
      thermTrip := false
      modFault := false
      inputCut := true
      coreRails := false } })) ∧
  exec .modPwrenRise s = .next (s.commit { s.m with pins := { s.m.pins with pwrEn := true } }) ∧
  exec .railOutOfRegulation s = .next (s.commit { s.m with pins := { s.m.pins with pwrGood := false } }) ∧
  (∀ m, m = { s.m with pins := { s.m.pins with
      pwrGood := true
      flushing := s.m.pins.flushing && !s.m.pins.inputCut
      inputCut := false
      coreRails := true
      perimRails := true } } → m.mayBoot = true →
    exec .railsInRegulation s = .next ({ s with evr := s.evr.boot }.commit (m.bootEntry.evrTraffic s.evr s.evr.boot))) ∧
  (∀ m, m = { s.m with pins := { s.m.pins with perst := false } } → (m.mayBoot = false → exec .perstDeassert s = .next (s.commit m)) ∧
    (m.mayBoot = true → exec .perstDeassert s = .next ({ s with evr := s.evr.boot }.commit (m.bootEntry.evrTraffic s.evr s.evr.boot)))) ∧
  (∀ mv, 44000 < mv → mv ≤ 58000 → s.sbx.supplied = true → exec (.inputApplied mv) s =
    .next (s.commit { s.m with pins := { s.m.pins with inputMv := mv } })) ∧
  (s.m.pins.flushing = true → s.m.pins.perst = true → ∀ m x, m = { s.m with
      phase := if s.m.sec.restart then .off else s.m.phase
      pins := { s.m.pins with flushing := false, inputCut := false }
      nv := { s.m.nv with flushOk := true } }.journalFlush →
    x = { m with images := m.images.map fun (x : Image) => { x with durable := true }, freed := [] } → exec .flushDone s =
    .next ({ s with evr := s.evr.flush }.commit (x.evrTraffic s.evr s.evr.flush)))

/-- Start-up (R618 to R628, R656): BOOT ends with an image and the recorder's ring, MEM_INIT with the report's repairs and fences, LINK_INIT with
READY or DEGRADED; a start that outlasts its limit fails, on
trial restarts from BOOT; recovery mode takes an image and restarts; debug locks again at its end. -/
def Obligations.StartUpEventsComplete : Prop := ∀ (s : State),
  (∀ s1, s.m.phase = .boot → s.m.sec.recovery = false → s1 = s.commit s.m.bootWork → s1.m.sec.recovery = false →
    exec .bootComplete s = .next ({ s1 with evr := s1.evr.start s1.m }.commit s1.m.enterMemInit)) ∧
  (∀ (r : MemInitReport) m, s.m.phase = .memInit → s.m.fatal = false → r.calibFail = [] → r.bankFail = [] → r.recordsReadable = true →
    m = (((s.m.startAttic r.atticCode).startRepairs true r.atticCode).startMapOuts.spareCheck) → m.nv.exhausted = [] → m.fatal = false →
    exec (.memInitComplete r) s = .next (s.commit (((List.range 64).foldl (fun m p => m.onPort p fun x =>
      { x with link := .training }) m).setPhase .linkInit))) ∧
  (s.m.phase = .linkInit → s.m.fatal = false → (∀ p : Port, (s.m.port! p).link = .up) ∨ s.m.phaseAt + 2000000000 ≤ s.m.now →
    exec .linkInitComplete s = .next (s.commit (s.m.setPhase (if s.m.degradedCond then .degraded else .ready)).confirmTrial)) ∧
  (s.m.phase = .linkInit → s.m.fatal = false → s.m.sec.recovery = false → s.m.onTrial = false → s.m.phaseAt + 2000000000 < s.m.now → ∀ m,
    m = s.m.ev 0xB050 3 [(0, 1, 4), (1, 1, Phase.linkInit.code)] →
    exec .startupFail s = .next (s.commit { m with fatal := true, nv := { m.nv with lastFail := 4 } }.goFailed)) ∧
  (∀ code s1, s.m.overdue = some code → s.m.onTrial = true → s1 = s.commit (s.m.trialFails s.m.phase.code 2) →
    exec .startupFail s = .next ({ s1 with evr := s1.evr.boot }.commit s1.m.bootEntry)) ∧
  (∀ (img : ImageFile) t (a : ImageAuth) (i : ImageHdr), t = imgOf img.bytes → i = imgHeader t → s.m.sec.recovery = true → s.m.nv.passes t img.len a = true →
    i.type = 1 → s.m.nv.floor ≤ i.svn → exec (.firmwareImageTransfer img a) s =
    .next (s.commit { s.m with nv := { s.m.nv with
      slotA := { st := .pending, svn := i.svn, version := i.version.toNat, bodyHash := BitVec.ofNat 512 (imgNum t 24 64), valid := true }
      slotB := {} } })) ∧
  (s.m.sec.recovery = true → exec .activateFirmware s = .next (s.commit s.m.goOff)) ∧
  (0 < s.m.sec.dbgEnd → s.m.sec.dbgEnd ≤ s.m.now → exec .debugRelockExpiry s = .next (s.commit (({ s.m with sec := { s.m.sec with
    dbgEnd := 0 } }.ev 0xB021 0 [(0, 1, 1), (1, 8, s.m.now)]).async 1)))

/-- The recorder's windows, its freeze and its persisted counts (R649, R651, R655), and the metrology mailbox (R669, R670, R675). -/
def Obligations.RecorderAndMailboxEventsComplete : Prop := ∀ (s : State),
  (∀ e, s.m.phase ≠ .off → s.m.phase ≠ .boot → e = s.evr.roll s.m.now s.m.unjoined → exec .rateWindowClose s =
    .next ({ s with evr := e }.commit ((if s.evr.cntLost < e.cntLost then s.m.async 4 else s.m).evrTraffic s.evr e))) ∧
  (∀ t e, s.evr.frozenAt = some t → t + 10000000000 ≤ s.m.now → e = (s.evr.own s.m 0xE004 [(0, 8, t)]).thaw s.m → exec .freezeExpired s =
    .next ({ s with evr := e }.commit ((if s.evr.cntLost < e.cntLost then s.m.async 4 else s.m).evrTraffic s.evr e))) ∧
  (s.m.alive = true → s.evr.opsecSaved + 60 ≤ s.evr.opsec → exec .opsecPersist s =
    .next ({ s with evr := { s.evr with opsecSaved := s.evr.opsec, pcSaved := s.evr.pcycles } }.commit s.m)) ∧
  (∀ f, s.m.phase ≠ .off → s.m.frameBack f = false → exec (.mailboxFrame f true) s = .next (s.commit (s.m.acceptFrame f))) ∧
  (∀ f, s.m.met.held = some f → s.m.met.valid = true → s.m.met.heldAt + 100000000 ≤ s.m.now → exec .mailboxTimeout s =
    .next (s.commit ({ s.m with met := { s.m.met with valid := false } }.ev 0xC001 0 [(0, 8, f.frame.toNat)])))

/-- The Strongbox's own rows (R661 to R668, R688): they change the Strongbox alone, but for the bytes a private read sends on the bus. -/
def Obligations.StrongboxRowsComplete : Prop := ∀ (s : State), s.sbx.supplied = true →
  (∀ w, exec (.strongboxFrameSend w) s = .next { s with sbx := { s.sbx with
    sent := some { energy := BitVec.ofNat 64 (s.sbx.microJ / 1000), frame := BitVec.ofNat 64 s.sbx.frame, fwver := BitVec.ofNat 32 s.sbx.fwver, pcnt := BitVec.ofNat 32 s.sbx.pcnt, tamper := s.sbx.tamper, nvmFault := s.sbx.nvmFault, power := w }
    frame := s.sbx.frame + 1 } }) ∧
  (∀ j w, exec (.energyAccumulate j w) s = .next { s with sbx := { s.sbx with
    microJ := if s.sbx.params.startW ≤ w then s.sbx.microJ + j else s.sbx.microJ } }) ∧
  exec .energyNvmWrite s = .next { s with sbx := { s.sbx with nvmMilliJ := s.sbx.microJ / 1000 } } ∧
  exec (.busbarBelow40v true) s = .next { s with sbx := { s.sbx with
    supplied := false
    nvmMilliJ := s.sbx.microJ / 1000
    microJ := s.sbx.microJ / 1000 * 1000 } } ∧
  exec (.busbarBelow40v false) s = .next { s with sbx := { s.sbx with
    supplied := false
    nvmFault := true
    microJ := s.sbx.nvmMilliJ * 1000 } } ∧
  (∀ p, exec (.metrologySignedTransfer true (.params p)) s = .next { s with sbx := { s.sbx with
    pcnt := (s.sbx.pcnt + 1) % 2 ^ 32
    params := p } }) ∧
  (∀ v, exec (.metrologySignedTransfer true (.firmware v)) s = .next { s with sbx := { s.sbx with
    pcnt := (s.sbx.pcnt + 1) % 2 ^ 32
    fwver := v.toNat } }) ∧
  exec (.metrologySignedTransfer true .clearTamper) s = .next { s with sbx := { s.sbx with
    pcnt := (s.sbx.pcnt + 1) % 2 ^ 32
    tamper := false } } ∧
  exec (.metrologySignedTransfer true .clearNvmFault) s = .next { s with sbx := { s.sbx with nvmFault := false } } ∧
  (∀ op, exec (.metrologySignedTransfer false op) s = .next s) ∧
  (∀ off len, exec (.strongboxPrivateRead off len) s = .next (s.commit { s.m with sb := { s.m.sb with
    reply := (List.range len).map fun i => BitVec.ofNat 8 (byf s.sbx.image (off + i) 1) } })) ∧
  exec .sealLoopOpen s = .next { s with sbx := { s.sbx with loopOpen := true, tamper := true } }

/-- The sideband endpoint and the test port (R689 to R692, R696, R697): an endpoint that is up answers with its values; the test port's
instructions select what stands between TDI and TDO. -/
def Obligations.SidebandAndTestPortComplete : Prop := ∀ (s : State),
  (s.m.alive = true → s.m.sec.recovery = false →
    (∀ e : Byte, exec (.setEndpointId e) s = .next (s.commit { s.m with sb := { s.m.sb with eid := e.toNat, reply := [e] } })) ∧
    exec .getEndpointId s = .next (s.commit { s.m with sb := { s.m.sb with reply := [BitVec.ofNat 8 s.m.sb.eid] } }) ∧
    exec (.mctpDiscovery 5) s = .next (s.commit { s.m with sb := { s.m.sb with reply := [0, 1, 5] } }) ∧
    exec (.mctpDiscovery 4) s = .next (s.commit { s.m with sb := { s.m.sb with reply := leBytes 4 Config.mctpVersion.toNat } }) ∧
    exec .pldmDiscovery s = .next (s.commit { s.m with sb := { s.m.sb with reply := [0, 2] } }) ∧
    (∀ n v, s.m.sensor n = some v → exec (.pldmSensorRead n) s = .next (s.commit { s.m with sb := { s.m.sb with
      reply := leBytes 4 (BitVec.ofInt 32 v).toNat } }))) ∧
  exec .dynamicAddressAssignment s = .next (s.commit { s.m with sb := { s.m.sb with i3c := true } }) ∧
  (s.m.pins.pwrGood = true → exec .idcode s = .next (s.commit { s.m with test := .idcode, testData := idcode }) ∧
    ∀ c, exec (.bypass c) s = .next (s.commit { s.m with test := .bypass, testData := 0 })) ∧
  exec .trstAssert s = .next (s.commit { s.m with test := .testLogicReset })

/-- SPDM (R635 to R638): each request in its place moves its connection, answers with the values of Tables 18.5 and 18.6, and extends
its transcript, which GET_VERSION begins anew. A signature is ML-DSA-87's, a standard outside the spec, under the alias key over the
transcript; the base standard's order of the requests is the model's presumption. -/
def Obligations.SpdmRequestsComplete : Prop := ∀ (t : Transport) (s : State), s.m.spdmUp t = true → ∀ (c : SpdmConn)
    (put : SpdmState → Nat → List Byte → Mod) (sig : Nat → List Byte → List Byte), c = s.m.conn t →
  (∀ st code vs, put st code vs = s.m.setConn t { st := st, values := vs, transcript := c.transcript ++ BitVec.ofNat 8 code :: vs }) →
  (∀ code vs, sig code vs = vs ++ leBytes 4627 (Config.mldsaSign s.m.sec.aliasSeed (Config.spdmPrefix code ++
    leBytes 64 (Config.sha3 (c.transcript ++ BitVec.ofNat 8 code :: vs)).toNat) (Config.freeValue s.m.free)).toNat) →
  exec (.getVersion t) s = .next (s.commit (s.m.setConn t { st := .versioned, values := [0x13], transcript := [0x84, 0x13] })) ∧
  (c.st = .versioned → exec (.getCapabilities t) s = .next (s.commit (put .capable 0xE1 (leBytes 4 4096 ++ leBytes 4 65536)))) ∧
  (c.st = .capable → exec (.negotiateAlgorithms t) s = .next (s.commit (put .negotiated 0xE3 spdmAlgs))) ∧
  (c.st = .negotiated ∨ c.st = .session ∨ c.st = .secured →
    exec (.getDigests t) s = .next (s.commit (put c.st 0x81 (leBytes 64 (Config.sha3 s.m.chain.flatten).toNat))) ∧
    (∀ slot off len, exec (.getCertificate t slot off len) s = .next (s.commit (put c.st 0x82
      (if slot = 0 then (s.m.chain.flatten.drop off).take len else [])))) ∧
    exec (.challenge t 0) s = .next (s.commit ((put c.st 0x83 (sig 0x83 [])).spend 1)) ∧
    (∀ (i : Byte) sign, exec (.getMeasurements t i sign) s = .next (s.commit ((put c.st 0xE0
      (if sign then sig 0xE0 (s.m.measured i.toNat) else s.m.measured i.toNat)).spend 1))) ∧
    (∀ last, exec (.chunkSend t last) s = .next (s.commit (put c.st 0x85 c.values))) ∧
    exec (.chunkGet t) s = .next (s.commit (put c.st 0x86 c.values))) ∧
  (t = .doe → (c.st = .negotiated → exec (.keyExchange t) s = .next (s.commit ((put .session 0xE4 (sig 0xE4 [])).spend 1))) ∧
    (c.st = .session → exec (.finish t) s = .next (s.commit (put .secured 0xE5 []))) ∧
    (c.st = .secured → exec (.keyUpdate t) s = .next (s.commit (put .secured 0xE9 [])) ∧
      exec (.endSession t) s = .next (s.commit (put .negotiated 0xEC [])) ∧
      ∀ g, exec (.ideKm t (some g)) s = .next (s.commit { s.m with hif := { s.m.hif with ide := g } })))

/-- A step takes the command at the front of the queue and runs it with the queue's rest; on an empty queue one tick passes (the model's
choice, log entry 1). -/
def Obligations.StepRunsTheFront : Prop :=
  (∀ c rest s, s.pending = c :: rest → step s = exec c { s with pending := rest }) ∧ ∀ s, s.pending = [] → step s = .next (tick s)

/-- Module reset (R615) leaves every job closed, every queue unconfigured, no forced source, the time base free, the cap at 3,000 W, both
ceilings at OP7, THROT_C at 105 °C, MAX_RETX at 8; the machine starts so. -/
def Obligations.ModuleResetValues : Prop := ∀ x, x = State.reset.m ∨ (∃ m : Mod, x = m.bootEntry) →
  x.phase = .boot ∧ x.jobs = [] ∧ x.hif.q = [] ∧ x.hif.async = 0 ∧ x.pwr.acting = [] ∧ x.pwr.holdoff = none ∧ x.pwr.capW = 3000 ∧
  x.pwr.capOp = 7 ∧ x.pwr.thermOp = 7 ∧ x.pwr.throtC = 105 ∧ x.lnk.maxRetx = 8 ∧ x.lnk.epoch = 0 ∧ x.tb.state = .free ∧
  x.tb.nanoTicks = 0 ∧ x.sec.dbgEnd = 0 ∧ x.met.valid = false ∧ x.core = [] ∧ x.arr = [] ∧ x.fatal = false

/-- What every step keeps holds at the start. -/
def Obligations.InvariantsHoldAtReset : Prop :=
  Memory.wf State.reset.mem = true ∧ State.reset.m.out = {} ∧ State.reset.evr.bounded ∧ State.reset.evr.numbered

/-- Host memory stays in its canonical form, and no row leaves an event or a write behind. -/
def Obligations.MemoryStaysCanonical : Prop := ∀ s t, Memory.wf s.mem = true → s.m.out = {} → step s = .next t →
  Memory.wf t.mem = true ∧ t.m.out = {}

/-- The recorder keeps its sizes, and its ring and preserved area stay numbered without a gap (R645 to R647). -/
def Obligations.RecorderStaysNumbered : Prop := ∀ s t, s.evr.bounded → s.evr.numbered → step s = .next t →
  t.evr.bounded ∧ t.evr.numbered

/-- No reset, fault or command reaches the Strongbox (R659): but for its own rows, and the return of its supply, every command leaves it as
it was. The energy register never falls (R661), a failing hold-up apart (R663, log entry 29). -/
def Obligations.StrongboxIsOutOfReach : Prop := ∀ c s t, exec c s = .next t →
  ((∀ w, c ≠ .strongboxFrameSend w) → (∀ j w, c ≠ .energyAccumulate j w) → c ≠ .energyNvmWrite → (∀ h, c ≠ .busbarBelow40v h) →
    (∀ g op, c ≠ .metrologySignedTransfer g op) → c ≠ .sealLoopOpen → (∀ v, c ≠ .inputApplied v) → t.sbx = s.sbx) ∧
  (c ≠ .busbarBelow40v false → s.sbx.microJ / 1000 ≤ t.sbx.microJ / 1000)

/-- Every command runs to a next state and leaves the queue of waiting commands alone; the one stop is a register write that breaks R14. -/
def Obligations.EveryCommandRuns : Prop := ∀ c s, (∃ t, exec c s = .next t ∧ t.pending = s.pending) ∨
  ∃ b off wide v, c = .registerWrite b off wide v ∧ s.accessOk b off.toNat wide = false ∧ exec c s = .fault .brokenAccess

/-- The frame of host memory: a byte that no write of a row covers reads as before; a written one reads as the last write has it. -/
def Obligations.HostMemoryFrame : Prop := ∀ (s : State) (m : Mod) (a : Nat), Memory.wf s.mem = true →
  ((∀ w ∈ m.out.writes, a < w.addr ∨ w.addr + w.bytes.length ≤ a) → Memory.read (s.commit m).mem a = Memory.read s.mem a) ∧
  ∀ ws w, m.out.writes = ws ++ [w] → ∀ i (h : i < w.bytes.length), Memory.read (s.commit m).mem (w.addr + i) = w.bytes[i]

/-- A status reply reaches the queue's next completion slot in the layout of Table 15.5 (R545), PHASE and SQ_HEAD among it; no other byte
of host memory changes. -/
def Obligations.ReplyReachesHost : Prop := ∀ (s : State) (q : Queue) (id st d : Nat) (res : List (Nat × Nat × Nat)) (fl : Nat) (b : Nat),
  Memory.wf s.mem = true → s.m.out = {} → b = (s.m.q! q).cqBase + 32 * (s.m.q! q).cqTail → ∀ t, t = s.commit (s.m.reply q id st d res fl) →
  Memory.readN t.mem b 32 = pack ([(0, 4, id), (4, 2, st), (6, 1, q.val + (if (s.m.q! q).phase then 128 else 0)), (8, 2, (s.m.q! q).sqHead),
    (10, 2, fl), (12, 4, d)] ++ res) % 2 ^ 256 ∧
  ∀ a, a < b ∨ b + 32 ≤ a → Memory.read t.mem a = Memory.read s.mem a

/-- The checks of R542 in their order, for every unsigned host command of Table 15.6: the first failure alone decides the reply, and the
command has no other effect. -/
def Obligations.FailedChecksComplete : Prop := ∀ (i : Instr) (q : Queue) (p : Packet) (op : Nat) (s : State),
  i.hostOpcode = some (q, p, op) → op ∉ signedOps → s.m.takes op q p = true →
  (s.m.serving = false → op ∉ anyStateOps → exec i s = .next (s.commit (s.m.reply q (pktId p) stDeviceState s.m.phase.code))) ∧
  (s.m.serving = true ∨ op ∈ anyStateOps →
    (pktSigned p = true → exec i s = .next (s.commit (s.m.reply q (pktId p) stSignature))) ∧
    (pktSigned p = false → ∀ a, badField p = some a → exec i s = .next (s.commit (s.m.reply q (pktId p) stInvalidField a))) ∧
    (pktSigned p = false → badField p = none → pktJob p ≠ 0 → op ≠ 0x08 → s.m.job? (pktJob p) = none →
      exec i s = .next (s.commit (s.m.reply q (pktId p) stJobNotOpen))))

/-- In states other than READY and DEGRADED the module accepts only the six opcodes of R544; every other one, signed or not, completes with
DEVICE_STATE (a signed one renews the nonce, R633), and one of the six meets no such failure. -/
def Obligations.StateAllowsTheOpcode : Prop := ∀ (i : Instr) (q : Queue) (p : Packet) (op : Nat) (s : State),
  i.hostOpcode = some (q, p, op) → s.m.takes op q p = true → s.m.phase ≠ .ready → s.m.phase ≠ .degraded →
  (op ∉ ([0x01, 0x50, 0x51, 0x52, 0x5A, 0x60] : List Nat) → ∀ r, r = s.m.reply q (pktId p) stDeviceState s.m.phase.code →
    exec i s = .next (s.commit (if op ∈ ([0x53, 0x59, 0x5B] : List Nat) then r.renewNonce else r))) ∧
  (op ∈ ([0x01, 0x50, 0x51, 0x52, 0x5A, 0x60] : List Nat) → ∀ d, s.m.checkPkt p ≠ some (stDeviceState, d))

/-- A list fault (R52, R53): the lowest failing cause stops the list, fills SEQ_FAULT_INFO, is recorded, and ends the job's step, or between
steps halts its refresh lists. -/
def Obligations.ListFaultStopsTheStep : Prop := ∀ (i : Instr) (c : Core) (k : Slot) (op : Nat) (s : State) (sl : SlotSt) (d cause : Nat) (m : Mod),
  issueOf i = some (c, k, op) → s.faultsAt c k op sl d cause →
  m = ((s.m.onSlot c k fun x => { x with stopped := true }).onCore c fun x => { x with
    faultSlot := k
    listFault := true
    faultSeq := dSeq d
    faultJob := dJob d
    faultOp := dOp d
    faultCause := cause }) →
  exec i s = .next (s.commit ((m.ev 0xD110 0 [(0, 1, c.val), (1, 1, k.val), (2, 2, dJob d), (4, 4, dSeq d), (8, 1, dOp d), (9, 1, cause)]).onJob
    sl.l.job fun j => match j.run with
      | some r => { j with run := some { r with halted := true, causes := r.causes ++ [(s.m.now, stListFault, c.val)] } }
      | none => { j with halted := true }))

/-- A fenced core issues nothing (R35, R590). -/
def Obligations.FencedCoreIssuesNothing : Prop := ∀ (i : Instr) (c : Core) (k : Slot) (op : Nat) (s : State),
  issueOf i = some (c, k, op) → (s.m.core! c).fenced = true ∨ (s.m.core! c).fencing ≠ none → exec i s = .next (s.commit s.m)

/-- EVR_FREEZE and EVR_THAW (R651): staged records wait while frozen; the thaw appends them in staging order, after STAGING_LOST where records
were discarded; a freeze while frozen and a thaw while not change nothing. -/
def Obligations.ThawKeepsTheStagingOrder : Prop := ∀ (q : Queue) (p : Packet) (s : State), s.m.out = {} → s.evr.ring.length ≤ 65536 →
  (s.accepts 0x51 q p → ∃ t, exec (.evrFreeze q p) s = .next t ∧ t.mem = (s.commit (s.m.reply q (pktId p) stOK)).mem ∧
    (s.evr.frozenAt ≠ none → t.evr = s.evr) ∧
    (s.evr.frozenAt = none → t.evr = { s.evr with frozenAt := some s.m.now, lostInFreeze := 0 })) ∧
  (∀ r, s.evr.frozenAt ≠ none → (s.evr.stage r).ring = s.evr.ring ∧
    (s.evr.staging.length < 1024 → (s.evr.stage r).staging = s.evr.staging ++ [r]) ∧
    (1024 ≤ s.evr.staging.length → (s.evr.stage r).staging = s.evr.staging ∧ (s.evr.stage r).lostInFreeze = s.evr.lostInFreeze + 1)) ∧
  (s.accepts 0x52 q p → ∃ t, exec (.evrThaw q p) s = .next t ∧ t.mem = (s.commit (s.m.reply q (pktId p) stOK)).mem ∧
    (s.evr.frozenAt = none → t.evr = s.evr) ∧
    (s.evr.frozenAt ≠ none → t.evr.frozenAt = none ∧ t.evr.staging = [] ∧ ∀ l ring,
      l = (if s.evr.lostInFreeze = 0 then [] else [s.evr.mk' 0xE003 0 (pack [(0, 8, s.evr.lostInFreeze)]) s.m.now s.m.unjoined]) ++ s.evr.staging →
      ring = s.evr.ring ++ (l.zipIdx s.evr.next).map (fun x => { x.1 with index := x.2 }) → t.evr.ring = ring.drop (ring.length - 65536)))

/-- The rate limit (R648): the first 8 occurrences of a code in a window of ten operating seconds are recorded, later ones are suppressed and
counted and enter no ring; an occurrence past the window's end belongs to the next window. -/
def Obligations.RateLimitCountsEachWindow : Prop := ∀ (e : Evr) (v : Ev), v.mode = 0 → exempt v.code v.sev = false →
  (e.opsec / 10 ≤ e.winNo → ∀ w, w = Tab.get {} e.win v.code →
    (w.n < 8 → e.record v = { e with win := Tab.put e.win v.code { w with n := w.n + 1 } }.stage (e.mk' v.code v.sev v.payload v.time v.unjoined)) ∧
    (8 ≤ w.n → (e.record v).ring = e.ring ∧ (e.record v).pres = e.pres ∧ (e.record v).staging = e.staging ∧ (e.record v).cntSupp = e.cntSupp + 1 ∧
      (Tab.get {} (e.record v).win v.code).n = w.n)) ∧
  (e.winNo < e.opsec / 10 → ∃ x : Evr, e.record v = x.record v ∧ x.win = [] ∧ x.winNo = e.opsec / 10 ∧ x.opsec = e.opsec)

/-- The preserved area (R647): its INDEX only rises, and no command takes a record out of it but by overwriting the lowest index. -/
def Obligations.PreservedAreaIsNeverCleared : Prop := ∀ c s t, s.evr.pres.length ≤ 1024 → exec c s = .next t →
  ∃ l, t.evr.pres = (s.evr.pres ++ l).drop ((s.evr.pres ++ l).length - 1024) ∧ t.evr.presNext = s.evr.presNext + l.length

/-- The target point is the lowest of the request, CAP_OP and THERM_OP, and OP0 while a forced source acts (R571). -/
def Obligations.TargetIsTheLowestPoint : Prop := ∀ p : Pwr,
  (p.acting ≠ [] → p.target = 0) ∧
  (p.acting = [] → p.holdoff = none → (p.target ≤ p.opReq ∧ p.target ≤ p.capOp ∧ p.target ≤ p.thermOp) ∧
    (p.target = p.opReq ∨ p.target = p.capOp ∨ p.target = p.thermOp))

/-- CEL_GANG takes no write while any job is open (R299); PAN_FLOOR takes floors whose sum is at most 32, and any other write only sets
FLOOR_REJECT (R330). -/
def Obligations.RefusedConfigurationWrites : Prop := ∀ (c : Core) (v : W32) (s : State),
  (s.m.jobs ≠ [] → exec (.celGangWrite v) s = .next (s.commit s.m)) ∧
  (∀ f, f = [fld v.toNat 0 6, fld v.toNat 8 6, fld v.toNat 16 6, fld v.toNat 24 6] → s.m.reachable = true → (s.m.core! c).fenced = false →
    (32 < f.foldl (· + ·) 0 → exec (.panFloorWrite c v) s = .next (s.commit (s.m.onCore c fun x => { x with
      pan := { x.pan with floorReject := true } }))) ∧
    (f.foldl (· + ·) 0 ≤ 32 → exec (.panFloorWrite c v) s = .next (s.commit (s.m.onCore c fun x => { x with
      pan := { x.pan with floors := f } }))))

/-- The trees of a collective (R467): a member's parent has it among its children and no other member has; the root has no parent; the
relabelled ranks are as the rule computes them. -/
def Obligations.TreeParentsAndChildren : Prop := ∀ (g : Group) (sh r c : Nat), 0 < g.f → r < g.members.length → c < g.members.length →
  (g.rel sh r + sh) % g.members.length = r ∧
  (g.parent sh c = none ↔ g.rel sh c = 0) ∧
  (g.parent sh c = some r ↔ 0 < g.rel sh c ∧ g.rel sh r = (g.rel sh c - 1) / g.f) ∧
  (c ∈ g.children sh r ↔ g.f * g.rel sh r + 1 ≤ g.rel sh c ∧ g.rel sh c ≤ g.f * g.rel sh r + g.f) ∧
  (c ∈ g.children sh r ↔ g.parent sh c = some r)

/-- Conversion rounds to the nearest point, a tie to the even one (R158, R159); an element of a format of at most 8 bits that is converted to its
own format comes back. -/
def Obligations.ConversionRoundsToNearest : Prop :=
  (∀ (x : Fr), 0 ≤ x.num → 0 < x.den → (2 * ((x.rne : Int) * x.den - x.num)).natAbs ≤ x.den ∧
    ((2 * ((x.rne : Int) * x.den - x.num)).natAbs = x.den → x.rne % 2 = 0)) ∧
  ∀ f w, 3 ≤ f → f ≤ 7 → w < 2 ^ fmtBits f → ((fmtOf f).decode w).isFinite = true → (fmtOf f).encode .rne ((fmtOf f).decode w) = w

/-- SYNC_FORCE needs debug unlocked (R413, R640, R641): while locked it completes with DEBUG_LOCKED and no sync object changes. -/
def Obligations.LockedSyncForceIsRefused : Prop := ∀ (q : Queue) (p : Packet) (s : State), s.accepts 0x5C q p → s.m.sec.dbgEnd ≤ s.m.now →
  exec (.syncForce q p) s = .next (s.commit (s.m.reply q (pktId p) stDebugLocked))

end Statements
end

