-- ==== Sys2Proof/Laws/Tab.lean ====
section
/-! SUPPORT. Tables in their canonical form: keys strictly rising, what a change of one key does to every key. -/
namespace Sys2Proof.Machine

theorem Tab.find_lt {α : Type} : ∀ (t : Tab α) (lo k : Nat), Tab.risesFrom lo t → k < lo → Tab.find t k = none
  | [], _, _, _, _ => rfl
  | (a, v) :: t, lo, k, h, hk => by
    have : k ≠ a := by have := h.1; omega
    simp only [Tab.find, this, if_false]
    exact Tab.find_lt t (a + 1) k h.2 (by have := h.1; omega)

theorem Tab.risesFrom_mono {α : Type} : ∀ (t : Tab α) (lo lo' : Nat), lo' ≤ lo → Tab.risesFrom lo t → Tab.risesFrom lo' t
  | [], _, _, _, _ => trivial
  | (_, _) :: _, _, _, h, h' => ⟨Nat.le_trans h h'.1, h'.2⟩

theorem Tab.put_rises {α : Type} : ∀ (t : Tab α) (lo k : Nat) (w : α), Tab.risesFrom lo t → lo ≤ k → Tab.risesFrom lo (Tab.put t k w)
  | [], _, _, _, _, hk => ⟨hk, trivial⟩
  | (a, v) :: t, lo, k, w, h, hk => by
    unfold Tab.put
    split
    · subst_vars; exact ⟨hk, h.2⟩
    · split
      · exact ⟨hk, by omega, h.2⟩
      · exact ⟨h.1, Tab.put_rises t (a + 1) k w h.2 (by omega)⟩

theorem Tab.del_rises {α : Type} : ∀ (t : Tab α) (lo k : Nat), Tab.risesFrom lo t → Tab.risesFrom lo (Tab.del t k)
  | [], _, _, _ => trivial
  | (a, v) :: t, lo, k, h => by
    unfold Tab.del
    split
    · exact Tab.risesFrom_mono t _ _ (by have := h.1; omega) h.2
    · split
      · exact h
      · exact ⟨h.1, Tab.del_rises t (a + 1) k h.2⟩

theorem Tab.find_put {α : Type} : ∀ (t : Tab α) (k j : Nat) (w : α), Tab.find (Tab.put t k w) j = if j = k then some w else Tab.find t j
  | [], k, j, w => rfl
  | (a, v) :: t, k, j, w => by
    unfold Tab.put
    split
    · rename_i h; subst h; by_cases hj : j = k <;> simp [Tab.find, hj]
    · split
      · by_cases hj : j = k <;> simp [Tab.find, hj]
      · have := Tab.find_put t k j w
        by_cases hj : j = a
        · subst hj; simp only [Tab.find, if_true]; rw [if_neg (by omega)]
        · simp only [Tab.find, hj, if_false, this]

theorem Tab.find_del {α : Type} : ∀ (t : Tab α) (lo k j : Nat), Tab.risesFrom lo t →
    Tab.find (Tab.del t k) j = if j = k then none else Tab.find t j
  | [], _, k, j, _ => by by_cases hj : j = k <;> simp [Tab.del, Tab.find, hj]
  | (a, v) :: t, lo, k, j, h => by
    unfold Tab.del
    split
    · rename_i hk
      by_cases hj : j = k
      · simp only [hj, if_true]; exact Tab.find_lt t (a + 1) k h.2 (by omega)
      · have : j ≠ a := by omega
        simp [Tab.find, hj, this]
    · split
      · by_cases hj : j = k
        · simp only [hj, if_true]
          exact Tab.find_lt ((a, v) :: t) a k ⟨Nat.le_refl _, h.2⟩ (by omega)
        · simp [hj]
      · have := Tab.find_del t (a + 1) k j h.2
        by_cases hj : j = a
        · have : a ≠ k := by omega
          simp [Tab.find, hj, this]
        · simp [Tab.find, hj, this]

theorem Tab.set_rises {α : Type} [DecidableEq α] (d : α) (t : Tab α) (lo k : Nat) (w : α) (h : Tab.risesFrom lo t) (hk : lo ≤ k) :
    Tab.risesFrom lo (Tab.set d t k w) := by
  unfold Tab.set; split
  · exact Tab.del_rises t lo k h
  · exact Tab.put_rises t lo k w h hk

theorem Tab.get_set {α : Type} [DecidableEq α] (d : α) (t : Tab α) (lo k j : Nat) (w : α) (h : Tab.risesFrom lo t) :
    Tab.get d (Tab.set d t k w) j = if j = k then w else Tab.get d t j := by
  unfold Tab.set Tab.get; split
  · rename_i hw; rw [Tab.find_del t lo k j h]; split <;> simp [hw]
  · rw [Tab.find_put]; split <;> simp

theorem Tab.get_put {α : Type} (d : α) (t : Tab α) (k j : Nat) (w : α) :
    Tab.get d (Tab.put t k w) j = if j = k then w else Tab.get d t j := by
  unfold Tab.get; rw [Tab.find_put]; split <;> simp

theorem Tab.get_upd_same {α : Type} [DecidableEq α] (d : α) (t : Tab α) (lo k : Nat) (f : α → α) (h : Tab.risesFrom lo t) :
    Tab.get d (Tab.upd d t k f) k = f (Tab.get d t k) := by
  simp [Tab.upd, Tab.get_set d t lo k k _ h]

theorem Tab.get_upd_other {α : Type} [DecidableEq α] (d : α) (t : Tab α) (lo k j : Nat) (f : α → α) (h : Tab.risesFrom lo t) (hj : j ≠ k) :
    Tab.get d (Tab.upd d t k f) j = Tab.get d t j := by
  simp [Tab.upd, Tab.get_set d t lo k j _ h, hj]

theorem Tab.setMany_rises {α : Type} [DecidableEq α] (d : α) : ∀ (vs : List α) (t : Tab α) (k lo : Nat), Tab.risesFrom lo t → lo ≤ k →
    Tab.risesFrom lo (Tab.setMany d t k vs)
  | [], _, _, _, h, _ => h
  | v :: vs, t, k, lo, h, hk => Tab.setMany_rises d vs _ _ _ (Tab.set_rises d t lo k v h hk) (by omega)

/-- A run of values: the keys it covers read them, every other key as before. -/
theorem Tab.get_setMany {α : Type} [DecidableEq α] (d : α) : ∀ (vs : List α) (t : Tab α) (k lo j : Nat), Tab.risesFrom lo t → lo ≤ k →
    Tab.get d (Tab.setMany d t k vs) j = if k ≤ j ∧ j < k + vs.length then vs.getD (j - k) d else Tab.get d t j
  | [], t, k, lo, j, _, _ => by
    rw [if_neg (by simp only [List.length_nil]; omega)]; rfl
  | v :: vs, t, k, lo, j, h, hk => by
    unfold Tab.setMany
    rw [Tab.get_setMany d vs _ _ lo j (Tab.set_rises d t lo k v h hk) (by omega), Tab.get_set d t lo k j v h]
    by_cases h1 : j = k
    · subst h1; rw [if_neg (by omega), if_pos rfl, if_pos (by simp)]; simp
    · by_cases h2 : k < j ∧ j < k + (vs.length + 1)
      · rw [if_pos (by omega), if_pos (by simp; omega)]
        obtain ⟨n, rfl⟩ : ∃ n, j = k + 1 + n := ⟨j - (k + 1), by omega⟩
        have e1 : k + 1 + n - (k + 1) = n := by omega
        have e2 : k + 1 + n - k = n + 1 := by omega
        rw [e1, e2]; rfl
      · rw [if_neg (by omega), if_neg h1, if_neg (by simp; omega)]

end Sys2Proof.Machine
end

