-- ==== Sys2Proof/Laws/Memory.lean ====
section
/-! SUPPORT. Host memory: every write keeps the canonical form; what a byte reads after a write, and after a row. -/
namespace Sys2Proof.Machine

theorem Memory.wfFrom_iff : ∀ (mem : List Host.Cell) (lo : Nat),
    Memory.wfFrom lo mem = true ↔ Tab.risesFrom lo mem ∧ ∀ p ∈ mem, p.2 ≠ 0
  | [], _ => by simp [Memory.wfFrom, Tab.risesFrom]
  | (a, b) :: t, lo => by
    simp only [Memory.wfFrom, Bool.and_eq_true, decide_eq_true_eq, bne_iff_ne, Memory.wfFrom_iff t (a + 1), Tab.risesFrom,
      List.mem_cons, forall_eq_or_imp]
    constructor
    · rintro ⟨⟨h1, h2⟩, h3, h4⟩; exact ⟨⟨h1, h3⟩, h2, h4⟩
    · rintro ⟨⟨h1, h3⟩, h2, h4⟩; exact ⟨⟨h1, h2⟩, h3, h4⟩

theorem Memory.wf_rises {mem : List Host.Cell} (h : Memory.wf mem = true) : Tab.risesFrom 0 mem := ((Memory.wfFrom_iff mem 0).1 h).1

theorem Tab.mem_put {α : Type} : ∀ (t : Tab α) (k : Nat) (w : α) (p : Nat × α), p ∈ Tab.put t k w → p = (k, w) ∨ p ∈ t
  | [], _, _, _, h => by simpa [Tab.put] using h
  | (a, v) :: t, k, w, p, h => by
    unfold Tab.put at h
    split at h
    · rcases List.mem_cons.1 h with h | h
      · exact .inl h
      · exact .inr (List.mem_cons_of_mem _ h)
    · split at h
      · rcases List.mem_cons.1 h with h | h
        · exact .inl h
        · exact .inr h
      · rcases List.mem_cons.1 h with h | h
        · exact .inr (by simp [h])
        · rcases Tab.mem_put t k w p h with h | h
          · exact .inl h
          · exact .inr (List.mem_cons_of_mem _ h)

theorem Tab.mem_del {α : Type} : ∀ (t : Tab α) (k : Nat) (p : Nat × α), p ∈ Tab.del t k → p ∈ t
  | [], _, _, h => h
  | (a, v) :: t, k, p, h => by
    unfold Tab.del at h
    split at h
    · exact List.mem_cons_of_mem _ h
    · split at h
      · exact h
      · rcases List.mem_cons.1 h with h | h
        · simp [h]
        · exact List.mem_cons_of_mem _ (Tab.mem_del t k p h)

theorem Memory.write_wf (mem : List Host.Cell) (a : Nat) (b : Byte) (h : Memory.wf mem = true) : Memory.wf (Memory.write mem a b) = true := by
  obtain ⟨h1, h2⟩ := (Memory.wfFrom_iff mem 0).1 h
  refine (Memory.wfFrom_iff _ 0).2 ⟨Tab.set_rises 0 mem 0 a b h1 (Nat.zero_le a), fun p hp => ?_⟩
  unfold Memory.write Tab.set at hp
  split at hp
  · exact h2 p (Tab.mem_del mem a p hp)
  · rcases Tab.mem_put mem a b p hp with rfl | hp
    · assumption
    · exact h2 p hp

theorem Memory.writeMany_wf : ∀ (bs : List Byte) (mem : List Host.Cell) (a : Nat), Memory.wf mem = true →
    Memory.wf (Memory.writeMany mem a bs) = true
  | [], _, _, h => h
  | b :: bs, mem, a, h => Memory.writeMany_wf bs _ (a + 1) (Memory.write_wf mem a b h)

theorem Memory.writes_wf (ws : List HWrite) : ∀ (mem : List Host.Cell), Memory.wf mem = true →
    Memory.wf (ws.foldl (fun mem w => Memory.writeMany mem w.addr w.bytes) mem) = true := by
  induction ws with
  | nil => exact fun _ h => h
  | cons w ws ih => exact fun mem h => ih _ (Memory.writeMany_wf w.bytes mem w.addr h)

/-- A read after a write of one byte. -/
theorem Memory.read_write (mem : List Host.Cell) (a j : Nat) (b : Byte) (h : Memory.wf mem = true) :
    Memory.read (Memory.write mem a b) j = if j = a then b else Memory.read mem j :=
  Tab.get_set 0 mem 0 a j b (Memory.wf_rises h)

/-- A read after a write of a run of bytes. -/
theorem Memory.read_writeMany (mem : List Host.Cell) (a j : Nat) (bs : List Byte) (h : Memory.wf mem = true) :
    Memory.read (Memory.writeMany mem a bs) j = if a ≤ j ∧ j < a + bs.length then bs.getD (j - a) 0 else Memory.read mem j :=
  Tab.get_setMany 0 bs mem a 0 j (Memory.wf_rises h) (Nat.zero_le a)

/-- What a row emitted goes to host memory in order; every byte outside those writes reads as before. -/
theorem Memory.read_writes (ws : List HWrite) (j : Nat) : ∀ (mem : List Host.Cell), Memory.wf mem = true →
    (∀ w ∈ ws, j < w.addr ∨ w.addr + w.bytes.length ≤ j) →
    Memory.read (ws.foldl (fun mem w => Memory.writeMany mem w.addr w.bytes) mem) j = Memory.read mem j := by
  induction ws with
  | nil => intro mem _ _; rfl
  | cons w ws ih =>
    intro mem h hw
    rw [List.foldl_cons, ih _ (Memory.writeMany_wf w.bytes mem w.addr h) (fun x hx => hw x (List.mem_cons_of_mem _ hx)),
      Memory.read_writeMany mem w.addr j w.bytes h, if_neg]
    have := hw w List.mem_cons_self
    omega

end Sys2Proof.Machine
end

