-- ==== Sys2Proof/Laws/State.lean ====
section
/-! SUPPORT. One lemma per field of the module per named update: what the update leaves alone, and what reads back of the
part it changes. -/
namespace Sys2Proof.Machine

/-! ### Mod.ev -/

@[simp] theorem Mod.ev_phase (m : Mod) (code sev : Nat) (fs : List (Nat × Nat × Nat)) : (m.ev code sev fs).phase = m.phase := rfl
@[simp] theorem Mod.ev_phaseAt (m : Mod) (code sev : Nat) (fs : List (Nat × Nat × Nat)) : (m.ev code sev fs).phaseAt = m.phaseAt := rfl
@[simp] theorem Mod.ev_pins (m : Mod) (code sev : Nat) (fs : List (Nat × Nat × Nat)) : (m.ev code sev fs).pins = m.pins := rfl
@[simp] theorem Mod.ev_tb (m : Mod) (code sev : Nat) (fs : List (Nat × Nat × Nat)) : (m.ev code sev fs).tb = m.tb := rfl
@[simp] theorem Mod.ev_nv (m : Mod) (code sev : Nat) (fs : List (Nat × Nat × Nat)) : (m.ev code sev fs).nv = m.nv := rfl
@[simp] theorem Mod.ev_sec (m : Mod) (code sev : Nat) (fs : List (Nat × Nat × Nat)) : (m.ev code sev fs).sec = m.sec := rfl
@[simp] theorem Mod.ev_hif (m : Mod) (code sev : Nat) (fs : List (Nat × Nat × Nat)) : (m.ev code sev fs).hif = m.hif := rfl
@[simp] theorem Mod.ev_fwver (m : Mod) (code sev : Nat) (fs : List (Nat × Nat × Nat)) : (m.ev code sev fs).fwver = m.fwver := rfl
@[simp] theorem Mod.ev_autoFenced (m : Mod) (code sev : Nat) (fs : List (Nat × Nat × Nat)) : (m.ev code sev fs).autoFenced = m.autoFenced := rfl
@[simp] theorem Mod.ev_lastAttempts (m : Mod) (code sev : Nat) (fs : List (Nat × Nat × Nat)) : (m.ev code sev fs).lastAttempts = m.lastAttempts := rfl
@[simp] theorem Mod.ev_devCnt (m : Mod) (code sev : Nat) (fs : List (Nat × Nat × Nat)) : (m.ev code sev fs).devCnt = m.devCnt := rfl
@[simp] theorem Mod.ev_deferFence (m : Mod) (code sev : Nat) (fs : List (Nat × Nat × Nat)) : (m.ev code sev fs).deferFence = m.deferFence := rfl
@[simp] theorem Mod.ev_deferUnfence (m : Mod) (code sev : Nat) (fs : List (Nat × Nat × Nat)) : (m.ev code sev fs).deferUnfence = m.deferUnfence := rfl
@[simp] theorem Mod.ev_fatal (m : Mod) (code sev : Nat) (fs : List (Nat × Nat × Nat)) : (m.ev code sev fs).fatal = m.fatal := rfl
@[simp] theorem Mod.ev_ids (m : Mod) (code sev : Nat) (fs : List (Nat × Nat × Nat)) : (m.ev code sev fs).ids = m.ids := rfl
@[simp] theorem Mod.ev_orders (m : Mod) (code sev : Nat) (fs : List (Nat × Nat × Nat)) : (m.ev code sev fs).orders = m.orders := rfl
@[simp] theorem Mod.ev_free (m : Mod) (code sev : Nat) (fs : List (Nat × Nat × Nat)) : (m.ev code sev fs).free = m.free := rfl
@[simp] theorem Mod.ev_core (m : Mod) (code sev : Nat) (fs : List (Nat × Nat × Nat)) : (m.ev code sev fs).core = m.core := rfl
@[simp] theorem Mod.ev_arr (m : Mod) (code sev : Nat) (fs : List (Nat × Nat × Nat)) : (m.ev code sev fs).arr = m.arr := rfl
@[simp] theorem Mod.ev_res (m : Mod) (code sev : Nat) (fs : List (Nat × Nat × Nat)) : (m.ev code sev fs).res = m.res := rfl
@[simp] theorem Mod.ev_attic (m : Mod) (code sev : Nat) (fs : List (Nat × Nat × Nat)) : (m.ev code sev fs).attic = m.attic := rfl
@[simp] theorem Mod.ev_cel (m : Mod) (code sev : Nat) (fs : List (Nat × Nat × Nat)) : (m.ev code sev fs).cel = m.cel := rfl
@[simp] theorem Mod.ev_images (m : Mod) (code sev : Nat) (fs : List (Nat × Nat × Nat)) : (m.ev code sev fs).images = m.images := rfl
@[simp] theorem Mod.ev_freed (m : Mod) (code sev : Nat) (fs : List (Nat × Nat × Nat)) : (m.ev code sev fs).freed = m.freed := rfl
@[simp] theorem Mod.ev_num (m : Mod) (code sev : Nat) (fs : List (Nat × Nat × Nat)) : (m.ev code sev fs).num = m.num := rfl
@[simp] theorem Mod.ev_upd (m : Mod) (code sev : Nat) (fs : List (Nat × Nat × Nat)) : (m.ev code sev fs).upd = m.upd := rfl
@[simp] theorem Mod.ev_lnk (m : Mod) (code sev : Nat) (fs : List (Nat × Nat × Nat)) : (m.ev code sev fs).lnk = m.lnk := rfl
@[simp] theorem Mod.ev_col (m : Mod) (code sev : Nat) (fs : List (Nat × Nat × Nat)) : (m.ev code sev fs).col = m.col := rfl
@[simp] theorem Mod.ev_jobs (m : Mod) (code sev : Nat) (fs : List (Nat × Nat × Nat)) : (m.ev code sev fs).jobs = m.jobs := rfl
@[simp] theorem Mod.ev_pwr (m : Mod) (code sev : Nat) (fs : List (Nat × Nat × Nat)) : (m.ev code sev fs).pwr = m.pwr := rfl
@[simp] theorem Mod.ev_sb (m : Mod) (code sev : Nat) (fs : List (Nat × Nat × Nat)) : (m.ev code sev fs).sb = m.sb := rfl
@[simp] theorem Mod.ev_test (m : Mod) (code sev : Nat) (fs : List (Nat × Nat × Nat)) : (m.ev code sev fs).test = m.test := rfl
@[simp] theorem Mod.ev_testData (m : Mod) (code sev : Nat) (fs : List (Nat × Nat × Nat)) : (m.ev code sev fs).testData = m.testData := rfl
@[simp] theorem Mod.ev_spdm (m : Mod) (code sev : Nat) (fs : List (Nat × Nat × Nat)) : (m.ev code sev fs).spdm = m.spdm := rfl
@[simp] theorem Mod.ev_met (m : Mod) (code sev : Nat) (fs : List (Nat × Nat × Nat)) : (m.ev code sev fs).met = m.met := rfl

/-! ### Mod.hostWrite -/

@[simp] theorem Mod.hostWrite_phase (m : Mod) (a : Nat) (bs : List Byte) : (m.hostWrite a bs).phase = m.phase := rfl
@[simp] theorem Mod.hostWrite_phaseAt (m : Mod) (a : Nat) (bs : List Byte) : (m.hostWrite a bs).phaseAt = m.phaseAt := rfl
@[simp] theorem Mod.hostWrite_pins (m : Mod) (a : Nat) (bs : List Byte) : (m.hostWrite a bs).pins = m.pins := rfl
@[simp] theorem Mod.hostWrite_tb (m : Mod) (a : Nat) (bs : List Byte) : (m.hostWrite a bs).tb = m.tb := rfl
@[simp] theorem Mod.hostWrite_nv (m : Mod) (a : Nat) (bs : List Byte) : (m.hostWrite a bs).nv = m.nv := rfl
@[simp] theorem Mod.hostWrite_sec (m : Mod) (a : Nat) (bs : List Byte) : (m.hostWrite a bs).sec = m.sec := rfl
@[simp] theorem Mod.hostWrite_hif (m : Mod) (a : Nat) (bs : List Byte) : (m.hostWrite a bs).hif = m.hif := rfl
@[simp] theorem Mod.hostWrite_fwver (m : Mod) (a : Nat) (bs : List Byte) : (m.hostWrite a bs).fwver = m.fwver := rfl
@[simp] theorem Mod.hostWrite_autoFenced (m : Mod) (a : Nat) (bs : List Byte) : (m.hostWrite a bs).autoFenced = m.autoFenced := rfl
@[simp] theorem Mod.hostWrite_lastAttempts (m : Mod) (a : Nat) (bs : List Byte) : (m.hostWrite a bs).lastAttempts = m.lastAttempts := rfl
@[simp] theorem Mod.hostWrite_devCnt (m : Mod) (a : Nat) (bs : List Byte) : (m.hostWrite a bs).devCnt = m.devCnt := rfl
@[simp] theorem Mod.hostWrite_deferFence (m : Mod) (a : Nat) (bs : List Byte) : (m.hostWrite a bs).deferFence = m.deferFence := rfl
@[simp] theorem Mod.hostWrite_deferUnfence (m : Mod) (a : Nat) (bs : List Byte) : (m.hostWrite a bs).deferUnfence = m.deferUnfence := rfl
@[simp] theorem Mod.hostWrite_fatal (m : Mod) (a : Nat) (bs : List Byte) : (m.hostWrite a bs).fatal = m.fatal := rfl
@[simp] theorem Mod.hostWrite_ids (m : Mod) (a : Nat) (bs : List Byte) : (m.hostWrite a bs).ids = m.ids := rfl
@[simp] theorem Mod.hostWrite_orders (m : Mod) (a : Nat) (bs : List Byte) : (m.hostWrite a bs).orders = m.orders := rfl
@[simp] theorem Mod.hostWrite_free (m : Mod) (a : Nat) (bs : List Byte) : (m.hostWrite a bs).free = m.free := rfl
@[simp] theorem Mod.hostWrite_core (m : Mod) (a : Nat) (bs : List Byte) : (m.hostWrite a bs).core = m.core := rfl
@[simp] theorem Mod.hostWrite_arr (m : Mod) (a : Nat) (bs : List Byte) : (m.hostWrite a bs).arr = m.arr := rfl
@[simp] theorem Mod.hostWrite_res (m : Mod) (a : Nat) (bs : List Byte) : (m.hostWrite a bs).res = m.res := rfl
@[simp] theorem Mod.hostWrite_attic (m : Mod) (a : Nat) (bs : List Byte) : (m.hostWrite a bs).attic = m.attic := rfl
@[simp] theorem Mod.hostWrite_cel (m : Mod) (a : Nat) (bs : List Byte) : (m.hostWrite a bs).cel = m.cel := rfl
@[simp] theorem Mod.hostWrite_images (m : Mod) (a : Nat) (bs : List Byte) : (m.hostWrite a bs).images = m.images := rfl
@[simp] theorem Mod.hostWrite_freed (m : Mod) (a : Nat) (bs : List Byte) : (m.hostWrite a bs).freed = m.freed := rfl
@[simp] theorem Mod.hostWrite_num (m : Mod) (a : Nat) (bs : List Byte) : (m.hostWrite a bs).num = m.num := rfl
@[simp] theorem Mod.hostWrite_upd (m : Mod) (a : Nat) (bs : List Byte) : (m.hostWrite a bs).upd = m.upd := rfl
@[simp] theorem Mod.hostWrite_lnk (m : Mod) (a : Nat) (bs : List Byte) : (m.hostWrite a bs).lnk = m.lnk := rfl
@[simp] theorem Mod.hostWrite_col (m : Mod) (a : Nat) (bs : List Byte) : (m.hostWrite a bs).col = m.col := rfl
@[simp] theorem Mod.hostWrite_jobs (m : Mod) (a : Nat) (bs : List Byte) : (m.hostWrite a bs).jobs = m.jobs := rfl
@[simp] theorem Mod.hostWrite_pwr (m : Mod) (a : Nat) (bs : List Byte) : (m.hostWrite a bs).pwr = m.pwr := rfl
@[simp] theorem Mod.hostWrite_sb (m : Mod) (a : Nat) (bs : List Byte) : (m.hostWrite a bs).sb = m.sb := rfl
@[simp] theorem Mod.hostWrite_test (m : Mod) (a : Nat) (bs : List Byte) : (m.hostWrite a bs).test = m.test := rfl
@[simp] theorem Mod.hostWrite_testData (m : Mod) (a : Nat) (bs : List Byte) : (m.hostWrite a bs).testData = m.testData := rfl
@[simp] theorem Mod.hostWrite_spdm (m : Mod) (a : Nat) (bs : List Byte) : (m.hostWrite a bs).spdm = m.spdm := rfl
@[simp] theorem Mod.hostWrite_met (m : Mod) (a : Nat) (bs : List Byte) : (m.hostWrite a bs).met = m.met := rfl

/-! ### Mod.async -/

@[simp] theorem Mod.async_out (m : Mod) (b : Nat) : (m.async b).out = m.out := by unfold Mod.async; split <;> rfl
@[simp] theorem Mod.async_phase (m : Mod) (b : Nat) : (m.async b).phase = m.phase := by unfold Mod.async; split <;> rfl
@[simp] theorem Mod.async_phaseAt (m : Mod) (b : Nat) : (m.async b).phaseAt = m.phaseAt := by unfold Mod.async; split <;> rfl
@[simp] theorem Mod.async_pins (m : Mod) (b : Nat) : (m.async b).pins = m.pins := by unfold Mod.async; split <;> rfl
@[simp] theorem Mod.async_tb (m : Mod) (b : Nat) : (m.async b).tb = m.tb := by unfold Mod.async; split <;> rfl
@[simp] theorem Mod.async_nv (m : Mod) (b : Nat) : (m.async b).nv = m.nv := by unfold Mod.async; split <;> rfl
@[simp] theorem Mod.async_sec (m : Mod) (b : Nat) : (m.async b).sec = m.sec := by unfold Mod.async; split <;> rfl
@[simp] theorem Mod.async_fwver (m : Mod) (b : Nat) : (m.async b).fwver = m.fwver := by unfold Mod.async; split <;> rfl
@[simp] theorem Mod.async_autoFenced (m : Mod) (b : Nat) : (m.async b).autoFenced = m.autoFenced := by unfold Mod.async; split <;> rfl
@[simp] theorem Mod.async_lastAttempts (m : Mod) (b : Nat) : (m.async b).lastAttempts = m.lastAttempts := by unfold Mod.async; split <;> rfl
@[simp] theorem Mod.async_devCnt (m : Mod) (b : Nat) : (m.async b).devCnt = m.devCnt := by unfold Mod.async; split <;> rfl
@[simp] theorem Mod.async_deferFence (m : Mod) (b : Nat) : (m.async b).deferFence = m.deferFence := by unfold Mod.async; split <;> rfl
@[simp] theorem Mod.async_deferUnfence (m : Mod) (b : Nat) : (m.async b).deferUnfence = m.deferUnfence := by unfold Mod.async; split <;> rfl
@[simp] theorem Mod.async_fatal (m : Mod) (b : Nat) : (m.async b).fatal = m.fatal := by unfold Mod.async; split <;> rfl
@[simp] theorem Mod.async_ids (m : Mod) (b : Nat) : (m.async b).ids = m.ids := by unfold Mod.async; split <;> rfl
@[simp] theorem Mod.async_orders (m : Mod) (b : Nat) : (m.async b).orders = m.orders := by unfold Mod.async; split <;> rfl
@[simp] theorem Mod.async_free (m : Mod) (b : Nat) : (m.async b).free = m.free := by unfold Mod.async; split <;> rfl
@[simp] theorem Mod.async_core (m : Mod) (b : Nat) : (m.async b).core = m.core := by unfold Mod.async; split <;> rfl
@[simp] theorem Mod.async_arr (m : Mod) (b : Nat) : (m.async b).arr = m.arr := by unfold Mod.async; split <;> rfl
@[simp] theorem Mod.async_res (m : Mod) (b : Nat) : (m.async b).res = m.res := by unfold Mod.async; split <;> rfl
@[simp] theorem Mod.async_attic (m : Mod) (b : Nat) : (m.async b).attic = m.attic := by unfold Mod.async; split <;> rfl
@[simp] theorem Mod.async_cel (m : Mod) (b : Nat) : (m.async b).cel = m.cel := by unfold Mod.async; split <;> rfl
@[simp] theorem Mod.async_images (m : Mod) (b : Nat) : (m.async b).images = m.images := by unfold Mod.async; split <;> rfl
@[simp] theorem Mod.async_freed (m : Mod) (b : Nat) : (m.async b).freed = m.freed := by unfold Mod.async; split <;> rfl
@[simp] theorem Mod.async_num (m : Mod) (b : Nat) : (m.async b).num = m.num := by unfold Mod.async; split <;> rfl
@[simp] theorem Mod.async_upd (m : Mod) (b : Nat) : (m.async b).upd = m.upd := by unfold Mod.async; split <;> rfl
@[simp] theorem Mod.async_lnk (m : Mod) (b : Nat) : (m.async b).lnk = m.lnk := by unfold Mod.async; split <;> rfl
@[simp] theorem Mod.async_col (m : Mod) (b : Nat) : (m.async b).col = m.col := by unfold Mod.async; split <;> rfl
@[simp] theorem Mod.async_jobs (m : Mod) (b : Nat) : (m.async b).jobs = m.jobs := by unfold Mod.async; split <;> rfl
@[simp] theorem Mod.async_pwr (m : Mod) (b : Nat) : (m.async b).pwr = m.pwr := by unfold Mod.async; split <;> rfl
@[simp] theorem Mod.async_sb (m : Mod) (b : Nat) : (m.async b).sb = m.sb := by unfold Mod.async; split <;> rfl
@[simp] theorem Mod.async_test (m : Mod) (b : Nat) : (m.async b).test = m.test := by unfold Mod.async; split <;> rfl
@[simp] theorem Mod.async_testData (m : Mod) (b : Nat) : (m.async b).testData = m.testData := by unfold Mod.async; split <;> rfl
@[simp] theorem Mod.async_spdm (m : Mod) (b : Nat) : (m.async b).spdm = m.spdm := by unfold Mod.async; split <;> rfl
@[simp] theorem Mod.async_met (m : Mod) (b : Nat) : (m.async b).met = m.met := by unfold Mod.async; split <;> rfl

/-! ### Mod.onCore -/

@[simp] theorem Mod.onCore_out (m : Mod) (c : Nat) (f : CoreSt → CoreSt) : (m.onCore c f).out = m.out := rfl
@[simp] theorem Mod.onCore_phase (m : Mod) (c : Nat) (f : CoreSt → CoreSt) : (m.onCore c f).phase = m.phase := rfl
@[simp] theorem Mod.onCore_phaseAt (m : Mod) (c : Nat) (f : CoreSt → CoreSt) : (m.onCore c f).phaseAt = m.phaseAt := rfl
@[simp] theorem Mod.onCore_pins (m : Mod) (c : Nat) (f : CoreSt → CoreSt) : (m.onCore c f).pins = m.pins := rfl
@[simp] theorem Mod.onCore_tb (m : Mod) (c : Nat) (f : CoreSt → CoreSt) : (m.onCore c f).tb = m.tb := rfl
@[simp] theorem Mod.onCore_nv (m : Mod) (c : Nat) (f : CoreSt → CoreSt) : (m.onCore c f).nv = m.nv := rfl
@[simp] theorem Mod.onCore_sec (m : Mod) (c : Nat) (f : CoreSt → CoreSt) : (m.onCore c f).sec = m.sec := rfl
@[simp] theorem Mod.onCore_hif (m : Mod) (c : Nat) (f : CoreSt → CoreSt) : (m.onCore c f).hif = m.hif := rfl
@[simp] theorem Mod.onCore_fwver (m : Mod) (c : Nat) (f : CoreSt → CoreSt) : (m.onCore c f).fwver = m.fwver := rfl
@[simp] theorem Mod.onCore_autoFenced (m : Mod) (c : Nat) (f : CoreSt → CoreSt) : (m.onCore c f).autoFenced = m.autoFenced := rfl
@[simp] theorem Mod.onCore_lastAttempts (m : Mod) (c : Nat) (f : CoreSt → CoreSt) : (m.onCore c f).lastAttempts = m.lastAttempts := rfl
@[simp] theorem Mod.onCore_devCnt (m : Mod) (c : Nat) (f : CoreSt → CoreSt) : (m.onCore c f).devCnt = m.devCnt := rfl
@[simp] theorem Mod.onCore_deferFence (m : Mod) (c : Nat) (f : CoreSt → CoreSt) : (m.onCore c f).deferFence = m.deferFence := rfl
@[simp] theorem Mod.onCore_deferUnfence (m : Mod) (c : Nat) (f : CoreSt → CoreSt) : (m.onCore c f).deferUnfence = m.deferUnfence := rfl
@[simp] theorem Mod.onCore_fatal (m : Mod) (c : Nat) (f : CoreSt → CoreSt) : (m.onCore c f).fatal = m.fatal := rfl
@[simp] theorem Mod.onCore_ids (m : Mod) (c : Nat) (f : CoreSt → CoreSt) : (m.onCore c f).ids = m.ids := rfl
@[simp] theorem Mod.onCore_orders (m : Mod) (c : Nat) (f : CoreSt → CoreSt) : (m.onCore c f).orders = m.orders := rfl
@[simp] theorem Mod.onCore_free (m : Mod) (c : Nat) (f : CoreSt → CoreSt) : (m.onCore c f).free = m.free := rfl
@[simp] theorem Mod.onCore_arr (m : Mod) (c : Nat) (f : CoreSt → CoreSt) : (m.onCore c f).arr = m.arr := rfl
@[simp] theorem Mod.onCore_res (m : Mod) (c : Nat) (f : CoreSt → CoreSt) : (m.onCore c f).res = m.res := rfl
@[simp] theorem Mod.onCore_attic (m : Mod) (c : Nat) (f : CoreSt → CoreSt) : (m.onCore c f).attic = m.attic := rfl
@[simp] theorem Mod.onCore_cel (m : Mod) (c : Nat) (f : CoreSt → CoreSt) : (m.onCore c f).cel = m.cel := rfl
@[simp] theorem Mod.onCore_images (m : Mod) (c : Nat) (f : CoreSt → CoreSt) : (m.onCore c f).images = m.images := rfl
@[simp] theorem Mod.onCore_freed (m : Mod) (c : Nat) (f : CoreSt → CoreSt) : (m.onCore c f).freed = m.freed := rfl
@[simp] theorem Mod.onCore_num (m : Mod) (c : Nat) (f : CoreSt → CoreSt) : (m.onCore c f).num = m.num := rfl
@[simp] theorem Mod.onCore_upd (m : Mod) (c : Nat) (f : CoreSt → CoreSt) : (m.onCore c f).upd = m.upd := rfl
@[simp] theorem Mod.onCore_lnk (m : Mod) (c : Nat) (f : CoreSt → CoreSt) : (m.onCore c f).lnk = m.lnk := rfl
@[simp] theorem Mod.onCore_col (m : Mod) (c : Nat) (f : CoreSt → CoreSt) : (m.onCore c f).col = m.col := rfl
@[simp] theorem Mod.onCore_jobs (m : Mod) (c : Nat) (f : CoreSt → CoreSt) : (m.onCore c f).jobs = m.jobs := rfl
@[simp] theorem Mod.onCore_pwr (m : Mod) (c : Nat) (f : CoreSt → CoreSt) : (m.onCore c f).pwr = m.pwr := rfl
@[simp] theorem Mod.onCore_sb (m : Mod) (c : Nat) (f : CoreSt → CoreSt) : (m.onCore c f).sb = m.sb := rfl
@[simp] theorem Mod.onCore_test (m : Mod) (c : Nat) (f : CoreSt → CoreSt) : (m.onCore c f).test = m.test := rfl
@[simp] theorem Mod.onCore_testData (m : Mod) (c : Nat) (f : CoreSt → CoreSt) : (m.onCore c f).testData = m.testData := rfl
@[simp] theorem Mod.onCore_spdm (m : Mod) (c : Nat) (f : CoreSt → CoreSt) : (m.onCore c f).spdm = m.spdm := rfl
@[simp] theorem Mod.onCore_met (m : Mod) (c : Nat) (f : CoreSt → CoreSt) : (m.onCore c f).met = m.met := rfl

/-! ### Mod.onArr -/

@[simp] theorem Mod.onArr_out (m : Mod) (c a : Nat) (f : ArrSt → ArrSt) : (m.onArr c a f).out = m.out := rfl
@[simp] theorem Mod.onArr_phase (m : Mod) (c a : Nat) (f : ArrSt → ArrSt) : (m.onArr c a f).phase = m.phase := rfl
@[simp] theorem Mod.onArr_phaseAt (m : Mod) (c a : Nat) (f : ArrSt → ArrSt) : (m.onArr c a f).phaseAt = m.phaseAt := rfl
@[simp] theorem Mod.onArr_pins (m : Mod) (c a : Nat) (f : ArrSt → ArrSt) : (m.onArr c a f).pins = m.pins := rfl
@[simp] theorem Mod.onArr_tb (m : Mod) (c a : Nat) (f : ArrSt → ArrSt) : (m.onArr c a f).tb = m.tb := rfl
@[simp] theorem Mod.onArr_nv (m : Mod) (c a : Nat) (f : ArrSt → ArrSt) : (m.onArr c a f).nv = m.nv := rfl
@[simp] theorem Mod.onArr_sec (m : Mod) (c a : Nat) (f : ArrSt → ArrSt) : (m.onArr c a f).sec = m.sec := rfl
@[simp] theorem Mod.onArr_hif (m : Mod) (c a : Nat) (f : ArrSt → ArrSt) : (m.onArr c a f).hif = m.hif := rfl
@[simp] theorem Mod.onArr_fwver (m : Mod) (c a : Nat) (f : ArrSt → ArrSt) : (m.onArr c a f).fwver = m.fwver := rfl
@[simp] theorem Mod.onArr_autoFenced (m : Mod) (c a : Nat) (f : ArrSt → ArrSt) : (m.onArr c a f).autoFenced = m.autoFenced := rfl
@[simp] theorem Mod.onArr_lastAttempts (m : Mod) (c a : Nat) (f : ArrSt → ArrSt) : (m.onArr c a f).lastAttempts = m.lastAttempts := rfl
@[simp] theorem Mod.onArr_devCnt (m : Mod) (c a : Nat) (f : ArrSt → ArrSt) : (m.onArr c a f).devCnt = m.devCnt := rfl
@[simp] theorem Mod.onArr_deferFence (m : Mod) (c a : Nat) (f : ArrSt → ArrSt) : (m.onArr c a f).deferFence = m.deferFence := rfl
@[simp] theorem Mod.onArr_deferUnfence (m : Mod) (c a : Nat) (f : ArrSt → ArrSt) : (m.onArr c a f).deferUnfence = m.deferUnfence := rfl
@[simp] theorem Mod.onArr_fatal (m : Mod) (c a : Nat) (f : ArrSt → ArrSt) : (m.onArr c a f).fatal = m.fatal := rfl
@[simp] theorem Mod.onArr_ids (m : Mod) (c a : Nat) (f : ArrSt → ArrSt) : (m.onArr c a f).ids = m.ids := rfl
@[simp] theorem Mod.onArr_orders (m : Mod) (c a : Nat) (f : ArrSt → ArrSt) : (m.onArr c a f).orders = m.orders := rfl
@[simp] theorem Mod.onArr_free (m : Mod) (c a : Nat) (f : ArrSt → ArrSt) : (m.onArr c a f).free = m.free := rfl
@[simp] theorem Mod.onArr_core (m : Mod) (c a : Nat) (f : ArrSt → ArrSt) : (m.onArr c a f).core = m.core := rfl
@[simp] theorem Mod.onArr_res (m : Mod) (c a : Nat) (f : ArrSt → ArrSt) : (m.onArr c a f).res = m.res := rfl
@[simp] theorem Mod.onArr_attic (m : Mod) (c a : Nat) (f : ArrSt → ArrSt) : (m.onArr c a f).attic = m.attic := rfl
@[simp] theorem Mod.onArr_cel (m : Mod) (c a : Nat) (f : ArrSt → ArrSt) : (m.onArr c a f).cel = m.cel := rfl
@[simp] theorem Mod.onArr_images (m : Mod) (c a : Nat) (f : ArrSt → ArrSt) : (m.onArr c a f).images = m.images := rfl
@[simp] theorem Mod.onArr_freed (m : Mod) (c a : Nat) (f : ArrSt → ArrSt) : (m.onArr c a f).freed = m.freed := rfl
@[simp] theorem Mod.onArr_num (m : Mod) (c a : Nat) (f : ArrSt → ArrSt) : (m.onArr c a f).num = m.num := rfl
@[simp] theorem Mod.onArr_upd (m : Mod) (c a : Nat) (f : ArrSt → ArrSt) : (m.onArr c a f).upd = m.upd := rfl
@[simp] theorem Mod.onArr_lnk (m : Mod) (c a : Nat) (f : ArrSt → ArrSt) : (m.onArr c a f).lnk = m.lnk := rfl
@[simp] theorem Mod.onArr_col (m : Mod) (c a : Nat) (f : ArrSt → ArrSt) : (m.onArr c a f).col = m.col := rfl
@[simp] theorem Mod.onArr_jobs (m : Mod) (c a : Nat) (f : ArrSt → ArrSt) : (m.onArr c a f).jobs = m.jobs := rfl
@[simp] theorem Mod.onArr_pwr (m : Mod) (c a : Nat) (f : ArrSt → ArrSt) : (m.onArr c a f).pwr = m.pwr := rfl
@[simp] theorem Mod.onArr_sb (m : Mod) (c a : Nat) (f : ArrSt → ArrSt) : (m.onArr c a f).sb = m.sb := rfl
@[simp] theorem Mod.onArr_test (m : Mod) (c a : Nat) (f : ArrSt → ArrSt) : (m.onArr c a f).test = m.test := rfl
@[simp] theorem Mod.onArr_testData (m : Mod) (c a : Nat) (f : ArrSt → ArrSt) : (m.onArr c a f).testData = m.testData := rfl
@[simp] theorem Mod.onArr_spdm (m : Mod) (c a : Nat) (f : ArrSt → ArrSt) : (m.onArr c a f).spdm = m.spdm := rfl
@[simp] theorem Mod.onArr_met (m : Mod) (c a : Nat) (f : ArrSt → ArrSt) : (m.onArr c a f).met = m.met := rfl

/-! ### Mod.onPort -/

@[simp] theorem Mod.onPort_out (m : Mod) (p : Nat) (f : PortSt → PortSt) : (m.onPort p f).out = m.out := rfl
@[simp] theorem Mod.onPort_phase (m : Mod) (p : Nat) (f : PortSt → PortSt) : (m.onPort p f).phase = m.phase := rfl
@[simp] theorem Mod.onPort_phaseAt (m : Mod) (p : Nat) (f : PortSt → PortSt) : (m.onPort p f).phaseAt = m.phaseAt := rfl
@[simp] theorem Mod.onPort_pins (m : Mod) (p : Nat) (f : PortSt → PortSt) : (m.onPort p f).pins = m.pins := rfl
@[simp] theorem Mod.onPort_tb (m : Mod) (p : Nat) (f : PortSt → PortSt) : (m.onPort p f).tb = m.tb := rfl
@[simp] theorem Mod.onPort_nv (m : Mod) (p : Nat) (f : PortSt → PortSt) : (m.onPort p f).nv = m.nv := rfl
@[simp] theorem Mod.onPort_sec (m : Mod) (p : Nat) (f : PortSt → PortSt) : (m.onPort p f).sec = m.sec := rfl
@[simp] theorem Mod.onPort_hif (m : Mod) (p : Nat) (f : PortSt → PortSt) : (m.onPort p f).hif = m.hif := rfl
@[simp] theorem Mod.onPort_fwver (m : Mod) (p : Nat) (f : PortSt → PortSt) : (m.onPort p f).fwver = m.fwver := rfl
@[simp] theorem Mod.onPort_autoFenced (m : Mod) (p : Nat) (f : PortSt → PortSt) : (m.onPort p f).autoFenced = m.autoFenced := rfl
@[simp] theorem Mod.onPort_lastAttempts (m : Mod) (p : Nat) (f : PortSt → PortSt) : (m.onPort p f).lastAttempts = m.lastAttempts := rfl
@[simp] theorem Mod.onPort_devCnt (m : Mod) (p : Nat) (f : PortSt → PortSt) : (m.onPort p f).devCnt = m.devCnt := rfl
@[simp] theorem Mod.onPort_deferFence (m : Mod) (p : Nat) (f : PortSt → PortSt) : (m.onPort p f).deferFence = m.deferFence := rfl
@[simp] theorem Mod.onPort_deferUnfence (m : Mod) (p : Nat) (f : PortSt → PortSt) : (m.onPort p f).deferUnfence = m.deferUnfence := rfl
@[simp] theorem Mod.onPort_fatal (m : Mod) (p : Nat) (f : PortSt → PortSt) : (m.onPort p f).fatal = m.fatal := rfl
@[simp] theorem Mod.onPort_ids (m : Mod) (p : Nat) (f : PortSt → PortSt) : (m.onPort p f).ids = m.ids := rfl
@[simp] theorem Mod.onPort_orders (m : Mod) (p : Nat) (f : PortSt → PortSt) : (m.onPort p f).orders = m.orders := rfl
@[simp] theorem Mod.onPort_free (m : Mod) (p : Nat) (f : PortSt → PortSt) : (m.onPort p f).free = m.free := rfl
@[simp] theorem Mod.onPort_core (m : Mod) (p : Nat) (f : PortSt → PortSt) : (m.onPort p f).core = m.core := rfl
@[simp] theorem Mod.onPort_arr (m : Mod) (p : Nat) (f : PortSt → PortSt) : (m.onPort p f).arr = m.arr := rfl
@[simp] theorem Mod.onPort_res (m : Mod) (p : Nat) (f : PortSt → PortSt) : (m.onPort p f).res = m.res := rfl
@[simp] theorem Mod.onPort_attic (m : Mod) (p : Nat) (f : PortSt → PortSt) : (m.onPort p f).attic = m.attic := rfl
@[simp] theorem Mod.onPort_cel (m : Mod) (p : Nat) (f : PortSt → PortSt) : (m.onPort p f).cel = m.cel := rfl
@[simp] theorem Mod.onPort_images (m : Mod) (p : Nat) (f : PortSt → PortSt) : (m.onPort p f).images = m.images := rfl
@[simp] theorem Mod.onPort_freed (m : Mod) (p : Nat) (f : PortSt → PortSt) : (m.onPort p f).freed = m.freed := rfl
@[simp] theorem Mod.onPort_num (m : Mod) (p : Nat) (f : PortSt → PortSt) : (m.onPort p f).num = m.num := rfl
@[simp] theorem Mod.onPort_upd (m : Mod) (p : Nat) (f : PortSt → PortSt) : (m.onPort p f).upd = m.upd := rfl
@[simp] theorem Mod.onPort_col (m : Mod) (p : Nat) (f : PortSt → PortSt) : (m.onPort p f).col = m.col := rfl
@[simp] theorem Mod.onPort_jobs (m : Mod) (p : Nat) (f : PortSt → PortSt) : (m.onPort p f).jobs = m.jobs := rfl
@[simp] theorem Mod.onPort_pwr (m : Mod) (p : Nat) (f : PortSt → PortSt) : (m.onPort p f).pwr = m.pwr := rfl
@[simp] theorem Mod.onPort_sb (m : Mod) (p : Nat) (f : PortSt → PortSt) : (m.onPort p f).sb = m.sb := rfl
@[simp] theorem Mod.onPort_test (m : Mod) (p : Nat) (f : PortSt → PortSt) : (m.onPort p f).test = m.test := rfl
@[simp] theorem Mod.onPort_testData (m : Mod) (p : Nat) (f : PortSt → PortSt) : (m.onPort p f).testData = m.testData := rfl
@[simp] theorem Mod.onPort_spdm (m : Mod) (p : Nat) (f : PortSt → PortSt) : (m.onPort p f).spdm = m.spdm := rfl
@[simp] theorem Mod.onPort_met (m : Mod) (p : Nat) (f : PortSt → PortSt) : (m.onPort p f).met = m.met := rfl

/-! ### Mod.onStack -/

@[simp] theorem Mod.onStack_out (m : Mod) (i : Nat) (f : StackSt → StackSt) : (m.onStack i f).out = m.out := rfl
@[simp] theorem Mod.onStack_phase (m : Mod) (i : Nat) (f : StackSt → StackSt) : (m.onStack i f).phase = m.phase := rfl
@[simp] theorem Mod.onStack_phaseAt (m : Mod) (i : Nat) (f : StackSt → StackSt) : (m.onStack i f).phaseAt = m.phaseAt := rfl
@[simp] theorem Mod.onStack_pins (m : Mod) (i : Nat) (f : StackSt → StackSt) : (m.onStack i f).pins = m.pins := rfl
@[simp] theorem Mod.onStack_tb (m : Mod) (i : Nat) (f : StackSt → StackSt) : (m.onStack i f).tb = m.tb := rfl
@[simp] theorem Mod.onStack_nv (m : Mod) (i : Nat) (f : StackSt → StackSt) : (m.onStack i f).nv = m.nv := rfl
@[simp] theorem Mod.onStack_sec (m : Mod) (i : Nat) (f : StackSt → StackSt) : (m.onStack i f).sec = m.sec := rfl
@[simp] theorem Mod.onStack_hif (m : Mod) (i : Nat) (f : StackSt → StackSt) : (m.onStack i f).hif = m.hif := rfl
@[simp] theorem Mod.onStack_fwver (m : Mod) (i : Nat) (f : StackSt → StackSt) : (m.onStack i f).fwver = m.fwver := rfl
@[simp] theorem Mod.onStack_autoFenced (m : Mod) (i : Nat) (f : StackSt → StackSt) : (m.onStack i f).autoFenced = m.autoFenced := rfl
@[simp] theorem Mod.onStack_lastAttempts (m : Mod) (i : Nat) (f : StackSt → StackSt) : (m.onStack i f).lastAttempts = m.lastAttempts := rfl
@[simp] theorem Mod.onStack_devCnt (m : Mod) (i : Nat) (f : StackSt → StackSt) : (m.onStack i f).devCnt = m.devCnt := rfl
@[simp] theorem Mod.onStack_deferFence (m : Mod) (i : Nat) (f : StackSt → StackSt) : (m.onStack i f).deferFence = m.deferFence := rfl
@[simp] theorem Mod.onStack_deferUnfence (m : Mod) (i : Nat) (f : StackSt → StackSt) : (m.onStack i f).deferUnfence = m.deferUnfence := rfl
@[simp] theorem Mod.onStack_fatal (m : Mod) (i : Nat) (f : StackSt → StackSt) : (m.onStack i f).fatal = m.fatal := rfl
@[simp] theorem Mod.onStack_ids (m : Mod) (i : Nat) (f : StackSt → StackSt) : (m.onStack i f).ids = m.ids := rfl
@[simp] theorem Mod.onStack_orders (m : Mod) (i : Nat) (f : StackSt → StackSt) : (m.onStack i f).orders = m.orders := rfl
@[simp] theorem Mod.onStack_free (m : Mod) (i : Nat) (f : StackSt → StackSt) : (m.onStack i f).free = m.free := rfl
@[simp] theorem Mod.onStack_core (m : Mod) (i : Nat) (f : StackSt → StackSt) : (m.onStack i f).core = m.core := rfl
@[simp] theorem Mod.onStack_arr (m : Mod) (i : Nat) (f : StackSt → StackSt) : (m.onStack i f).arr = m.arr := rfl
@[simp] theorem Mod.onStack_res (m : Mod) (i : Nat) (f : StackSt → StackSt) : (m.onStack i f).res = m.res := rfl
@[simp] theorem Mod.onStack_attic (m : Mod) (i : Nat) (f : StackSt → StackSt) : (m.onStack i f).attic = m.attic := rfl
@[simp] theorem Mod.onStack_images (m : Mod) (i : Nat) (f : StackSt → StackSt) : (m.onStack i f).images = m.images := rfl
@[simp] theorem Mod.onStack_freed (m : Mod) (i : Nat) (f : StackSt → StackSt) : (m.onStack i f).freed = m.freed := rfl
@[simp] theorem Mod.onStack_num (m : Mod) (i : Nat) (f : StackSt → StackSt) : (m.onStack i f).num = m.num := rfl
@[simp] theorem Mod.onStack_upd (m : Mod) (i : Nat) (f : StackSt → StackSt) : (m.onStack i f).upd = m.upd := rfl
@[simp] theorem Mod.onStack_lnk (m : Mod) (i : Nat) (f : StackSt → StackSt) : (m.onStack i f).lnk = m.lnk := rfl
@[simp] theorem Mod.onStack_col (m : Mod) (i : Nat) (f : StackSt → StackSt) : (m.onStack i f).col = m.col := rfl
@[simp] theorem Mod.onStack_jobs (m : Mod) (i : Nat) (f : StackSt → StackSt) : (m.onStack i f).jobs = m.jobs := rfl
@[simp] theorem Mod.onStack_pwr (m : Mod) (i : Nat) (f : StackSt → StackSt) : (m.onStack i f).pwr = m.pwr := rfl
@[simp] theorem Mod.onStack_sb (m : Mod) (i : Nat) (f : StackSt → StackSt) : (m.onStack i f).sb = m.sb := rfl
@[simp] theorem Mod.onStack_test (m : Mod) (i : Nat) (f : StackSt → StackSt) : (m.onStack i f).test = m.test := rfl
@[simp] theorem Mod.onStack_testData (m : Mod) (i : Nat) (f : StackSt → StackSt) : (m.onStack i f).testData = m.testData := rfl
@[simp] theorem Mod.onStack_spdm (m : Mod) (i : Nat) (f : StackSt → StackSt) : (m.onStack i f).spdm = m.spdm := rfl
@[simp] theorem Mod.onStack_met (m : Mod) (i : Nat) (f : StackSt → StackSt) : (m.onStack i f).met = m.met := rfl

/-! ### Mod.onQ -/

@[simp] theorem Mod.onQ_out (m : Mod) (q : Nat) (f : Qp → Qp) : (m.onQ q f).out = m.out := rfl
@[simp] theorem Mod.onQ_phase (m : Mod) (q : Nat) (f : Qp → Qp) : (m.onQ q f).phase = m.phase := rfl
@[simp] theorem Mod.onQ_phaseAt (m : Mod) (q : Nat) (f : Qp → Qp) : (m.onQ q f).phaseAt = m.phaseAt := rfl
@[simp] theorem Mod.onQ_pins (m : Mod) (q : Nat) (f : Qp → Qp) : (m.onQ q f).pins = m.pins := rfl
@[simp] theorem Mod.onQ_tb (m : Mod) (q : Nat) (f : Qp → Qp) : (m.onQ q f).tb = m.tb := rfl
@[simp] theorem Mod.onQ_nv (m : Mod) (q : Nat) (f : Qp → Qp) : (m.onQ q f).nv = m.nv := rfl
@[simp] theorem Mod.onQ_sec (m : Mod) (q : Nat) (f : Qp → Qp) : (m.onQ q f).sec = m.sec := rfl
@[simp] theorem Mod.onQ_fwver (m : Mod) (q : Nat) (f : Qp → Qp) : (m.onQ q f).fwver = m.fwver := rfl
@[simp] theorem Mod.onQ_autoFenced (m : Mod) (q : Nat) (f : Qp → Qp) : (m.onQ q f).autoFenced = m.autoFenced := rfl
@[simp] theorem Mod.onQ_lastAttempts (m : Mod) (q : Nat) (f : Qp → Qp) : (m.onQ q f).lastAttempts = m.lastAttempts := rfl
@[simp] theorem Mod.onQ_devCnt (m : Mod) (q : Nat) (f : Qp → Qp) : (m.onQ q f).devCnt = m.devCnt := rfl
@[simp] theorem Mod.onQ_deferFence (m : Mod) (q : Nat) (f : Qp → Qp) : (m.onQ q f).deferFence = m.deferFence := rfl
@[simp] theorem Mod.onQ_deferUnfence (m : Mod) (q : Nat) (f : Qp → Qp) : (m.onQ q f).deferUnfence = m.deferUnfence := rfl
@[simp] theorem Mod.onQ_fatal (m : Mod) (q : Nat) (f : Qp → Qp) : (m.onQ q f).fatal = m.fatal := rfl
@[simp] theorem Mod.onQ_ids (m : Mod) (q : Nat) (f : Qp → Qp) : (m.onQ q f).ids = m.ids := rfl
@[simp] theorem Mod.onQ_orders (m : Mod) (q : Nat) (f : Qp → Qp) : (m.onQ q f).orders = m.orders := rfl
@[simp] theorem Mod.onQ_free (m : Mod) (q : Nat) (f : Qp → Qp) : (m.onQ q f).free = m.free := rfl
@[simp] theorem Mod.onQ_core (m : Mod) (q : Nat) (f : Qp → Qp) : (m.onQ q f).core = m.core := rfl
@[simp] theorem Mod.onQ_arr (m : Mod) (q : Nat) (f : Qp → Qp) : (m.onQ q f).arr = m.arr := rfl
@[simp] theorem Mod.onQ_res (m : Mod) (q : Nat) (f : Qp → Qp) : (m.onQ q f).res = m.res := rfl
@[simp] theorem Mod.onQ_attic (m : Mod) (q : Nat) (f : Qp → Qp) : (m.onQ q f).attic = m.attic := rfl
@[simp] theorem Mod.onQ_cel (m : Mod) (q : Nat) (f : Qp → Qp) : (m.onQ q f).cel = m.cel := rfl
@[simp] theorem Mod.onQ_images (m : Mod) (q : Nat) (f : Qp → Qp) : (m.onQ q f).images = m.images := rfl
@[simp] theorem Mod.onQ_freed (m : Mod) (q : Nat) (f : Qp → Qp) : (m.onQ q f).freed = m.freed := rfl
@[simp] theorem Mod.onQ_num (m : Mod) (q : Nat) (f : Qp → Qp) : (m.onQ q f).num = m.num := rfl
@[simp] theorem Mod.onQ_upd (m : Mod) (q : Nat) (f : Qp → Qp) : (m.onQ q f).upd = m.upd := rfl
@[simp] theorem Mod.onQ_lnk (m : Mod) (q : Nat) (f : Qp → Qp) : (m.onQ q f).lnk = m.lnk := rfl
@[simp] theorem Mod.onQ_col (m : Mod) (q : Nat) (f : Qp → Qp) : (m.onQ q f).col = m.col := rfl
@[simp] theorem Mod.onQ_jobs (m : Mod) (q : Nat) (f : Qp → Qp) : (m.onQ q f).jobs = m.jobs := rfl
@[simp] theorem Mod.onQ_pwr (m : Mod) (q : Nat) (f : Qp → Qp) : (m.onQ q f).pwr = m.pwr := rfl
@[simp] theorem Mod.onQ_sb (m : Mod) (q : Nat) (f : Qp → Qp) : (m.onQ q f).sb = m.sb := rfl
@[simp] theorem Mod.onQ_test (m : Mod) (q : Nat) (f : Qp → Qp) : (m.onQ q f).test = m.test := rfl
@[simp] theorem Mod.onQ_testData (m : Mod) (q : Nat) (f : Qp → Qp) : (m.onQ q f).testData = m.testData := rfl
@[simp] theorem Mod.onQ_spdm (m : Mod) (q : Nat) (f : Qp → Qp) : (m.onQ q f).spdm = m.spdm := rfl
@[simp] theorem Mod.onQ_met (m : Mod) (q : Nat) (f : Qp → Qp) : (m.onQ q f).met = m.met := rfl

/-! ### Mod.onLayer -/

@[simp] theorem Mod.onLayer_out (m : Mod) (l : Nat) (f : Layer → Layer) : (m.onLayer l f).out = m.out := rfl
@[simp] theorem Mod.onLayer_phase (m : Mod) (l : Nat) (f : Layer → Layer) : (m.onLayer l f).phase = m.phase := rfl
@[simp] theorem Mod.onLayer_phaseAt (m : Mod) (l : Nat) (f : Layer → Layer) : (m.onLayer l f).phaseAt = m.phaseAt := rfl
@[simp] theorem Mod.onLayer_pins (m : Mod) (l : Nat) (f : Layer → Layer) : (m.onLayer l f).pins = m.pins := rfl
@[simp] theorem Mod.onLayer_tb (m : Mod) (l : Nat) (f : Layer → Layer) : (m.onLayer l f).tb = m.tb := rfl
@[simp] theorem Mod.onLayer_nv (m : Mod) (l : Nat) (f : Layer → Layer) : (m.onLayer l f).nv = m.nv := rfl
@[simp] theorem Mod.onLayer_sec (m : Mod) (l : Nat) (f : Layer → Layer) : (m.onLayer l f).sec = m.sec := rfl
@[simp] theorem Mod.onLayer_hif (m : Mod) (l : Nat) (f : Layer → Layer) : (m.onLayer l f).hif = m.hif := rfl
@[simp] theorem Mod.onLayer_fwver (m : Mod) (l : Nat) (f : Layer → Layer) : (m.onLayer l f).fwver = m.fwver := rfl
@[simp] theorem Mod.onLayer_autoFenced (m : Mod) (l : Nat) (f : Layer → Layer) : (m.onLayer l f).autoFenced = m.autoFenced := rfl
@[simp] theorem Mod.onLayer_lastAttempts (m : Mod) (l : Nat) (f : Layer → Layer) : (m.onLayer l f).lastAttempts = m.lastAttempts := rfl
@[simp] theorem Mod.onLayer_devCnt (m : Mod) (l : Nat) (f : Layer → Layer) : (m.onLayer l f).devCnt = m.devCnt := rfl
@[simp] theorem Mod.onLayer_deferFence (m : Mod) (l : Nat) (f : Layer → Layer) : (m.onLayer l f).deferFence = m.deferFence := rfl
@[simp] theorem Mod.onLayer_deferUnfence (m : Mod) (l : Nat) (f : Layer → Layer) : (m.onLayer l f).deferUnfence = m.deferUnfence := rfl
@[simp] theorem Mod.onLayer_fatal (m : Mod) (l : Nat) (f : Layer → Layer) : (m.onLayer l f).fatal = m.fatal := rfl
@[simp] theorem Mod.onLayer_ids (m : Mod) (l : Nat) (f : Layer → Layer) : (m.onLayer l f).ids = m.ids := rfl
@[simp] theorem Mod.onLayer_orders (m : Mod) (l : Nat) (f : Layer → Layer) : (m.onLayer l f).orders = m.orders := rfl
@[simp] theorem Mod.onLayer_free (m : Mod) (l : Nat) (f : Layer → Layer) : (m.onLayer l f).free = m.free := rfl
@[simp] theorem Mod.onLayer_core (m : Mod) (l : Nat) (f : Layer → Layer) : (m.onLayer l f).core = m.core := rfl
@[simp] theorem Mod.onLayer_arr (m : Mod) (l : Nat) (f : Layer → Layer) : (m.onLayer l f).arr = m.arr := rfl
@[simp] theorem Mod.onLayer_res (m : Mod) (l : Nat) (f : Layer → Layer) : (m.onLayer l f).res = m.res := rfl
@[simp] theorem Mod.onLayer_attic (m : Mod) (l : Nat) (f : Layer → Layer) : (m.onLayer l f).attic = m.attic := rfl
@[simp] theorem Mod.onLayer_cel (m : Mod) (l : Nat) (f : Layer → Layer) : (m.onLayer l f).cel = m.cel := rfl
@[simp] theorem Mod.onLayer_images (m : Mod) (l : Nat) (f : Layer → Layer) : (m.onLayer l f).images = m.images := rfl
@[simp] theorem Mod.onLayer_freed (m : Mod) (l : Nat) (f : Layer → Layer) : (m.onLayer l f).freed = m.freed := rfl
@[simp] theorem Mod.onLayer_num (m : Mod) (l : Nat) (f : Layer → Layer) : (m.onLayer l f).num = m.num := rfl
@[simp] theorem Mod.onLayer_lnk (m : Mod) (l : Nat) (f : Layer → Layer) : (m.onLayer l f).lnk = m.lnk := rfl
@[simp] theorem Mod.onLayer_col (m : Mod) (l : Nat) (f : Layer → Layer) : (m.onLayer l f).col = m.col := rfl
@[simp] theorem Mod.onLayer_jobs (m : Mod) (l : Nat) (f : Layer → Layer) : (m.onLayer l f).jobs = m.jobs := rfl
@[simp] theorem Mod.onLayer_pwr (m : Mod) (l : Nat) (f : Layer → Layer) : (m.onLayer l f).pwr = m.pwr := rfl
@[simp] theorem Mod.onLayer_sb (m : Mod) (l : Nat) (f : Layer → Layer) : (m.onLayer l f).sb = m.sb := rfl
@[simp] theorem Mod.onLayer_test (m : Mod) (l : Nat) (f : Layer → Layer) : (m.onLayer l f).test = m.test := rfl
@[simp] theorem Mod.onLayer_testData (m : Mod) (l : Nat) (f : Layer → Layer) : (m.onLayer l f).testData = m.testData := rfl
@[simp] theorem Mod.onLayer_spdm (m : Mod) (l : Nat) (f : Layer → Layer) : (m.onLayer l f).spdm = m.spdm := rfl
@[simp] theorem Mod.onLayer_met (m : Mod) (l : Nat) (f : Layer → Layer) : (m.onLayer l f).met = m.met := rfl

/-! ### Mod.onUnit -/

@[simp] theorem Mod.onUnit_out (m : Mod) (u : Nat) (f : UnitSt → UnitSt) : (m.onUnit u f).out = m.out := rfl
@[simp] theorem Mod.onUnit_phase (m : Mod) (u : Nat) (f : UnitSt → UnitSt) : (m.onUnit u f).phase = m.phase := rfl
@[simp] theorem Mod.onUnit_phaseAt (m : Mod) (u : Nat) (f : UnitSt → UnitSt) : (m.onUnit u f).phaseAt = m.phaseAt := rfl
@[simp] theorem Mod.onUnit_pins (m : Mod) (u : Nat) (f : UnitSt → UnitSt) : (m.onUnit u f).pins = m.pins := rfl
@[simp] theorem Mod.onUnit_tb (m : Mod) (u : Nat) (f : UnitSt → UnitSt) : (m.onUnit u f).tb = m.tb := rfl
@[simp] theorem Mod.onUnit_nv (m : Mod) (u : Nat) (f : UnitSt → UnitSt) : (m.onUnit u f).nv = m.nv := rfl
@[simp] theorem Mod.onUnit_sec (m : Mod) (u : Nat) (f : UnitSt → UnitSt) : (m.onUnit u f).sec = m.sec := rfl
@[simp] theorem Mod.onUnit_hif (m : Mod) (u : Nat) (f : UnitSt → UnitSt) : (m.onUnit u f).hif = m.hif := rfl
@[simp] theorem Mod.onUnit_fwver (m : Mod) (u : Nat) (f : UnitSt → UnitSt) : (m.onUnit u f).fwver = m.fwver := rfl
@[simp] theorem Mod.onUnit_autoFenced (m : Mod) (u : Nat) (f : UnitSt → UnitSt) : (m.onUnit u f).autoFenced = m.autoFenced := rfl
@[simp] theorem Mod.onUnit_lastAttempts (m : Mod) (u : Nat) (f : UnitSt → UnitSt) : (m.onUnit u f).lastAttempts = m.lastAttempts := rfl
@[simp] theorem Mod.onUnit_devCnt (m : Mod) (u : Nat) (f : UnitSt → UnitSt) : (m.onUnit u f).devCnt = m.devCnt := rfl
@[simp] theorem Mod.onUnit_deferFence (m : Mod) (u : Nat) (f : UnitSt → UnitSt) : (m.onUnit u f).deferFence = m.deferFence := rfl
@[simp] theorem Mod.onUnit_deferUnfence (m : Mod) (u : Nat) (f : UnitSt → UnitSt) : (m.onUnit u f).deferUnfence = m.deferUnfence := rfl
@[simp] theorem Mod.onUnit_fatal (m : Mod) (u : Nat) (f : UnitSt → UnitSt) : (m.onUnit u f).fatal = m.fatal := rfl
@[simp] theorem Mod.onUnit_ids (m : Mod) (u : Nat) (f : UnitSt → UnitSt) : (m.onUnit u f).ids = m.ids := rfl
@[simp] theorem Mod.onUnit_orders (m : Mod) (u : Nat) (f : UnitSt → UnitSt) : (m.onUnit u f).orders = m.orders := rfl
@[simp] theorem Mod.onUnit_free (m : Mod) (u : Nat) (f : UnitSt → UnitSt) : (m.onUnit u f).free = m.free := rfl
@[simp] theorem Mod.onUnit_core (m : Mod) (u : Nat) (f : UnitSt → UnitSt) : (m.onUnit u f).core = m.core := rfl
@[simp] theorem Mod.onUnit_arr (m : Mod) (u : Nat) (f : UnitSt → UnitSt) : (m.onUnit u f).arr = m.arr := rfl
@[simp] theorem Mod.onUnit_res (m : Mod) (u : Nat) (f : UnitSt → UnitSt) : (m.onUnit u f).res = m.res := rfl
@[simp] theorem Mod.onUnit_attic (m : Mod) (u : Nat) (f : UnitSt → UnitSt) : (m.onUnit u f).attic = m.attic := rfl
@[simp] theorem Mod.onUnit_cel (m : Mod) (u : Nat) (f : UnitSt → UnitSt) : (m.onUnit u f).cel = m.cel := rfl
@[simp] theorem Mod.onUnit_images (m : Mod) (u : Nat) (f : UnitSt → UnitSt) : (m.onUnit u f).images = m.images := rfl
@[simp] theorem Mod.onUnit_freed (m : Mod) (u : Nat) (f : UnitSt → UnitSt) : (m.onUnit u f).freed = m.freed := rfl
@[simp] theorem Mod.onUnit_num (m : Mod) (u : Nat) (f : UnitSt → UnitSt) : (m.onUnit u f).num = m.num := rfl
@[simp] theorem Mod.onUnit_lnk (m : Mod) (u : Nat) (f : UnitSt → UnitSt) : (m.onUnit u f).lnk = m.lnk := rfl
@[simp] theorem Mod.onUnit_col (m : Mod) (u : Nat) (f : UnitSt → UnitSt) : (m.onUnit u f).col = m.col := rfl
@[simp] theorem Mod.onUnit_jobs (m : Mod) (u : Nat) (f : UnitSt → UnitSt) : (m.onUnit u f).jobs = m.jobs := rfl
@[simp] theorem Mod.onUnit_pwr (m : Mod) (u : Nat) (f : UnitSt → UnitSt) : (m.onUnit u f).pwr = m.pwr := rfl
@[simp] theorem Mod.onUnit_sb (m : Mod) (u : Nat) (f : UnitSt → UnitSt) : (m.onUnit u f).sb = m.sb := rfl
@[simp] theorem Mod.onUnit_test (m : Mod) (u : Nat) (f : UnitSt → UnitSt) : (m.onUnit u f).test = m.test := rfl
@[simp] theorem Mod.onUnit_testData (m : Mod) (u : Nat) (f : UnitSt → UnitSt) : (m.onUnit u f).testData = m.testData := rfl
@[simp] theorem Mod.onUnit_spdm (m : Mod) (u : Nat) (f : UnitSt → UnitSt) : (m.onUnit u f).spdm = m.spdm := rfl
@[simp] theorem Mod.onUnit_met (m : Mod) (u : Nat) (f : UnitSt → UnitSt) : (m.onUnit u f).met = m.met := rfl

/-! ### Mod.onDie -/

@[simp] theorem Mod.onDie_out (m : Mod) (d : Nat) (f : DieSt → DieSt) : (m.onDie d f).out = m.out := rfl
@[simp] theorem Mod.onDie_phase (m : Mod) (d : Nat) (f : DieSt → DieSt) : (m.onDie d f).phase = m.phase := rfl
@[simp] theorem Mod.onDie_phaseAt (m : Mod) (d : Nat) (f : DieSt → DieSt) : (m.onDie d f).phaseAt = m.phaseAt := rfl
@[simp] theorem Mod.onDie_pins (m : Mod) (d : Nat) (f : DieSt → DieSt) : (m.onDie d f).pins = m.pins := rfl
@[simp] theorem Mod.onDie_tb (m : Mod) (d : Nat) (f : DieSt → DieSt) : (m.onDie d f).tb = m.tb := rfl
@[simp] theorem Mod.onDie_nv (m : Mod) (d : Nat) (f : DieSt → DieSt) : (m.onDie d f).nv = m.nv := rfl
@[simp] theorem Mod.onDie_sec (m : Mod) (d : Nat) (f : DieSt → DieSt) : (m.onDie d f).sec = m.sec := rfl
@[simp] theorem Mod.onDie_hif (m : Mod) (d : Nat) (f : DieSt → DieSt) : (m.onDie d f).hif = m.hif := rfl
@[simp] theorem Mod.onDie_fwver (m : Mod) (d : Nat) (f : DieSt → DieSt) : (m.onDie d f).fwver = m.fwver := rfl
@[simp] theorem Mod.onDie_autoFenced (m : Mod) (d : Nat) (f : DieSt → DieSt) : (m.onDie d f).autoFenced = m.autoFenced := rfl
@[simp] theorem Mod.onDie_lastAttempts (m : Mod) (d : Nat) (f : DieSt → DieSt) : (m.onDie d f).lastAttempts = m.lastAttempts := rfl
@[simp] theorem Mod.onDie_devCnt (m : Mod) (d : Nat) (f : DieSt → DieSt) : (m.onDie d f).devCnt = m.devCnt := rfl
@[simp] theorem Mod.onDie_deferFence (m : Mod) (d : Nat) (f : DieSt → DieSt) : (m.onDie d f).deferFence = m.deferFence := rfl
@[simp] theorem Mod.onDie_deferUnfence (m : Mod) (d : Nat) (f : DieSt → DieSt) : (m.onDie d f).deferUnfence = m.deferUnfence := rfl
@[simp] theorem Mod.onDie_fatal (m : Mod) (d : Nat) (f : DieSt → DieSt) : (m.onDie d f).fatal = m.fatal := rfl
@[simp] theorem Mod.onDie_ids (m : Mod) (d : Nat) (f : DieSt → DieSt) : (m.onDie d f).ids = m.ids := rfl
@[simp] theorem Mod.onDie_orders (m : Mod) (d : Nat) (f : DieSt → DieSt) : (m.onDie d f).orders = m.orders := rfl
@[simp] theorem Mod.onDie_free (m : Mod) (d : Nat) (f : DieSt → DieSt) : (m.onDie d f).free = m.free := rfl
@[simp] theorem Mod.onDie_core (m : Mod) (d : Nat) (f : DieSt → DieSt) : (m.onDie d f).core = m.core := rfl
@[simp] theorem Mod.onDie_arr (m : Mod) (d : Nat) (f : DieSt → DieSt) : (m.onDie d f).arr = m.arr := rfl
@[simp] theorem Mod.onDie_res (m : Mod) (d : Nat) (f : DieSt → DieSt) : (m.onDie d f).res = m.res := rfl
@[simp] theorem Mod.onDie_attic (m : Mod) (d : Nat) (f : DieSt → DieSt) : (m.onDie d f).attic = m.attic := rfl
@[simp] theorem Mod.onDie_cel (m : Mod) (d : Nat) (f : DieSt → DieSt) : (m.onDie d f).cel = m.cel := rfl
@[simp] theorem Mod.onDie_images (m : Mod) (d : Nat) (f : DieSt → DieSt) : (m.onDie d f).images = m.images := rfl
@[simp] theorem Mod.onDie_freed (m : Mod) (d : Nat) (f : DieSt → DieSt) : (m.onDie d f).freed = m.freed := rfl
@[simp] theorem Mod.onDie_num (m : Mod) (d : Nat) (f : DieSt → DieSt) : (m.onDie d f).num = m.num := rfl
@[simp] theorem Mod.onDie_upd (m : Mod) (d : Nat) (f : DieSt → DieSt) : (m.onDie d f).upd = m.upd := rfl
@[simp] theorem Mod.onDie_lnk (m : Mod) (d : Nat) (f : DieSt → DieSt) : (m.onDie d f).lnk = m.lnk := rfl
@[simp] theorem Mod.onDie_col (m : Mod) (d : Nat) (f : DieSt → DieSt) : (m.onDie d f).col = m.col := rfl
@[simp] theorem Mod.onDie_jobs (m : Mod) (d : Nat) (f : DieSt → DieSt) : (m.onDie d f).jobs = m.jobs := rfl
@[simp] theorem Mod.onDie_sb (m : Mod) (d : Nat) (f : DieSt → DieSt) : (m.onDie d f).sb = m.sb := rfl
@[simp] theorem Mod.onDie_test (m : Mod) (d : Nat) (f : DieSt → DieSt) : (m.onDie d f).test = m.test := rfl
@[simp] theorem Mod.onDie_testData (m : Mod) (d : Nat) (f : DieSt → DieSt) : (m.onDie d f).testData = m.testData := rfl
@[simp] theorem Mod.onDie_spdm (m : Mod) (d : Nat) (f : DieSt → DieSt) : (m.onDie d f).spdm = m.spdm := rfl
@[simp] theorem Mod.onDie_met (m : Mod) (d : Nat) (f : DieSt → DieSt) : (m.onDie d f).met = m.met := rfl

/-! ### Mod.onJob -/

@[simp] theorem Mod.onJob_out (m : Mod) (j : Nat) (f : Job → Job) : (m.onJob j f).out = m.out := by unfold Mod.onJob; split <;> rfl
@[simp] theorem Mod.onJob_phase (m : Mod) (j : Nat) (f : Job → Job) : (m.onJob j f).phase = m.phase := by unfold Mod.onJob; split <;> rfl
@[simp] theorem Mod.onJob_phaseAt (m : Mod) (j : Nat) (f : Job → Job) : (m.onJob j f).phaseAt = m.phaseAt := by unfold Mod.onJob; split <;> rfl
@[simp] theorem Mod.onJob_pins (m : Mod) (j : Nat) (f : Job → Job) : (m.onJob j f).pins = m.pins := by unfold Mod.onJob; split <;> rfl
@[simp] theorem Mod.onJob_tb (m : Mod) (j : Nat) (f : Job → Job) : (m.onJob j f).tb = m.tb := by unfold Mod.onJob; split <;> rfl
@[simp] theorem Mod.onJob_nv (m : Mod) (j : Nat) (f : Job → Job) : (m.onJob j f).nv = m.nv := by unfold Mod.onJob; split <;> rfl
@[simp] theorem Mod.onJob_sec (m : Mod) (j : Nat) (f : Job → Job) : (m.onJob j f).sec = m.sec := by unfold Mod.onJob; split <;> rfl
@[simp] theorem Mod.onJob_hif (m : Mod) (j : Nat) (f : Job → Job) : (m.onJob j f).hif = m.hif := by unfold Mod.onJob; split <;> rfl
@[simp] theorem Mod.onJob_fwver (m : Mod) (j : Nat) (f : Job → Job) : (m.onJob j f).fwver = m.fwver := by unfold Mod.onJob; split <;> rfl
@[simp] theorem Mod.onJob_autoFenced (m : Mod) (j : Nat) (f : Job → Job) : (m.onJob j f).autoFenced = m.autoFenced := by unfold Mod.onJob; split <;> rfl
@[simp] theorem Mod.onJob_lastAttempts (m : Mod) (j : Nat) (f : Job → Job) : (m.onJob j f).lastAttempts = m.lastAttempts := by unfold Mod.onJob; split <;> rfl
@[simp] theorem Mod.onJob_devCnt (m : Mod) (j : Nat) (f : Job → Job) : (m.onJob j f).devCnt = m.devCnt := by unfold Mod.onJob; split <;> rfl
@[simp] theorem Mod.onJob_deferFence (m : Mod) (j : Nat) (f : Job → Job) : (m.onJob j f).deferFence = m.deferFence := by unfold Mod.onJob; split <;> rfl
@[simp] theorem Mod.onJob_deferUnfence (m : Mod) (j : Nat) (f : Job → Job) : (m.onJob j f).deferUnfence = m.deferUnfence := by unfold Mod.onJob; split <;> rfl
@[simp] theorem Mod.onJob_fatal (m : Mod) (j : Nat) (f : Job → Job) : (m.onJob j f).fatal = m.fatal := by unfold Mod.onJob; split <;> rfl
@[simp] theorem Mod.onJob_ids (m : Mod) (j : Nat) (f : Job → Job) : (m.onJob j f).ids = m.ids := by unfold Mod.onJob; split <;> rfl
@[simp] theorem Mod.onJob_orders (m : Mod) (j : Nat) (f : Job → Job) : (m.onJob j f).orders = m.orders := by unfold Mod.onJob; split <;> rfl
@[simp] theorem Mod.onJob_free (m : Mod) (j : Nat) (f : Job → Job) : (m.onJob j f).free = m.free := by unfold Mod.onJob; split <;> rfl
@[simp] theorem Mod.onJob_core (m : Mod) (j : Nat) (f : Job → Job) : (m.onJob j f).core = m.core := by unfold Mod.onJob; split <;> rfl
@[simp] theorem Mod.onJob_arr (m : Mod) (j : Nat) (f : Job → Job) : (m.onJob j f).arr = m.arr := by unfold Mod.onJob; split <;> rfl
@[simp] theorem Mod.onJob_res (m : Mod) (j : Nat) (f : Job → Job) : (m.onJob j f).res = m.res := by unfold Mod.onJob; split <;> rfl
@[simp] theorem Mod.onJob_attic (m : Mod) (j : Nat) (f : Job → Job) : (m.onJob j f).attic = m.attic := by unfold Mod.onJob; split <;> rfl
@[simp] theorem Mod.onJob_cel (m : Mod) (j : Nat) (f : Job → Job) : (m.onJob j f).cel = m.cel := by unfold Mod.onJob; split <;> rfl
@[simp] theorem Mod.onJob_images (m : Mod) (j : Nat) (f : Job → Job) : (m.onJob j f).images = m.images := by unfold Mod.onJob; split <;> rfl
@[simp] theorem Mod.onJob_freed (m : Mod) (j : Nat) (f : Job → Job) : (m.onJob j f).freed = m.freed := by unfold Mod.onJob; split <;> rfl
@[simp] theorem Mod.onJob_num (m : Mod) (j : Nat) (f : Job → Job) : (m.onJob j f).num = m.num := by unfold Mod.onJob; split <;> rfl
@[simp] theorem Mod.onJob_upd (m : Mod) (j : Nat) (f : Job → Job) : (m.onJob j f).upd = m.upd := by unfold Mod.onJob; split <;> rfl
@[simp] theorem Mod.onJob_lnk (m : Mod) (j : Nat) (f : Job → Job) : (m.onJob j f).lnk = m.lnk := by unfold Mod.onJob; split <;> rfl
@[simp] theorem Mod.onJob_col (m : Mod) (j : Nat) (f : Job → Job) : (m.onJob j f).col = m.col := by unfold Mod.onJob; split <;> rfl
@[simp] theorem Mod.onJob_pwr (m : Mod) (j : Nat) (f : Job → Job) : (m.onJob j f).pwr = m.pwr := by unfold Mod.onJob; split <;> rfl
@[simp] theorem Mod.onJob_sb (m : Mod) (j : Nat) (f : Job → Job) : (m.onJob j f).sb = m.sb := by unfold Mod.onJob; split <;> rfl
@[simp] theorem Mod.onJob_test (m : Mod) (j : Nat) (f : Job → Job) : (m.onJob j f).test = m.test := by unfold Mod.onJob; split <;> rfl
@[simp] theorem Mod.onJob_testData (m : Mod) (j : Nat) (f : Job → Job) : (m.onJob j f).testData = m.testData := by unfold Mod.onJob; split <;> rfl
@[simp] theorem Mod.onJob_spdm (m : Mod) (j : Nat) (f : Job → Job) : (m.onJob j f).spdm = m.spdm := by unfold Mod.onJob; split <;> rfl
@[simp] theorem Mod.onJob_met (m : Mod) (j : Nat) (f : Job → Job) : (m.onJob j f).met = m.met := by unfold Mod.onJob; split <;> rfl

/-! ### Mod.onObj -/

@[simp] theorem Mod.onObj_out (m : Mod) (h : Nat) (f : Obj → Obj) : (m.onObj h f).out = m.out := by unfold Mod.onObj; split <;> rfl
@[simp] theorem Mod.onObj_phase (m : Mod) (h : Nat) (f : Obj → Obj) : (m.onObj h f).phase = m.phase := by unfold Mod.onObj; split <;> rfl
@[simp] theorem Mod.onObj_phaseAt (m : Mod) (h : Nat) (f : Obj → Obj) : (m.onObj h f).phaseAt = m.phaseAt := by unfold Mod.onObj; split <;> rfl
@[simp] theorem Mod.onObj_pins (m : Mod) (h : Nat) (f : Obj → Obj) : (m.onObj h f).pins = m.pins := by unfold Mod.onObj; split <;> rfl
@[simp] theorem Mod.onObj_tb (m : Mod) (h : Nat) (f : Obj → Obj) : (m.onObj h f).tb = m.tb := by unfold Mod.onObj; split <;> rfl
@[simp] theorem Mod.onObj_nv (m : Mod) (h : Nat) (f : Obj → Obj) : (m.onObj h f).nv = m.nv := by unfold Mod.onObj; split <;> rfl
@[simp] theorem Mod.onObj_sec (m : Mod) (h : Nat) (f : Obj → Obj) : (m.onObj h f).sec = m.sec := by unfold Mod.onObj; split <;> rfl
@[simp] theorem Mod.onObj_hif (m : Mod) (h : Nat) (f : Obj → Obj) : (m.onObj h f).hif = m.hif := by unfold Mod.onObj; split <;> rfl
@[simp] theorem Mod.onObj_fwver (m : Mod) (h : Nat) (f : Obj → Obj) : (m.onObj h f).fwver = m.fwver := by unfold Mod.onObj; split <;> rfl
@[simp] theorem Mod.onObj_autoFenced (m : Mod) (h : Nat) (f : Obj → Obj) : (m.onObj h f).autoFenced = m.autoFenced := by unfold Mod.onObj; split <;> rfl
@[simp] theorem Mod.onObj_lastAttempts (m : Mod) (h : Nat) (f : Obj → Obj) : (m.onObj h f).lastAttempts = m.lastAttempts := by unfold Mod.onObj; split <;> rfl
@[simp] theorem Mod.onObj_devCnt (m : Mod) (h : Nat) (f : Obj → Obj) : (m.onObj h f).devCnt = m.devCnt := by unfold Mod.onObj; split <;> rfl
@[simp] theorem Mod.onObj_deferFence (m : Mod) (h : Nat) (f : Obj → Obj) : (m.onObj h f).deferFence = m.deferFence := by unfold Mod.onObj; split <;> rfl
@[simp] theorem Mod.onObj_deferUnfence (m : Mod) (h : Nat) (f : Obj → Obj) : (m.onObj h f).deferUnfence = m.deferUnfence := by unfold Mod.onObj; split <;> rfl
@[simp] theorem Mod.onObj_fatal (m : Mod) (h : Nat) (f : Obj → Obj) : (m.onObj h f).fatal = m.fatal := by unfold Mod.onObj; split <;> rfl
@[simp] theorem Mod.onObj_ids (m : Mod) (h : Nat) (f : Obj → Obj) : (m.onObj h f).ids = m.ids := by unfold Mod.onObj; split <;> rfl
@[simp] theorem Mod.onObj_orders (m : Mod) (h : Nat) (f : Obj → Obj) : (m.onObj h f).orders = m.orders := by unfold Mod.onObj; split <;> rfl
@[simp] theorem Mod.onObj_free (m : Mod) (h : Nat) (f : Obj → Obj) : (m.onObj h f).free = m.free := by unfold Mod.onObj; split <;> rfl
@[simp] theorem Mod.onObj_core (m : Mod) (h : Nat) (f : Obj → Obj) : (m.onObj h f).core = m.core := by unfold Mod.onObj; split <;> rfl
@[simp] theorem Mod.onObj_arr (m : Mod) (h : Nat) (f : Obj → Obj) : (m.onObj h f).arr = m.arr := by unfold Mod.onObj; split <;> rfl
@[simp] theorem Mod.onObj_attic (m : Mod) (h : Nat) (f : Obj → Obj) : (m.onObj h f).attic = m.attic := by unfold Mod.onObj; split <;> rfl
@[simp] theorem Mod.onObj_cel (m : Mod) (h : Nat) (f : Obj → Obj) : (m.onObj h f).cel = m.cel := by unfold Mod.onObj; split <;> rfl
@[simp] theorem Mod.onObj_images (m : Mod) (h : Nat) (f : Obj → Obj) : (m.onObj h f).images = m.images := by unfold Mod.onObj; split <;> rfl
@[simp] theorem Mod.onObj_freed (m : Mod) (h : Nat) (f : Obj → Obj) : (m.onObj h f).freed = m.freed := by unfold Mod.onObj; split <;> rfl
@[simp] theorem Mod.onObj_num (m : Mod) (h : Nat) (f : Obj → Obj) : (m.onObj h f).num = m.num := by unfold Mod.onObj; split <;> rfl
@[simp] theorem Mod.onObj_upd (m : Mod) (h : Nat) (f : Obj → Obj) : (m.onObj h f).upd = m.upd := by unfold Mod.onObj; split <;> rfl
@[simp] theorem Mod.onObj_lnk (m : Mod) (h : Nat) (f : Obj → Obj) : (m.onObj h f).lnk = m.lnk := by unfold Mod.onObj; split <;> rfl
@[simp] theorem Mod.onObj_col (m : Mod) (h : Nat) (f : Obj → Obj) : (m.onObj h f).col = m.col := by unfold Mod.onObj; split <;> rfl
@[simp] theorem Mod.onObj_jobs (m : Mod) (h : Nat) (f : Obj → Obj) : (m.onObj h f).jobs = m.jobs := by unfold Mod.onObj; split <;> rfl
@[simp] theorem Mod.onObj_pwr (m : Mod) (h : Nat) (f : Obj → Obj) : (m.onObj h f).pwr = m.pwr := by unfold Mod.onObj; split <;> rfl
@[simp] theorem Mod.onObj_sb (m : Mod) (h : Nat) (f : Obj → Obj) : (m.onObj h f).sb = m.sb := by unfold Mod.onObj; split <;> rfl
@[simp] theorem Mod.onObj_test (m : Mod) (h : Nat) (f : Obj → Obj) : (m.onObj h f).test = m.test := by unfold Mod.onObj; split <;> rfl
@[simp] theorem Mod.onObj_testData (m : Mod) (h : Nat) (f : Obj → Obj) : (m.onObj h f).testData = m.testData := by unfold Mod.onObj; split <;> rfl
@[simp] theorem Mod.onObj_spdm (m : Mod) (h : Nat) (f : Obj → Obj) : (m.onObj h f).spdm = m.spdm := by unfold Mod.onObj; split <;> rfl
@[simp] theorem Mod.onObj_met (m : Mod) (h : Nat) (f : Obj → Obj) : (m.onObj h f).met = m.met := by unfold Mod.onObj; split <;> rfl

/-! ### Mod.devCount -/

@[simp] theorem Mod.devCount_out (m : Mod) (off : Nat) : (m.devCount off).out = m.out := rfl
@[simp] theorem Mod.devCount_phase (m : Mod) (off : Nat) : (m.devCount off).phase = m.phase := rfl
@[simp] theorem Mod.devCount_phaseAt (m : Mod) (off : Nat) : (m.devCount off).phaseAt = m.phaseAt := rfl
@[simp] theorem Mod.devCount_pins (m : Mod) (off : Nat) : (m.devCount off).pins = m.pins := rfl
@[simp] theorem Mod.devCount_tb (m : Mod) (off : Nat) : (m.devCount off).tb = m.tb := rfl
@[simp] theorem Mod.devCount_nv (m : Mod) (off : Nat) : (m.devCount off).nv = m.nv := rfl
@[simp] theorem Mod.devCount_sec (m : Mod) (off : Nat) : (m.devCount off).sec = m.sec := rfl
@[simp] theorem Mod.devCount_hif (m : Mod) (off : Nat) : (m.devCount off).hif = m.hif := rfl
@[simp] theorem Mod.devCount_fwver (m : Mod) (off : Nat) : (m.devCount off).fwver = m.fwver := rfl
@[simp] theorem Mod.devCount_autoFenced (m : Mod) (off : Nat) : (m.devCount off).autoFenced = m.autoFenced := rfl
@[simp] theorem Mod.devCount_lastAttempts (m : Mod) (off : Nat) : (m.devCount off).lastAttempts = m.lastAttempts := rfl
@[simp] theorem Mod.devCount_deferFence (m : Mod) (off : Nat) : (m.devCount off).deferFence = m.deferFence := rfl
@[simp] theorem Mod.devCount_deferUnfence (m : Mod) (off : Nat) : (m.devCount off).deferUnfence = m.deferUnfence := rfl
@[simp] theorem Mod.devCount_fatal (m : Mod) (off : Nat) : (m.devCount off).fatal = m.fatal := rfl
@[simp] theorem Mod.devCount_ids (m : Mod) (off : Nat) : (m.devCount off).ids = m.ids := rfl
@[simp] theorem Mod.devCount_orders (m : Mod) (off : Nat) : (m.devCount off).orders = m.orders := rfl
@[simp] theorem Mod.devCount_free (m : Mod) (off : Nat) : (m.devCount off).free = m.free := rfl
@[simp] theorem Mod.devCount_core (m : Mod) (off : Nat) : (m.devCount off).core = m.core := rfl
@[simp] theorem Mod.devCount_arr (m : Mod) (off : Nat) : (m.devCount off).arr = m.arr := rfl
@[simp] theorem Mod.devCount_res (m : Mod) (off : Nat) : (m.devCount off).res = m.res := rfl
@[simp] theorem Mod.devCount_attic (m : Mod) (off : Nat) : (m.devCount off).attic = m.attic := rfl
@[simp] theorem Mod.devCount_cel (m : Mod) (off : Nat) : (m.devCount off).cel = m.cel := rfl
@[simp] theorem Mod.devCount_images (m : Mod) (off : Nat) : (m.devCount off).images = m.images := rfl
@[simp] theorem Mod.devCount_freed (m : Mod) (off : Nat) : (m.devCount off).freed = m.freed := rfl
@[simp] theorem Mod.devCount_num (m : Mod) (off : Nat) : (m.devCount off).num = m.num := rfl
@[simp] theorem Mod.devCount_upd (m : Mod) (off : Nat) : (m.devCount off).upd = m.upd := rfl
@[simp] theorem Mod.devCount_lnk (m : Mod) (off : Nat) : (m.devCount off).lnk = m.lnk := rfl
@[simp] theorem Mod.devCount_col (m : Mod) (off : Nat) : (m.devCount off).col = m.col := rfl
@[simp] theorem Mod.devCount_jobs (m : Mod) (off : Nat) : (m.devCount off).jobs = m.jobs := rfl
@[simp] theorem Mod.devCount_pwr (m : Mod) (off : Nat) : (m.devCount off).pwr = m.pwr := rfl
@[simp] theorem Mod.devCount_sb (m : Mod) (off : Nat) : (m.devCount off).sb = m.sb := rfl
@[simp] theorem Mod.devCount_test (m : Mod) (off : Nat) : (m.devCount off).test = m.test := rfl
@[simp] theorem Mod.devCount_testData (m : Mod) (off : Nat) : (m.devCount off).testData = m.testData := rfl
@[simp] theorem Mod.devCount_spdm (m : Mod) (off : Nat) : (m.devCount off).spdm = m.spdm := rfl
@[simp] theorem Mod.devCount_met (m : Mod) (off : Nat) : (m.devCount off).met = m.met := rfl

/-! ### Mod.reservedTraffic -/

@[simp] theorem Mod.reservedTraffic_out (m : Mod) (cls n : Nat) : (m.reservedTraffic cls n).out = m.out := by unfold Mod.reservedTraffic Mod.stackBytes Mod.stackCnt; split <;> rfl
@[simp] theorem Mod.reservedTraffic_phase (m : Mod) (cls n : Nat) : (m.reservedTraffic cls n).phase = m.phase := by unfold Mod.reservedTraffic Mod.stackBytes Mod.stackCnt; split <;> rfl
@[simp] theorem Mod.reservedTraffic_phaseAt (m : Mod) (cls n : Nat) : (m.reservedTraffic cls n).phaseAt = m.phaseAt := by unfold Mod.reservedTraffic Mod.stackBytes Mod.stackCnt; split <;> rfl
@[simp] theorem Mod.reservedTraffic_pins (m : Mod) (cls n : Nat) : (m.reservedTraffic cls n).pins = m.pins := by unfold Mod.reservedTraffic Mod.stackBytes Mod.stackCnt; split <;> rfl
@[simp] theorem Mod.reservedTraffic_tb (m : Mod) (cls n : Nat) : (m.reservedTraffic cls n).tb = m.tb := by unfold Mod.reservedTraffic Mod.stackBytes Mod.stackCnt; split <;> rfl
@[simp] theorem Mod.reservedTraffic_nv (m : Mod) (cls n : Nat) : (m.reservedTraffic cls n).nv = m.nv := by unfold Mod.reservedTraffic Mod.stackBytes Mod.stackCnt; split <;> rfl
@[simp] theorem Mod.reservedTraffic_sec (m : Mod) (cls n : Nat) : (m.reservedTraffic cls n).sec = m.sec := by unfold Mod.reservedTraffic Mod.stackBytes Mod.stackCnt; split <;> rfl
@[simp] theorem Mod.reservedTraffic_hif (m : Mod) (cls n : Nat) : (m.reservedTraffic cls n).hif = m.hif := by unfold Mod.reservedTraffic Mod.stackBytes Mod.stackCnt; split <;> rfl
@[simp] theorem Mod.reservedTraffic_fwver (m : Mod) (cls n : Nat) : (m.reservedTraffic cls n).fwver = m.fwver := by unfold Mod.reservedTraffic Mod.stackBytes Mod.stackCnt; split <;> rfl
@[simp] theorem Mod.reservedTraffic_autoFenced (m : Mod) (cls n : Nat) : (m.reservedTraffic cls n).autoFenced = m.autoFenced := by unfold Mod.reservedTraffic Mod.stackBytes Mod.stackCnt; split <;> rfl
@[simp] theorem Mod.reservedTraffic_lastAttempts (m : Mod) (cls n : Nat) : (m.reservedTraffic cls n).lastAttempts = m.lastAttempts := by unfold Mod.reservedTraffic Mod.stackBytes Mod.stackCnt; split <;> rfl
@[simp] theorem Mod.reservedTraffic_devCnt (m : Mod) (cls n : Nat) : (m.reservedTraffic cls n).devCnt = m.devCnt := by unfold Mod.reservedTraffic Mod.stackBytes Mod.stackCnt; split <;> rfl
@[simp] theorem Mod.reservedTraffic_deferFence (m : Mod) (cls n : Nat) : (m.reservedTraffic cls n).deferFence = m.deferFence := by unfold Mod.reservedTraffic Mod.stackBytes Mod.stackCnt; split <;> rfl
@[simp] theorem Mod.reservedTraffic_deferUnfence (m : Mod) (cls n : Nat) : (m.reservedTraffic cls n).deferUnfence = m.deferUnfence := by unfold Mod.reservedTraffic Mod.stackBytes Mod.stackCnt; split <;> rfl
@[simp] theorem Mod.reservedTraffic_fatal (m : Mod) (cls n : Nat) : (m.reservedTraffic cls n).fatal = m.fatal := by unfold Mod.reservedTraffic Mod.stackBytes Mod.stackCnt; split <;> rfl
@[simp] theorem Mod.reservedTraffic_ids (m : Mod) (cls n : Nat) : (m.reservedTraffic cls n).ids = m.ids := by unfold Mod.reservedTraffic Mod.stackBytes Mod.stackCnt; split <;> rfl
@[simp] theorem Mod.reservedTraffic_orders (m : Mod) (cls n : Nat) : (m.reservedTraffic cls n).orders = m.orders := by unfold Mod.reservedTraffic Mod.stackBytes Mod.stackCnt; split <;> rfl
@[simp] theorem Mod.reservedTraffic_core (m : Mod) (cls n : Nat) : (m.reservedTraffic cls n).core = m.core := by unfold Mod.reservedTraffic Mod.stackBytes Mod.stackCnt; split <;> rfl
@[simp] theorem Mod.reservedTraffic_arr (m : Mod) (cls n : Nat) : (m.reservedTraffic cls n).arr = m.arr := by unfold Mod.reservedTraffic Mod.stackBytes Mod.stackCnt; split <;> rfl
@[simp] theorem Mod.reservedTraffic_res (m : Mod) (cls n : Nat) : (m.reservedTraffic cls n).res = m.res := by unfold Mod.reservedTraffic Mod.stackBytes Mod.stackCnt; split <;> rfl
@[simp] theorem Mod.reservedTraffic_attic (m : Mod) (cls n : Nat) : (m.reservedTraffic cls n).attic = m.attic := by unfold Mod.reservedTraffic Mod.stackBytes Mod.stackCnt; split <;> rfl
@[simp] theorem Mod.reservedTraffic_images (m : Mod) (cls n : Nat) : (m.reservedTraffic cls n).images = m.images := by unfold Mod.reservedTraffic Mod.stackBytes Mod.stackCnt; split <;> rfl
@[simp] theorem Mod.reservedTraffic_freed (m : Mod) (cls n : Nat) : (m.reservedTraffic cls n).freed = m.freed := by unfold Mod.reservedTraffic Mod.stackBytes Mod.stackCnt; split <;> rfl
@[simp] theorem Mod.reservedTraffic_num (m : Mod) (cls n : Nat) : (m.reservedTraffic cls n).num = m.num := by unfold Mod.reservedTraffic Mod.stackBytes Mod.stackCnt; split <;> rfl
@[simp] theorem Mod.reservedTraffic_upd (m : Mod) (cls n : Nat) : (m.reservedTraffic cls n).upd = m.upd := by unfold Mod.reservedTraffic Mod.stackBytes Mod.stackCnt; split <;> rfl
@[simp] theorem Mod.reservedTraffic_lnk (m : Mod) (cls n : Nat) : (m.reservedTraffic cls n).lnk = m.lnk := by unfold Mod.reservedTraffic Mod.stackBytes Mod.stackCnt; split <;> rfl
@[simp] theorem Mod.reservedTraffic_col (m : Mod) (cls n : Nat) : (m.reservedTraffic cls n).col = m.col := by unfold Mod.reservedTraffic Mod.stackBytes Mod.stackCnt; split <;> rfl
@[simp] theorem Mod.reservedTraffic_jobs (m : Mod) (cls n : Nat) : (m.reservedTraffic cls n).jobs = m.jobs := by unfold Mod.reservedTraffic Mod.stackBytes Mod.stackCnt; split <;> rfl
@[simp] theorem Mod.reservedTraffic_pwr (m : Mod) (cls n : Nat) : (m.reservedTraffic cls n).pwr = m.pwr := by unfold Mod.reservedTraffic Mod.stackBytes Mod.stackCnt; split <;> rfl
@[simp] theorem Mod.reservedTraffic_sb (m : Mod) (cls n : Nat) : (m.reservedTraffic cls n).sb = m.sb := by unfold Mod.reservedTraffic Mod.stackBytes Mod.stackCnt; split <;> rfl
@[simp] theorem Mod.reservedTraffic_test (m : Mod) (cls n : Nat) : (m.reservedTraffic cls n).test = m.test := by unfold Mod.reservedTraffic Mod.stackBytes Mod.stackCnt; split <;> rfl
@[simp] theorem Mod.reservedTraffic_testData (m : Mod) (cls n : Nat) : (m.reservedTraffic cls n).testData = m.testData := by unfold Mod.reservedTraffic Mod.stackBytes Mod.stackCnt; split <;> rfl
@[simp] theorem Mod.reservedTraffic_spdm (m : Mod) (cls n : Nat) : (m.reservedTraffic cls n).spdm = m.spdm := by unfold Mod.reservedTraffic Mod.stackBytes Mod.stackCnt; split <;> rfl
@[simp] theorem Mod.reservedTraffic_met (m : Mod) (cls n : Nat) : (m.reservedTraffic cls n).met = m.met := by unfold Mod.reservedTraffic Mod.stackBytes Mod.stackCnt; split <;> rfl

/-! ### Mod.evrTraffic -/

@[simp] theorem Mod.evrTraffic_out (m : Mod) (a b : Evr) : (m.evrTraffic a b).out = m.out := by unfold Mod.evrTraffic; split <;> simp
@[simp] theorem Mod.evrTraffic_phase (m : Mod) (a b : Evr) : (m.evrTraffic a b).phase = m.phase := by unfold Mod.evrTraffic; split <;> simp
@[simp] theorem Mod.evrTraffic_phaseAt (m : Mod) (a b : Evr) : (m.evrTraffic a b).phaseAt = m.phaseAt := by unfold Mod.evrTraffic; split <;> simp
@[simp] theorem Mod.evrTraffic_pins (m : Mod) (a b : Evr) : (m.evrTraffic a b).pins = m.pins := by unfold Mod.evrTraffic; split <;> simp
@[simp] theorem Mod.evrTraffic_tb (m : Mod) (a b : Evr) : (m.evrTraffic a b).tb = m.tb := by unfold Mod.evrTraffic; split <;> simp
@[simp] theorem Mod.evrTraffic_nv (m : Mod) (a b : Evr) : (m.evrTraffic a b).nv = m.nv := by unfold Mod.evrTraffic; split <;> simp
@[simp] theorem Mod.evrTraffic_sec (m : Mod) (a b : Evr) : (m.evrTraffic a b).sec = m.sec := by unfold Mod.evrTraffic; split <;> simp
@[simp] theorem Mod.evrTraffic_hif (m : Mod) (a b : Evr) : (m.evrTraffic a b).hif = m.hif := by unfold Mod.evrTraffic; split <;> simp
@[simp] theorem Mod.evrTraffic_fwver (m : Mod) (a b : Evr) : (m.evrTraffic a b).fwver = m.fwver := by unfold Mod.evrTraffic; split <;> simp
@[simp] theorem Mod.evrTraffic_autoFenced (m : Mod) (a b : Evr) : (m.evrTraffic a b).autoFenced = m.autoFenced := by unfold Mod.evrTraffic; split <;> simp
@[simp] theorem Mod.evrTraffic_lastAttempts (m : Mod) (a b : Evr) : (m.evrTraffic a b).lastAttempts = m.lastAttempts := by unfold Mod.evrTraffic; split <;> simp
@[simp] theorem Mod.evrTraffic_devCnt (m : Mod) (a b : Evr) : (m.evrTraffic a b).devCnt = m.devCnt := by unfold Mod.evrTraffic; split <;> simp
@[simp] theorem Mod.evrTraffic_deferFence (m : Mod) (a b : Evr) : (m.evrTraffic a b).deferFence = m.deferFence := by unfold Mod.evrTraffic; split <;> simp
@[simp] theorem Mod.evrTraffic_deferUnfence (m : Mod) (a b : Evr) : (m.evrTraffic a b).deferUnfence = m.deferUnfence := by unfold Mod.evrTraffic; split <;> simp
@[simp] theorem Mod.evrTraffic_fatal (m : Mod) (a b : Evr) : (m.evrTraffic a b).fatal = m.fatal := by unfold Mod.evrTraffic; split <;> simp
@[simp] theorem Mod.evrTraffic_ids (m : Mod) (a b : Evr) : (m.evrTraffic a b).ids = m.ids := by unfold Mod.evrTraffic; split <;> simp
@[simp] theorem Mod.evrTraffic_orders (m : Mod) (a b : Evr) : (m.evrTraffic a b).orders = m.orders := by unfold Mod.evrTraffic; split <;> simp
@[simp] theorem Mod.evrTraffic_core (m : Mod) (a b : Evr) : (m.evrTraffic a b).core = m.core := by unfold Mod.evrTraffic; split <;> simp
@[simp] theorem Mod.evrTraffic_arr (m : Mod) (a b : Evr) : (m.evrTraffic a b).arr = m.arr := by unfold Mod.evrTraffic; split <;> simp
@[simp] theorem Mod.evrTraffic_res (m : Mod) (a b : Evr) : (m.evrTraffic a b).res = m.res := by unfold Mod.evrTraffic; split <;> simp
@[simp] theorem Mod.evrTraffic_attic (m : Mod) (a b : Evr) : (m.evrTraffic a b).attic = m.attic := by unfold Mod.evrTraffic; split <;> simp
@[simp] theorem Mod.evrTraffic_images (m : Mod) (a b : Evr) : (m.evrTraffic a b).images = m.images := by unfold Mod.evrTraffic; split <;> simp
@[simp] theorem Mod.evrTraffic_freed (m : Mod) (a b : Evr) : (m.evrTraffic a b).freed = m.freed := by unfold Mod.evrTraffic; split <;> simp
@[simp] theorem Mod.evrTraffic_num (m : Mod) (a b : Evr) : (m.evrTraffic a b).num = m.num := by unfold Mod.evrTraffic; split <;> simp
@[simp] theorem Mod.evrTraffic_upd (m : Mod) (a b : Evr) : (m.evrTraffic a b).upd = m.upd := by unfold Mod.evrTraffic; split <;> simp
@[simp] theorem Mod.evrTraffic_lnk (m : Mod) (a b : Evr) : (m.evrTraffic a b).lnk = m.lnk := by unfold Mod.evrTraffic; split <;> simp
@[simp] theorem Mod.evrTraffic_col (m : Mod) (a b : Evr) : (m.evrTraffic a b).col = m.col := by unfold Mod.evrTraffic; split <;> simp
@[simp] theorem Mod.evrTraffic_jobs (m : Mod) (a b : Evr) : (m.evrTraffic a b).jobs = m.jobs := by unfold Mod.evrTraffic; split <;> simp
@[simp] theorem Mod.evrTraffic_pwr (m : Mod) (a b : Evr) : (m.evrTraffic a b).pwr = m.pwr := by unfold Mod.evrTraffic; split <;> simp
@[simp] theorem Mod.evrTraffic_sb (m : Mod) (a b : Evr) : (m.evrTraffic a b).sb = m.sb := by unfold Mod.evrTraffic; split <;> simp
@[simp] theorem Mod.evrTraffic_test (m : Mod) (a b : Evr) : (m.evrTraffic a b).test = m.test := by unfold Mod.evrTraffic; split <;> simp
@[simp] theorem Mod.evrTraffic_testData (m : Mod) (a b : Evr) : (m.evrTraffic a b).testData = m.testData := by unfold Mod.evrTraffic; split <;> simp
@[simp] theorem Mod.evrTraffic_spdm (m : Mod) (a b : Evr) : (m.evrTraffic a b).spdm = m.spdm := by unfold Mod.evrTraffic; split <;> simp
@[simp] theorem Mod.evrTraffic_met (m : Mod) (a b : Evr) : (m.evrTraffic a b).met = m.met := by unfold Mod.evrTraffic; split <;> simp

/-! ### Reading back -/

@[simp] theorem Mod.ev_out_events (m : Mod) (code sev : Nat) (fs : List (Nat × Nat × Nat)) :
    (m.ev code sev fs).out.events.length = m.out.events.length + 1 := by simp [Mod.ev]
theorem Mod.core!_onCore (m : Mod) (c : Nat) (f : CoreSt → CoreSt) (h : Tab.risesFrom 0 m.core) : (m.onCore c f).core! c = f (m.core! c) :=
  (Tab.get_set _ _ 0 _ _ _ h).trans (if_pos rfl)
theorem Mod.core!_onCore_ne (m : Mod) (c : Nat) (f : CoreSt → CoreSt) (j : Nat) (h : Tab.risesFrom 0 m.core) (hj : j ≠ c) : (m.onCore c f).core! j = m.core! j :=
  (Tab.get_set _ _ 0 _ _ _ h).trans (if_neg hj)
theorem Mod.arr!_onArr (m : Mod) (c a : Nat) (f : ArrSt → ArrSt) (h : Tab.risesFrom 0 m.arr) : (m.onArr c a f).arr! c a = f (m.arr! c a) :=
  (Tab.get_set _ _ 0 _ _ _ h).trans (if_pos rfl)
theorem Mod.port!_onPort (m : Mod) (p : Nat) (f : PortSt → PortSt) (h : Tab.risesFrom 0 m.lnk.ports) : (m.onPort p f).port! p = f (m.port! p) :=
  (Tab.get_set _ _ 0 _ _ _ h).trans (if_pos rfl)
theorem Mod.port!_onPort_ne (m : Mod) (p : Nat) (f : PortSt → PortSt) (j : Nat) (h : Tab.risesFrom 0 m.lnk.ports) (hj : j ≠ p) : (m.onPort p f).port! j = m.port! j :=
  (Tab.get_set _ _ 0 _ _ _ h).trans (if_neg hj)
theorem Mod.stack!_onStack (m : Mod) (i : Nat) (f : StackSt → StackSt) (h : Tab.risesFrom 0 m.cel.st) : (m.onStack i f).stack! i = f (m.stack! i) :=
  (Tab.get_set _ _ 0 _ _ _ h).trans (if_pos rfl)
theorem Mod.stack!_onStack_ne (m : Mod) (i : Nat) (f : StackSt → StackSt) (j : Nat) (h : Tab.risesFrom 0 m.cel.st) (hj : j ≠ i) : (m.onStack i f).stack! j = m.stack! j :=
  (Tab.get_set _ _ 0 _ _ _ h).trans (if_neg hj)
theorem Mod.q!_onQ (m : Mod) (q : Nat) (f : Qp → Qp) (h : Tab.risesFrom 0 m.hif.q) : (m.onQ q f).q! q = f (m.q! q) :=
  (Tab.get_set _ _ 0 _ _ _ h).trans (if_pos rfl)
theorem Mod.q!_onQ_ne (m : Mod) (q : Nat) (f : Qp → Qp) (j : Nat) (h : Tab.risesFrom 0 m.hif.q) (hj : j ≠ q) : (m.onQ q f).q! j = m.q! j :=
  (Tab.get_set _ _ 0 _ _ _ h).trans (if_neg hj)
theorem Mod.layer!_onLayer (m : Mod) (l : Nat) (f : Layer → Layer) (h : Tab.risesFrom 0 m.upd.layers) : (m.onLayer l f).layer! l = f (m.layer! l) :=
  (Tab.get_set _ _ 0 _ _ _ h).trans (if_pos rfl)
theorem Mod.layer!_onLayer_ne (m : Mod) (l : Nat) (f : Layer → Layer) (j : Nat) (h : Tab.risesFrom 0 m.upd.layers) (hj : j ≠ l) : (m.onLayer l f).layer! j = m.layer! j :=
  (Tab.get_set _ _ 0 _ _ _ h).trans (if_neg hj)
theorem Mod.unit!_onUnit (m : Mod) (u : Nat) (f : UnitSt → UnitSt) (h : Tab.risesFrom 0 m.upd.units) : (m.onUnit u f).unit! u = f (m.unit! u) :=
  (Tab.get_set _ _ 0 _ _ _ h).trans (if_pos rfl)
theorem Mod.unit!_onUnit_ne (m : Mod) (u : Nat) (f : UnitSt → UnitSt) (j : Nat) (h : Tab.risesFrom 0 m.upd.units) (hj : j ≠ u) : (m.onUnit u f).unit! j = m.unit! j :=
  (Tab.get_set _ _ 0 _ _ _ h).trans (if_neg hj)
theorem Mod.die!_onDie (m : Mod) (d : Nat) (f : DieSt → DieSt) (h : Tab.risesFrom 0 m.pwr.die) : (m.onDie d f).die! d = f (m.die! d) :=
  (Tab.get_set _ _ 0 _ _ _ h).trans (if_pos rfl)
theorem Mod.die!_onDie_ne (m : Mod) (d : Nat) (f : DieSt → DieSt) (j : Nat) (h : Tab.risesFrom 0 m.pwr.die) (hj : j ≠ d) : (m.onDie d f).die! j = m.die! j :=
  (Tab.get_set _ _ 0 _ _ _ h).trans (if_neg hj)

end Sys2Proof.Machine
end

