-- ==== Sys2Proof/Laws/Commit.lean ====
section
/-! SUPPORT. The end of a row: what `State.commit` keeps, and the forms every meaning takes (`run`, `runE`, `runH`). -/
namespace Sys2Proof.Machine


/-- A row leaves no event and no write behind. -/
theorem State.commit_out (s : State) (m : Mod) : (s.commit m).m.out = {} := by
  simp only [State.commit]
  repeat' split
  all_goals simp only [Mod.async_out, Mod.evrTraffic_out]

@[simp] theorem State.commit_pending (s : State) (m : Mod) : (s.commit m).pending = s.pending := rfl
@[simp] theorem State.commit_sbx (s : State) (m : Mod) : (s.commit m).sbx = s.sbx := rfl
@[simp] theorem State.commit_mem (s : State) (m : Mod) :
    (s.commit m).mem = m.out.writes.foldl (fun mem w => Memory.writeMany mem w.addr w.bytes) s.mem := rfl
@[simp] theorem State.commit_evr (s : State) (m : Mod) : (s.commit m).evr = (sortEv m.out.events).foldl Evr.record s.evr := rfl

theorem State.commit_wf (s : State) (m : Mod) (h : Memory.wf s.mem = true) : Memory.wf (s.commit m).mem = true := by
  rw [State.commit_mem]; exact Memory.writes_wf m.out.writes s.mem h

/-- A row that emits no event leaves the recorder as it was. -/
theorem State.commit_evr_of_no_events (s : State) (m : Mod) (h : m.out.events = []) : (s.commit m).evr = s.evr := by
  rw [State.commit_evr, h]; rfl

/-- What a row that runs can do to the parts beside the module: the queue and the Strongbox stay, host memory and the recorder change by
what the row emitted, nothing emitted is left. -/
theorem run_cases (f : Mod → Mod) (s t : State) (h : run f s = .next t) : t = s.commit (f s.m) := by cases h; rfl
theorem runH_cases (f : List Host.Cell → Mod → Mod) (s t : State) (h : runH f s = .next t) : t = s.commit (f s.mem s.m) := by
  cases h; rfl
theorem runE_cases (f : Evr → Mod → Mod × Evr) (s t : State) (h : runE f s = .next t) :
    ∃ m, m.out = (f s.evr s.m).1.out ∧ t = { s with evr := (f s.evr s.m).2 }.commit m := by
  cases h
  refine ⟨_, ?_, rfl⟩
  rw [Mod.evrTraffic_out]
  split
  · exact Mod.async_out _ _
  · rfl

@[simp] theorem Mod.ev_events (m : Mod) (code sev : Nat) (fs : List (Nat × Nat × Nat)) :
    (m.ev code sev fs).out.writes = m.out.writes := rfl
@[simp] theorem Mod.hostWrite_events (m : Mod) (a : Nat) (bs : List Byte) : (m.hostWrite a bs).out.events = m.out.events := rfl
@[simp] theorem Mod.hostWrite_writes (m : Mod) (a : Nat) (bs : List Byte) :
    (m.hostWrite a bs).out.writes = m.out.writes ++ [{ addr := a, bytes := bs }] := rfl

/-- A reply writes its 32 bytes to the queue's next completion slot. -/
theorem Mod.reply_out (m : Mod) (q id st d : Nat) (res : List (Nat × Nat × Nat)) (fl : Nat) (hq : q < 64) :
    (m.reply q id st d res fl).out = { m.out with writes := m.out.writes ++ [{
      addr := (m.q! q).cqBase + 32 * (m.q! q).cqTail
      bytes := leBytes 32 (pack ([(0, 4, id), (4, 2, st), (6, 1, q + (if (m.q! q).phase then 128 else 0)), (8, 2, (m.q! q).sqHead),
        (10, 2, fl), (12, 4, d)] ++ res)) }] } := by
  unfold Mod.reply
  rw [if_neg (Nat.not_le.2 hq)]
  simp only []
  split <;> rfl

end Sys2Proof.Machine
end

