-- ==== Sys2Proof/Laws/Engines.lean ====
section
/-! SUPPORT. What the shared operations of the sequencers and the engines can do. -/
namespace Sys2Proof.Machine

/-- At a row that issues an opcode the module stays as it is, or the slot's head is open and: it faults with the lowest
failing cause (R52), or it has its effect alone, or its wait ends, or it asks for an engine that several cores share (R46), or it
retires quenched (R200), or it has its effect with its pins granted (R349). -/
theorem Mod.issue_cases {m r : Mod} {c k op : Nat} {act : Mod → Nat → SlotSt → Nat → Mod} {quench : Mod → SlotSt → Nat → Mod}
    (h : m.issue c k op act quench = r) : r = m ∨
    ∃ s d t, Tab.find (m.core! c).slots k = some s ∧ s.rest = d :: t ∧ m.headOpen c k s d = true ∧
      ((∃ cause, lowest (descCauses m c s d) = some cause ∧ r = m.listFault c k s d cause) ∨
       (lowest (descCauses m c s d) = none ∧
        (r = act m 0 s d ∨ r = m.settle c ∨ (m.winner c ≠ some k ∧ r = m.ask c k s d) ∨
         (m.winner c = some k ∧
          (r = ((quench (m.takeHead c k s d []) s d).retire c m.ids true).settle c ∨
           ∃ m', m.takePins c s.l.job (descPins m c s.l.task s.l.job d) = some m' ∧
             r = (act (m'.takeHead c k s d (descPins m c s.l.task s.l.job d)) m.ids s d).settle c))))) := by
  unfold Mod.issue at h
  split at h
  · exact .inl h.symm
  next s hs =>
  split at h
  · exact .inl h.symm
  next d t hr =>
  split at h
  · exact .inl h.symm
  next ho =>
  have ho : m.headOpen c k s d = true := by
    cases e : m.headOpen c k s d
    · simp [e] at ho
    · rfl
  split at h
  · exact .inl h.symm
  split at h
  next cause hc => exact .inr ⟨s, d, t, hs, hr, ho, .inl ⟨cause, hc, h.symm⟩⟩
  next hc =>
  split at h
  · exact .inr ⟨s, d, t, hs, hr, ho, .inr ⟨hc, .inl h.symm⟩⟩
  split at h
  · exact .inr ⟨s, d, t, hs, hr, ho, .inr ⟨hc, .inr (.inl h.symm)⟩⟩
  split at h
  next hw => exact .inr ⟨s, d, t, hs, hr, ho, .inr ⟨hc, .inr (.inr (.inl ⟨hw, h.symm⟩))⟩⟩
  next hw =>
  have hw : m.winner c = some k := Classical.not_not.1 hw
  split at h
  · exact .inr ⟨s, d, t, hs, hr, ho, .inr ⟨hc, .inr (.inr (.inr ⟨hw, .inl h.symm⟩))⟩⟩
  dsimp only at h
  split at h
  · exact .inl h.symm
  next m' hp => exact .inr ⟨s, d, t, hs, hr, ho, .inr ⟨hc, .inr (.inr (.inr ⟨hw, .inr ⟨m', hp, h.symm⟩⟩))⟩⟩

/-- A core that is fenced or in its fence issues nothing. -/
theorem Mod.headOpen_unfenced {m : Mod} {c k d : Nat} {s : SlotSt} (h : m.headOpen c k s d = true) :
    (m.core! c).fenced = false ∧ (m.core! c).fencing = none := by
  simp only [Mod.headOpen, Bool.and_eq_true] at h
  simp_all

/-- An engine does the work of a descriptor in flight that may be worked on, or nothing. -/
theorem Mod.tryWork_cases (m : Mod) (c id : Nat) : m.tryWork c id = m ∨
    ∃ f, m.infl? c id = some f ∧ m.mayWork c f = true ∧ m.tryWork c id = m.work c f := by
  unfold Mod.tryWork
  cases hf : m.infl? c id with
  | none => exact .inl rfl
  | some f =>
    cases hw : m.mayWork c f
    · exact .inl (by simp [hw])
    · exact .inr ⟨f, rfl, hw, by simp [hw]⟩

/-- A step of an engine is that work, followed for a pass by its residue checks (R110). -/
theorem Mod.engineStep_cases (m : Mod) (c id : Nat) : m.engineStep c id = m ∨
    ∃ f, m.infl? c id = some f ∧ m.mayWork c f = true ∧
      m.engineStep c id = if dOp f.d = opArrPass then (m.work c f).residueCheck c f else m.work c f := by
  unfold Mod.engineStep
  cases hf : m.infl? c id with
  | none => exact .inl rfl
  | some f =>
    cases hw : m.mayWork c f
    · exact .inl (by simp [hw])
    · exact .inr ⟨f, rfl, hw, by simp [hw]⟩

/-- A descriptor retires at issue unless one stands before it on its engine (R45). -/
theorem Mod.retireUnless_cases (m : Mod) (c id : Nat) : m.retireUnless c id = m ∨
    ∃ f, m.infl? c id = some f ∧ (m.core! c).behind f = false ∧ m.retireUnless c id = m.retire c id true := by
  unfold Mod.retireUnless
  cases hf : m.infl? c id with
  | none => exact .inl rfl
  | some f =>
    cases hb : (m.core! c).behind f
    · exact .inr ⟨f, rfl, hb, by simp [hb]⟩
    · exact .inl (by simp [hb])

/-- What stands of a stack when traffic is counted at one: all but its counters and its tokens. -/
theorem Mod.stack!_stackBytes (m : Mod) (i cls n j : Nat) (h : Tab.risesFrom 0 m.cel.st) : ∃ t c,
    (m.stackBytes i cls n).stack! j = { (m.stack! j) with tokens := t, c := c } := by
  have hc : Tab.risesFrom 0 (m.stackCnt i (0x300 + 8 * cls) n).cel.st := by
    unfold Mod.stackCnt; split
    · exact h
    · exact Tab.set_rises _ _ _ _ _ h (Nat.zero_le _)
  have h1 : ∃ c, (m.stackCnt i (0x300 + 8 * cls) n).stack! j = { (m.stack! j) with c := c } := by
    unfold Mod.stackCnt; split
    · exact ⟨_, rfl⟩
    · by_cases e : j = i
      · subst e; exact ⟨_, Mod.stack!_onStack _ _ _ h⟩
      · exact ⟨_, Mod.stack!_onStack_ne _ _ _ _ h e⟩
  obtain ⟨c, h1⟩ := h1
  unfold Mod.stackBytes
  by_cases e : j = i
  · subst e; rw [Mod.stack!_onStack _ _ _ hc, h1]; exact ⟨_, _, rfl⟩
  · rw [Mod.stack!_onStack_ne _ _ _ _ hc e, h1]; exact ⟨_, _, rfl⟩
/-- Metadata traffic leaves the stacks that take tiles as they are. -/
theorem Mod.eligible_metaTraffic (m : Mod) (h : Tab.risesFrom 0 m.cel.st) : m.metaTraffic.eligible = m.eligible := by
  refine List.filter_congr fun s _ => ?_
  obtain ⟨t, c, e⟩ := Mod.stack!_stackBytes { m with free := m.free + 1 + 1 } ((Config.freeValue (m.free + 1)).toNat % 32) 3 (Config.freeValue m.free).toNat s h
  have e' : m.metaTraffic.stack! s = _ := e
  simp only [e']; rfl

end Sys2Proof.Machine
end

