-- ==== Sys2Proof/Laws/Exec.lean ====
section
/-! SUPPORT. Each arm of `exec`: the row's meaning, so that no proof unfolds the dispatch. -/
namespace Sys2Proof.Machine

@[simp] theorem exec_devQuery {q p} (s : State) : exec (.devQuery q p) s = execDevQuery q p s := rfl
@[simp] theorem exec_devConfig {q p} (s : State) : exec (.devConfig q p) s = execDevConfig q p s := rfl
@[simp] theorem exec_jobOpen {q p} (s : State) : exec (.jobOpen q p) s = execJobOpen q p s := rfl
@[simp] theorem exec_jobClose {q p} (s : State) : exec (.jobClose q p) s = execJobClose q p s := rfl
@[simp] theorem exec_objCreate {q p} (s : State) : exec (.objCreate q p) s = execObjCreate q p s := rfl
@[simp] theorem exec_objFree {q p} (s : State) : exec (.objFree q p) s = execObjFree q p s := rfl
@[simp] theorem exec_objHint {q p} (s : State) : exec (.objHint q p) s = execObjHint q p s := rfl
@[simp] theorem exec_objWrite {q p} (s : State) : exec (.objWrite q p) s = execObjWrite q p s := rfl
@[simp] theorem exec_objRead {q p} (s : State) : exec (.objRead q p) s = execObjRead q p s := rfl
@[simp] theorem exec_taskLoad {q p} (s : State) : exec (.taskLoad q p) s = execTaskLoad q p s := rfl
@[simp] theorem exec_stepRun {q p} (s : State) : exec (.stepRun q p) s = execStepRun q p s := rfl
@[simp] theorem exec_stepAbort {q p} (s : State) : exec (.stepAbort q p) s = execStepAbort q p s := rfl
@[simp] theorem exec_layerSet {q p} (s : State) : exec (.layerSet q p) s = execLayerSet q p s := rfl
@[simp] theorem exec_schedSet {q p} (s : State) : exec (.schedSet q p) s = execSchedSet q p s := rfl
@[simp] theorem exec_ckptWrite {q p} (s : State) : exec (.ckptWrite q p) s = execCkptWrite q p s := rfl
@[simp] theorem exec_ckptRestore {q p} (s : State) : exec (.ckptRestore q p) s = execCkptRestore q p s := rfl
@[simp] theorem exec_snapshotExport {q p} (s : State) : exec (.snapshotExport q p) s = execSnapshotExport q p s := rfl
@[simp] theorem exec_topoSet {q p} (s : State) : exec (.topoSet q p) s = execTopoSet q p s := rfl
@[simp] theorem exec_timeJoin {q p} (s : State) : exec (.timeJoin q p) s = execTimeJoin q p s := rfl
@[simp] theorem exec_opSet {q p} (s : State) : exec (.opSet q p) s = execOpSet q p s := rfl
@[simp] theorem exec_powerCap {q p} (s : State) : exec (.powerCap q p) s = execPowerCap q p s := rfl
@[simp] theorem exec_coreFence {q p} (s : State) : exec (.coreFence q p) s = execCoreFence q p s := rfl
@[simp] theorem exec_coreUnfence {q p} (s : State) : exec (.coreUnfence q p) s = execCoreUnfence q p s := rfl
@[simp] theorem exec_evrRead {q p} (s : State) : exec (.evrRead q p) s = execEvrRead q p s := rfl
@[simp] theorem exec_evrFreeze {q p} (s : State) : exec (.evrFreeze q p) s = execEvrFreeze q p s := rfl
@[simp] theorem exec_evrThaw {q p} (s : State) : exec (.evrThaw q p) s = execEvrThaw q p s := rfl
@[simp] theorem exec_evrClear {q p g} (s : State) : exec (.evrClear q p g) s = execEvrClear q p g s := rfl
@[simp] theorem exec_fwStage {q p} (s : State) : exec (.fwStage q p) s = execFwStage q p s := rfl
@[simp] theorem exec_fwActivate {q p g a} (s : State) : exec (.fwActivate q p g a) s = execFwActivate q p g a s := rfl
@[simp] theorem exec_attest {q p} (s : State) : exec (.attest q p) s = execAttest q p s := rfl
@[simp] theorem exec_debugUnlock {q p g} (s : State) : exec (.debugUnlock q p g) s = execDebugUnlock q p g s := rfl
@[simp] theorem exec_syncForce {q p} (s : State) : exec (.syncForce q p) s = execSyncForce q p s := rfl
@[simp] theorem exec_metRead {q p} (s : State) : exec (.metRead q p) s = execMetRead q p s := rfl
@[simp] theorem exec_sqTailDoorbell {q v} (s : State) : exec (.sqTailDoorbell q v) s = execSqTailDoorbell q v s := rfl
@[simp] theorem exec_cqHeadDoorbell {q v} (s : State) : exec (.cqHeadDoorbell q v) s = execCqHeadDoorbell q v s := rfl
@[simp] theorem exec_queueEnable {v} (s : State) : exec (.queueEnable v) s = execQueueEnable v s := rfl
@[simp] theorem exec_queueDisable {v} (s : State) : exec (.queueDisable v) s = execQueueDisable v s := rfl
@[simp] theorem exec_commandStart (s : State) : exec .commandStart s = execCommandStart s := rfl
@[simp] theorem exec_hostDmaError {q fetch addr kind} (s : State) : exec (.hostDmaError q fetch addr kind) s = execHostDmaError q fetch addr kind s := rfl
@[simp] theorem exec_interruptCoalesceTimeout {q} (s : State) : exec (.interruptCoalesceTimeout q) s = execInterruptCoalesceTimeout q s := rfl
@[simp] theorem exec_debugApertureAccess {off size w} (s : State) : exec (.debugApertureAccess off size w) s = execDebugApertureAccess off size w s := rfl
@[simp] theorem exec_flr (s : State) : exec .flr s = execFlr s := rfl
@[simp] theorem exec_pcieAerError {correctable status} (s : State) : exec (.pcieAerError correctable status) s = execPcieAerError correctable status s := rfl
@[simp] theorem exec_pcieDegraded {width rate} (s : State) : exec (.pcieDegraded width rate) s = execPcieDegraded width rate s := rfl
@[simp] theorem exec_ideError {status} (s : State) : exec (.ideError status) s = execIdeError status s := rfl
@[simp] theorem exec_cntClear {b freeze} (s : State) : exec (.cntClear b freeze) s = execCntClear b freeze s := rfl
@[simp] theorem exec_cntFreeze {b freeze} (s : State) : exec (.cntFreeze b freeze) s = execCntFreeze b freeze s := rfl
@[simp] theorem exec_histogramSnapshotSelect {v} (s : State) : exec (.histogramSnapshotSelect v) s = execHistogramSnapshotSelect v s := rfl
@[simp] theorem exec_histogramSnapshotDone (s : State) : exec .histogramSnapshotDone s = execHistogramSnapshotDone s := rfl
@[simp] theorem exec_celGangWrite {v} (s : State) : exec (.celGangWrite v) s = execCelGangWrite v s := rfl
@[simp] theorem exec_celRegWrite {c v} (s : State) : exec (.celRegWrite c v) s = execCelRegWrite c v s := rfl
@[simp] theorem exec_regulatorChangeEffect {st c} (s : State) : exec (.regulatorChangeEffect st c) s = execRegulatorChangeEffect st c s := rfl
@[simp] theorem exec_panFloorWrite {c v} (s : State) : exec (.panFloorWrite c v) s = execPanFloorWrite c v s := rfl
@[simp] theorem exec_debugLockWrite {v} (s : State) : exec (.debugLockWrite v) s = execDebugLockWrite v s := rfl
@[simp] theorem exec_metEnergyRead (s : State) : exec .metEnergyRead s = execMetEnergyRead s := rfl
@[simp] theorem exec_registerWrite {bar2 off wide v} (s : State) : exec (.registerWrite bar2 off wide v) s = execRegisterWrite bar2 off wide v s := rfl
@[simp] theorem exec_phaseDispatch {job} (s : State) : exec (.phaseDispatch job) s = execPhaseDispatch job s := rfl
@[simp] theorem exec_lookahead {c k} (s : State) : exec (.lookahead c k) s = execLookahead c k s := rfl
@[simp] theorem exec_arrPass {c k} (s : State) : exec (.arrPass c k) s = execArrPass c k s := rfl
@[simp] theorem exec_arrLoad {c k} (s : State) : exec (.arrLoad c k) s = execArrLoad c k s := rfl
@[simp] theorem exec_vecStream {c k} (s : State) : exec (.vecStream c k) s = execVecStream c k s := rfl
@[simp] theorem exec_vecReduce {c k} (s : State) : exec (.vecReduce c k) s = execVecReduce c k s := rfl
@[simp] theorem exec_move {c k} (s : State) : exec (.move c k) s = execMove c k s := rfl
@[simp] theorem exec_prefetch {c k} (s : State) : exec (.prefetch c k) s = execPrefetch c k s := rfl
@[simp] theorem exec_syncWait {c k} (s : State) : exec (.syncWait c k) s = execSyncWait c k s := rfl
@[simp] theorem exec_syncSignal {c k} (s : State) : exec (.syncSignal c k) s = execSyncSignal c k s := rfl
@[simp] theorem exec_barrier {c k} (s : State) : exec (.barrier c k) s = execBarrier c k s := rfl
@[simp] theorem exec_coll {c k} (s : State) : exec (.coll c k) s = execColl c k s := rfl
@[simp] theorem exec_updLayer {c k} (s : State) : exec (.updLayer c k) s = execUpdLayer c k s := rfl
@[simp] theorem exec_rootRefresh {c k} (s : State) : exec (.rootRefresh c k) s = execRootRefresh c k s := rfl
@[simp] theorem exec_histMark {c k} (s : State) : exec (.histMark c k) s = execHistMark c k s := rfl
@[simp] theorem exec_endList {c k} (s : State) : exec (.endList c k) s = execEndList c k s := rfl
@[simp] theorem exec_descriptorRetire {c id st} (s : State) : exec (.descriptorRetire c id st) s = execDescriptorRetire c id st s := rfl
@[simp] theorem exec_remoteSignalAct {src dst obj} (s : State) : exec (.remoteSignalAct src dst obj) s = execRemoteSignalAct src dst obj s := rfl
@[simp] theorem exec_syncWaitTimeout {c k} (s : State) : exec (.syncWaitTimeout c k) s = execSyncWaitTimeout c k s := rfl
@[simp] theorem exec_coreBarrierRelease {c bar} (s : State) : exec (.coreBarrierRelease c bar) s = execCoreBarrierRelease c bar s := rfl
@[simp] theorem exec_barrierTimeout {c id} (s : State) : exec (.barrierTimeout c id) s = execBarrierTimeout c id s := rfl
@[simp] theorem exec_arrLoadBegin {c a} (s : State) : exec (.arrLoadBegin c a) s = execArrLoadBegin c a s := rfl
@[simp] theorem exec_arrPassStage0 {c a} (s : State) : exec (.arrPassStage0 c a) s = execArrPassStage0 c a s := rfl
@[simp] theorem exec_residueMismatch {c a group phys} (s : State) : exec (.residueMismatch c a group phys) s = execResidueMismatch c a group phys s := rfl
@[simp] theorem exec_passReplay {c a} (s : State) : exec (.passReplay c a) s = execPassReplay c a s := rfl
@[simp] theorem exec_sumpEccError {c a row col corrected} (s : State) : exec (.sumpEccError c a row col corrected) s = execSumpEccError c a row col corrected s := rfl
@[simp] theorem exec_chuteParity {c a row slot} (s : State) : exec (.chuteParity c a row slot) s = execChuteParity c a row slot s := rfl
@[simp] theorem exec_xposeParity {c a stationary band id} (s : State) : exec (.xposeParity c a stationary band id) s = execXposeParity c a stationary band id s := rfl
@[simp] theorem exec_vecLaneParity {c st} (s : State) : exec (.vecLaneParity c st) s = execVecLaneParity c st s := rfl
@[simp] theorem exec_vecRecipeParity {c recipe job} (s : State) : exec (.vecRecipeParity c recipe job) s = execVecRecipeParity c recipe job s := rfl
@[simp] theorem exec_synParity {c obj} (s : State) : exec (.synParity c obj) s = execSynParity c obj s := rfl
@[simp] theorem exec_panEccError {c bank word corrected} (s : State) : exec (.panEccError c bank word corrected) s = execPanEccError c bank word corrected s := rfl
@[simp] theorem exec_updUnitFault {u} (s : State) : exec (.updUnitFault u) s = execUpdUnitFault u s := rfl
@[simp] theorem exec_updBufferEccError {u word corrected} (s : State) : exec (.updBufferEccError u word corrected) s = execUpdBufferEccError u word corrected s := rfl
@[simp] theorem exec_localisationTest {c a} (s : State) : exec (.localisationTest c a) s = execLocalisationTest c a s := rfl
@[simp] theorem exec_localisationTestDone {c a r} (s : State) : exec (.localisationTestDone c a r) s = execLocalisationTestDone c a r s := rfl
@[simp] theorem exec_stepEnd {job} (s : State) : exec (.stepEnd job) s = execStepEnd job s := rfl
@[simp] theorem exec_deferredCoreFence {c} (s : State) : exec (.deferredCoreFence c) s = execDeferredCoreFence c s := rfl
@[simp] theorem exec_deferredCoreUnfence {c failing} (s : State) : exec (.deferredCoreUnfence c failing) s = execDeferredCoreUnfence c failing s := rfl
@[simp] theorem exec_ckptCapture {job} (s : State) : exec (.ckptCapture job) s = execCkptCapture job s := rfl
@[simp] theorem exec_ckptDurable {job} (s : State) : exec (.ckptDurable job) s = execCkptDurable job s := rfl
@[simp] theorem exec_snapshotCapture {job} (s : State) : exec (.snapshotCapture job) s = execSnapshotCapture job s := rfl
@[simp] theorem exec_snapshotDone {job} (s : State) : exec (.snapshotDone job) s = execSnapshotDone job s := rfl
@[simp] theorem exec_moveCommit {obj tile} (s : State) : exec (.moveCommit obj tile) s = execMoveCommit obj tile s := rfl
@[simp] theorem exec_sourceFrameRelease {obj tile} (s : State) : exec (.sourceFrameRelease obj tile) s = execSourceFrameRelease obj tile s := rfl
@[simp] theorem exec_autoPolicyMove {obj tile dest} (s : State) : exec (.autoPolicyMove obj tile dest) s = execAutoPolicyMove obj tile dest s := rfl
@[simp] theorem exec_tileFaultTimeout {obj tile} (s : State) : exec (.tileFaultTimeout obj tile) s = execTileFaultTimeout obj tile s := rfl
@[simp] theorem exec_atticGarbageCollect {block} (s : State) : exec (.atticGarbageCollect block) s = execAtticGarbageCollect block s := rfl
@[simp] theorem exec_atcDisturb {ch block} (s : State) : exec (.atcDisturb ch block) s = execAtcDisturb ch block s := rfl
@[simp] theorem exec_atcWearMove {src dst} (s : State) : exec (.atcWearMove src dst) s = execAtcWearMove src dst s := rfl
@[simp] theorem exec_atcPageUncorrectable {ch block page rebuilt obj tile} (s : State) : exec (.atcPageUncorrectable ch block page rebuilt obj tile) s = execAtcPageUncorrectable ch block page rebuilt obj tile s := rfl
@[simp] theorem exec_atcBlockRetired {ch block} (s : State) : exec (.atcBlockRetired ch block) s = execAtcBlockRetired ch block s := rfl
@[simp] theorem exec_journalFlush (s : State) : exec .journalFlush s = execJournalFlush s := rfl
@[simp] theorem exec_stackTempRead {st t} (s : State) : exec (.stackTempRead st t) s = execStackTempRead st t s := rfl
@[simp] theorem exec_scrub {st corrected bad} (s : State) : exec (.scrub st corrected bad) s = execScrub st corrected bad s := rfl
@[simp] theorem exec_cellarUncorrectable {st off} (s : State) : exec (.cellarUncorrectable st off) s = execCellarUncorrectable st off s := rfl
@[simp] theorem exec_rowRepaired {st pc row} (s : State) : exec (.rowRepaired st pc row) s = execRowRepaired st pc row s := rfl
@[simp] theorem exec_poisonConsumed {id sector obj tile} (s : State) : exec (.poisonConsumed id sector obj tile) s = execPoisonConsumed id sector obj tile s := rfl
@[simp] theorem exec_correctionWindowRoll (s : State) : exec .correctionWindowRoll s = execCorrectionWindowRoll s := rfl
@[simp] theorem exec_stackRehash {st} (s : State) : exec (.stackRehash st) s = execStackRehash st s := rfl
@[simp] theorem exec_rehashDone {st} (s : State) : exec (.rehashDone st) s = execRehashDone st s := rfl
@[simp] theorem exec_fenceEvacuationDone {c bad} (s : State) : exec (.fenceEvacuationDone c bad) s = execFenceEvacuationDone c bad s := rfl
@[simp] theorem exec_replayBegin {job} (s : State) : exec (.replayBegin job) s = execReplayBegin job s := rfl
@[simp] theorem exec_fabricReplayFailure {a b} (s : State) : exec (.fabricReplayFailure a b) s = execFabricReplayFailure a b s := rfl
@[simp] theorem exec_watchdogExpiry {d} (s : State) : exec (.watchdogExpiry d) s = execWatchdogExpiry d s := rfl
@[simp] theorem exec_cpMemoryUncorrectable {d} (s : State) : exec (.cpMemoryUncorrectable d) s = execCpMemoryUncorrectable d s := rfl
@[simp] theorem exec_laneFail {p lane} (s : State) : exec (.laneFail p lane) s = execLaneFail p lane s := rfl
@[simp] theorem exec_retrainDone {p ok} (s : State) : exec (.retrainDone p ok) s = execRetrainDone p ok s := rfl
@[simp] theorem exec_portDown {p cause} (s : State) : exec (.portDown p cause) s = execPortDown p cause s := rfl
@[simp] theorem exec_portTrainRetry {p} (s : State) : exec (.portTrainRetry p) s = execPortTrainRetry p s := rfl
@[simp] theorem exec_portUp {p peerLanes} (s : State) : exec (.portUp p peerLanes) s = execPortUp p peerLanes s := rfl
@[simp] theorem exec_dataFlitReceive {p f} (s : State) : exec (.dataFlitReceive p f) s = execDataFlitReceive p f s := rfl
@[simp] theorem exec_linkReplayTimeout {p} (s : State) : exec (.linkReplayTimeout p) s = execLinkReplayTimeout p s := rfl
@[simp] theorem exec_beaconSend {p} (s : State) : exec (.beaconSend p) s = execBeaconSend p s := rfl
@[simp] theorem exec_beaconReceive {p b} (s : State) : exec (.beaconReceive p b) s = execBeaconReceive p b s := rfl
@[simp] theorem exec_gmSeqAdvance (s : State) : exec .gmSeqAdvance s = execGmSeqAdvance s := rfl
@[simp] theorem exec_gmLivenessTimeout (s : State) : exec .gmLivenessTimeout s = execGmLivenessTimeout s := rfl
@[simp] theorem exec_helloSend {p} (s : State) : exec (.helloSend p) s = execHelloSend p s := rfl
@[simp] theorem exec_helloReceive {p b} (s : State) : exec (.helloReceive p b) s = execHelloReceive p b s := rfl
@[simp] theorem exec_helloTimeout (s : State) : exec .helloTimeout s = execHelloTimeout s := rfl
@[simp] theorem exec_creditInit {p f} (s : State) : exec (.creditInit p f) s = execCreditInit p f s := rfl
@[simp] theorem exec_laneHealth {p f} (s : State) : exec (.laneHealth p f) s = execLaneHealth p f s := rfl
@[simp] theorem exec_retrain {p f} (s : State) : exec (.retrain p f) s = execRetrain p f s := rfl
@[simp] theorem exec_controlRepeat {p} (s : State) : exec (.controlRepeat p) s = execControlRepeat p s := rfl
@[simp] theorem exec_creditInitTimeout {p} (s : State) : exec (.creditInitTimeout p) s = execCreditInitTimeout p s := rfl
@[simp] theorem exec_packetForward {p h body} (s : State) : exec (.packetForward p h body) s = execPacketForward p h body s := rfl
@[simp] theorem exec_exchange {p h body} (s : State) : exec (.exchange p h body) s = execExchange p h body s := rfl
@[simp] theorem exec_reduce {p h body dupOk} (s : State) : exec (.reduce p h body dupOk) s = execReduce p h body dupOk s := rfl
@[simp] theorem exec_barrierPacket {p h body} (s : State) : exec (.barrierPacket p h body) s = execBarrierPacket p h body s := rfl
@[simp] theorem exec_e2eAck {p h} (s : State) : exec (.e2eAck p h) s = execE2eAck p h s := rfl
@[simp] theorem exec_pace {p h body} (s : State) : exec (.pace p h body) s = execPace p h body s := rfl
@[simp] theorem exec_snapshot {p h body src} (s : State) : exec (.snapshot p h body src) s = execSnapshot p h body src s := rfl
@[simp] theorem exec_treePacketSend {k} (s : State) : exec (.treePacketSend k) s = execTreePacketSend k s := rfl
@[simp] theorem exec_e2eAckTimer {src job vc} (s : State) : exec (.e2eAckTimer src job vc) s = execE2eAckTimer src job vc s := rfl
@[simp] theorem exec_e2eRetx {dst job vc} (s : State) : exec (.e2eRetx dst job vc) s = execE2eRetx dst job vc s := rfl
@[simp] theorem exec_collTimeout {job collId} (s : State) : exec (.collTimeout job collId) s = execCollTimeout job collId s := rfl
@[simp] theorem exec_throttleInAssert {ns acts} (s : State) : exec (.throttleInAssert ns acts) s = execThrottleInAssert ns acts s := rfl
@[simp] theorem exec_throttleInRelease (s : State) : exec .throttleInRelease s = execThrottleInRelease s := rfl
@[simp] theorem exec_regAlert {kind d v} (s : State) : exec (.regAlert kind d v) s = execRegAlert kind d v s := rfl
@[simp] theorem exec_regAlertClear {kind} (s : State) : exec (.regAlertClear kind) s = execRegAlertClear kind s := rfl
@[simp] theorem exec_forcedHoldoffEnd (s : State) : exec .forcedHoldoffEnd s = execForcedHoldoffEnd s := rfl
@[simp] theorem exec_rampStep (s : State) : exec .rampStep s = execRampStep s := rfl
@[simp] theorem exec_droopSample {d mv} (s : State) : exec (.droopSample d mv) s = execDroopSample d mv s := rfl
@[simp] theorem exec_droopWarnTimeout {d} (s : State) : exec (.droopWarnTimeout d) s = execDroopWarnTimeout d s := rfl
@[simp] theorem exec_powerSample {watts vin} (s : State) : exec (.powerSample watts vin) s = execPowerSample watts vin s := rfl
@[simp] theorem exec_capDecision (s : State) : exec .capDecision s = execCapDecision s := rfl
@[simp] theorem exec_junctionSensorRead {d r} (s : State) : exec (.junctionSensorRead d r) s = execJunctionSensorRead d r s := rfl
@[simp] theorem exec_tripPerimeterOff (s : State) : exec .tripPerimeterOff s = execTripPerimeterOff s := rfl
@[simp] theorem exec_thermOpStep (s : State) : exec .thermOpStep s = execThermOpStep s := rfl
@[simp] theorem exec_rateMonitorSample {d count} (s : State) : exec (.rateMonitorSample d count) s = execRateMonitorSample d count s := rfl
@[simp] theorem exec_inputLoss (s : State) : exec .inputLoss s = execInputLoss s := rfl
@[simp] theorem exec_flushDone (s : State) : exec .flushDone s = execFlushDone s := rfl
@[simp] theorem exec_modPwrenRise (s : State) : exec .modPwrenRise s = execModPwrenRise s := rfl
@[simp] theorem exec_railsInRegulation (s : State) : exec .railsInRegulation s = execRailsInRegulation s := rfl
@[simp] theorem exec_modPwrenFall (s : State) : exec .modPwrenFall s = execModPwrenFall s := rfl
@[simp] theorem exec_railOutOfRegulation (s : State) : exec .railOutOfRegulation s = execRailOutOfRegulation s := rfl
@[simp] theorem exec_perstAssert (s : State) : exec .perstAssert s = execPerstAssert s := rfl
@[simp] theorem exec_perstDeassert (s : State) : exec .perstDeassert s = execPerstDeassert s := rfl
@[simp] theorem exec_bootComplete (s : State) : exec .bootComplete s = execBootComplete s := rfl
@[simp] theorem exec_memInitComplete {r} (s : State) : exec (.memInitComplete r) s = execMemInitComplete r s := rfl
@[simp] theorem exec_linkInitComplete (s : State) : exec .linkInitComplete s = execLinkInitComplete s := rfl
@[simp] theorem exec_startupFail (s : State) : exec .startupFail s = execStartupFail s := rfl
@[simp] theorem exec_firmwareImageTransfer {img a} (s : State) : exec (.firmwareImageTransfer img a) s = execFirmwareImageTransfer img a s := rfl
@[simp] theorem exec_activateFirmware (s : State) : exec .activateFirmware s = execActivateFirmware s := rfl
@[simp] theorem exec_debugRelockExpiry (s : State) : exec .debugRelockExpiry s = execDebugRelockExpiry s := rfl
@[simp] theorem exec_rateWindowClose (s : State) : exec .rateWindowClose s = execRateWindowClose s := rfl
@[simp] theorem exec_freezeExpired (s : State) : exec .freezeExpired s = execFreezeExpired s := rfl
@[simp] theorem exec_opsecPersist (s : State) : exec .opsecPersist s = execOpsecPersist s := rfl
@[simp] theorem exec_mailboxFrame {f crcOk} (s : State) : exec (.mailboxFrame f crcOk) s = execMailboxFrame f crcOk s := rfl
@[simp] theorem exec_mailboxTimeout (s : State) : exec .mailboxTimeout s = execMailboxTimeout s := rfl
@[simp] theorem exec_strongboxFrameSend {power} (s : State) : exec (.strongboxFrameSend power) s = execStrongboxFrameSend power s := rfl
@[simp] theorem exec_energyAccumulate {microJ power} (s : State) : exec (.energyAccumulate microJ power) s = execEnergyAccumulate microJ power s := rfl
@[simp] theorem exec_energyNvmWrite (s : State) : exec .energyNvmWrite s = execEnergyNvmWrite s := rfl
@[simp] theorem exec_busbarBelow40v {holdUpOk} (s : State) : exec (.busbarBelow40v holdUpOk) s = execBusbarBelow40v holdUpOk s := rfl
@[simp] theorem exec_metrologySignedTransfer {sigOk op} (s : State) : exec (.metrologySignedTransfer sigOk op) s = execMetrologySignedTransfer sigOk op s := rfl
@[simp] theorem exec_strongboxPrivateRead {off len} (s : State) : exec (.strongboxPrivateRead off len) s = execStrongboxPrivateRead off len s := rfl
@[simp] theorem exec_sealLoopOpen (s : State) : exec .sealLoopOpen s = execSealLoopOpen s := rfl
@[simp] theorem exec_setEndpointId {eid} (s : State) : exec (.setEndpointId eid) s = execSetEndpointId eid s := rfl
@[simp] theorem exec_getEndpointId (s : State) : exec .getEndpointId s = execGetEndpointId s := rfl
@[simp] theorem exec_mctpDiscovery {kind} (s : State) : exec (.mctpDiscovery kind) s = execMctpDiscovery kind s := rfl
@[simp] theorem exec_pldmDiscovery (s : State) : exec .pldmDiscovery s = execPldmDiscovery s := rfl
@[simp] theorem exec_pldmSensorRead {sensor} (s : State) : exec (.pldmSensorRead sensor) s = execPldmSensorRead sensor s := rfl
@[simp] theorem exec_getVersion {t} (s : State) : exec (.getVersion t) s = execGetVersion t s := rfl
@[simp] theorem exec_getCapabilities {t} (s : State) : exec (.getCapabilities t) s = execGetCapabilities t s := rfl
@[simp] theorem exec_negotiateAlgorithms {t} (s : State) : exec (.negotiateAlgorithms t) s = execNegotiateAlgorithms t s := rfl
@[simp] theorem exec_getDigests {t} (s : State) : exec (.getDigests t) s = execGetDigests t s := rfl
@[simp] theorem exec_getCertificate {t slot off len} (s : State) : exec (.getCertificate t slot off len) s = execGetCertificate t slot off len s := rfl
@[simp] theorem exec_challenge {t slot} (s : State) : exec (.challenge t slot) s = execChallenge t slot s := rfl
@[simp] theorem exec_getMeasurements {t index sign} (s : State) : exec (.getMeasurements t index sign) s = execGetMeasurements t index sign s := rfl
@[simp] theorem exec_chunkSend {t last} (s : State) : exec (.chunkSend t last) s = execChunkSend t last s := rfl
@[simp] theorem exec_chunkGet {t} (s : State) : exec (.chunkGet t) s = execChunkGet t s := rfl
@[simp] theorem exec_keyExchange {t} (s : State) : exec (.keyExchange t) s = execKeyExchange t s := rfl
@[simp] theorem exec_finish {t} (s : State) : exec (.finish t) s = execFinish t s := rfl
@[simp] theorem exec_keyUpdate {t} (s : State) : exec (.keyUpdate t) s = execKeyUpdate t s := rfl
@[simp] theorem exec_endSession {t} (s : State) : exec (.endSession t) s = execEndSession t s := rfl
@[simp] theorem exec_ideKm {t go} (s : State) : exec (.ideKm t go) s = execIdeKm t go s := rfl
@[simp] theorem exec_idcode (s : State) : exec .idcode s = execIdcode s := rfl
@[simp] theorem exec_bypass {code} (s : State) : exec (.bypass code) s = execBypass code s := rfl
@[simp] theorem exec_timeJoinTimeout {q} (s : State) : exec (.timeJoinTimeout q) s = execTimeJoinTimeout q s := rfl
@[simp] theorem exec_inputApplied {mv} (s : State) : exec (.inputApplied mv) s = execInputApplied mv s := rfl
@[simp] theorem exec_idleFlitReceive {p f} (s : State) : exec (.idleFlitReceive p f) s = execIdleFlitReceive p f s := rfl
@[simp] theorem exec_trstAssert (s : State) : exec .trstAssert s = execTrstAssert s := rfl
@[simp] theorem exec_dynamicAddressAssignment (s : State) : exec .dynamicAddressAssignment s = execDynamicAddressAssignment s := rfl

/-! The rows that change the module alone: each ends in one commit, whatever its operands and the state. -/

theorem exec_devQuery_commits {q p} (s : State) : ∃ m, exec (.devQuery q p) s = .next (s.commit m) := ⟨_, rfl⟩
theorem exec_devConfig_commits {q p} (s : State) : ∃ m, exec (.devConfig q p) s = .next (s.commit m) := ⟨_, rfl⟩
theorem exec_jobOpen_commits {q p} (s : State) : ∃ m, exec (.jobOpen q p) s = .next (s.commit m) := ⟨_, rfl⟩
theorem exec_jobClose_commits {q p} (s : State) : ∃ m, exec (.jobClose q p) s = .next (s.commit m) := ⟨_, rfl⟩
theorem exec_objCreate_commits {q p} (s : State) : ∃ m, exec (.objCreate q p) s = .next (s.commit m) := ⟨_, rfl⟩
theorem exec_objFree_commits {q p} (s : State) : ∃ m, exec (.objFree q p) s = .next (s.commit m) := ⟨_, rfl⟩
theorem exec_objHint_commits {q p} (s : State) : ∃ m, exec (.objHint q p) s = .next (s.commit m) := ⟨_, rfl⟩
theorem exec_objWrite_commits {q p} (s : State) : ∃ m, exec (.objWrite q p) s = .next (s.commit m) := ⟨_, rfl⟩
theorem exec_objRead_commits {q p} (s : State) : ∃ m, exec (.objRead q p) s = .next (s.commit m) := ⟨_, rfl⟩
theorem exec_taskLoad_commits {q p} (s : State) : ∃ m, exec (.taskLoad q p) s = .next (s.commit m) := ⟨_, rfl⟩
theorem exec_stepRun_commits {q p} (s : State) : ∃ m, exec (.stepRun q p) s = .next (s.commit m) := ⟨_, rfl⟩
theorem exec_stepAbort_commits {q p} (s : State) : ∃ m, exec (.stepAbort q p) s = .next (s.commit m) := ⟨_, rfl⟩
theorem exec_layerSet_commits {q p} (s : State) : ∃ m, exec (.layerSet q p) s = .next (s.commit m) := ⟨_, rfl⟩
theorem exec_schedSet_commits {q p} (s : State) : ∃ m, exec (.schedSet q p) s = .next (s.commit m) := ⟨_, rfl⟩
theorem exec_ckptWrite_commits {q p} (s : State) : ∃ m, exec (.ckptWrite q p) s = .next (s.commit m) := ⟨_, rfl⟩
theorem exec_ckptRestore_commits {q p} (s : State) : ∃ m, exec (.ckptRestore q p) s = .next (s.commit m) := ⟨_, rfl⟩
theorem exec_snapshotExport_commits {q p} (s : State) : ∃ m, exec (.snapshotExport q p) s = .next (s.commit m) := ⟨_, rfl⟩
theorem exec_topoSet_commits {q p} (s : State) : ∃ m, exec (.topoSet q p) s = .next (s.commit m) := ⟨_, rfl⟩
theorem exec_timeJoin_commits {q p} (s : State) : ∃ m, exec (.timeJoin q p) s = .next (s.commit m) := ⟨_, rfl⟩
theorem exec_opSet_commits {q p} (s : State) : ∃ m, exec (.opSet q p) s = .next (s.commit m) := ⟨_, rfl⟩
theorem exec_powerCap_commits {q p} (s : State) : ∃ m, exec (.powerCap q p) s = .next (s.commit m) := ⟨_, rfl⟩
theorem exec_coreFence_commits {q p} (s : State) : ∃ m, exec (.coreFence q p) s = .next (s.commit m) := ⟨_, rfl⟩
theorem exec_coreUnfence_commits {q p} (s : State) : ∃ m, exec (.coreUnfence q p) s = .next (s.commit m) := ⟨_, rfl⟩
theorem exec_evrRead_commits {q p} (s : State) : ∃ m, exec (.evrRead q p) s = .next (s.commit m) := ⟨_, rfl⟩
theorem exec_fwStage_commits {q p} (s : State) : ∃ m, exec (.fwStage q p) s = .next (s.commit m) := ⟨_, rfl⟩
theorem exec_fwActivate_commits {q p g a} (s : State) : ∃ m, exec (.fwActivate q p g a) s = .next (s.commit m) := ⟨_, rfl⟩
theorem exec_attest_commits {q p} (s : State) : ∃ m, exec (.attest q p) s = .next (s.commit m) := ⟨_, rfl⟩
theorem exec_debugUnlock_commits {q p g} (s : State) : ∃ m, exec (.debugUnlock q p g) s = .next (s.commit m) := ⟨_, rfl⟩
theorem exec_syncForce_commits {q p} (s : State) : ∃ m, exec (.syncForce q p) s = .next (s.commit m) := ⟨_, rfl⟩
theorem exec_metRead_commits {q p} (s : State) : ∃ m, exec (.metRead q p) s = .next (s.commit m) := ⟨_, rfl⟩
theorem exec_sqTailDoorbell_commits {q v} (s : State) : ∃ m, exec (.sqTailDoorbell q v) s = .next (s.commit m) := ⟨_, rfl⟩
theorem exec_cqHeadDoorbell_commits {q v} (s : State) : ∃ m, exec (.cqHeadDoorbell q v) s = .next (s.commit m) := ⟨_, rfl⟩
theorem exec_queueEnable_commits {v} (s : State) : ∃ m, exec (.queueEnable v) s = .next (s.commit m) := ⟨_, rfl⟩
theorem exec_queueDisable_commits {v} (s : State) : ∃ m, exec (.queueDisable v) s = .next (s.commit m) := ⟨_, rfl⟩
theorem exec_commandStart_commits (s : State) : ∃ m, exec .commandStart s = .next (s.commit m) := ⟨_, rfl⟩
theorem exec_hostDmaError_commits {q fetch addr kind} (s : State) : ∃ m, exec (.hostDmaError q fetch addr kind) s = .next (s.commit m) := ⟨_, rfl⟩
theorem exec_interruptCoalesceTimeout_commits {q} (s : State) : ∃ m, exec (.interruptCoalesceTimeout q) s = .next (s.commit m) := ⟨_, rfl⟩
theorem exec_debugApertureAccess_commits {off size w} (s : State) : ∃ m, exec (.debugApertureAccess off size w) s = .next (s.commit m) := ⟨_, rfl⟩
theorem exec_flr_commits (s : State) : ∃ m, exec .flr s = .next (s.commit m) := ⟨_, rfl⟩
theorem exec_pcieAerError_commits {correctable status} (s : State) : ∃ m, exec (.pcieAerError correctable status) s = .next (s.commit m) := ⟨_, rfl⟩
theorem exec_pcieDegraded_commits {width rate} (s : State) : ∃ m, exec (.pcieDegraded width rate) s = .next (s.commit m) := ⟨_, rfl⟩
theorem exec_ideError_commits {status} (s : State) : ∃ m, exec (.ideError status) s = .next (s.commit m) := ⟨_, rfl⟩
theorem exec_cntClear_commits {b freeze} (s : State) : ∃ m, exec (.cntClear b freeze) s = .next (s.commit m) := ⟨_, rfl⟩
theorem exec_cntFreeze_commits {b freeze} (s : State) : ∃ m, exec (.cntFreeze b freeze) s = .next (s.commit m) := ⟨_, rfl⟩
theorem exec_histogramSnapshotSelect_commits {v} (s : State) : ∃ m, exec (.histogramSnapshotSelect v) s = .next (s.commit m) := ⟨_, rfl⟩
theorem exec_histogramSnapshotDone_commits (s : State) : ∃ m, exec .histogramSnapshotDone s = .next (s.commit m) := ⟨_, rfl⟩
theorem exec_celGangWrite_commits {v} (s : State) : ∃ m, exec (.celGangWrite v) s = .next (s.commit m) := ⟨_, rfl⟩
theorem exec_celRegWrite_commits {c v} (s : State) : ∃ m, exec (.celRegWrite c v) s = .next (s.commit m) := ⟨_, rfl⟩
theorem exec_regulatorChangeEffect_commits {st c} (s : State) : ∃ m, exec (.regulatorChangeEffect st c) s = .next (s.commit m) := ⟨_, rfl⟩
theorem exec_panFloorWrite_commits {c v} (s : State) : ∃ m, exec (.panFloorWrite c v) s = .next (s.commit m) := ⟨_, rfl⟩
theorem exec_debugLockWrite_commits {v} (s : State) : ∃ m, exec (.debugLockWrite v) s = .next (s.commit m) := ⟨_, rfl⟩
theorem exec_metEnergyRead_commits (s : State) : ∃ m, exec .metEnergyRead s = .next (s.commit m) := ⟨_, rfl⟩
theorem exec_phaseDispatch_commits {job} (s : State) : ∃ m, exec (.phaseDispatch job) s = .next (s.commit m) := ⟨_, rfl⟩
theorem exec_lookahead_commits {c k} (s : State) : ∃ m, exec (.lookahead c k) s = .next (s.commit m) := ⟨_, rfl⟩
theorem exec_arrPass_commits {c k} (s : State) : ∃ m, exec (.arrPass c k) s = .next (s.commit m) := ⟨_, rfl⟩
theorem exec_arrLoad_commits {c k} (s : State) : ∃ m, exec (.arrLoad c k) s = .next (s.commit m) := ⟨_, rfl⟩
theorem exec_vecStream_commits {c k} (s : State) : ∃ m, exec (.vecStream c k) s = .next (s.commit m) := ⟨_, rfl⟩
theorem exec_vecReduce_commits {c k} (s : State) : ∃ m, exec (.vecReduce c k) s = .next (s.commit m) := ⟨_, rfl⟩
theorem exec_move_commits {c k} (s : State) : ∃ m, exec (.move c k) s = .next (s.commit m) := ⟨_, rfl⟩
theorem exec_prefetch_commits {c k} (s : State) : ∃ m, exec (.prefetch c k) s = .next (s.commit m) := ⟨_, rfl⟩
theorem exec_syncWait_commits {c k} (s : State) : ∃ m, exec (.syncWait c k) s = .next (s.commit m) := ⟨_, rfl⟩
theorem exec_syncSignal_commits {c k} (s : State) : ∃ m, exec (.syncSignal c k) s = .next (s.commit m) := ⟨_, rfl⟩
theorem exec_barrier_commits {c k} (s : State) : ∃ m, exec (.barrier c k) s = .next (s.commit m) := ⟨_, rfl⟩
theorem exec_coll_commits {c k} (s : State) : ∃ m, exec (.coll c k) s = .next (s.commit m) := ⟨_, rfl⟩
theorem exec_updLayer_commits {c k} (s : State) : ∃ m, exec (.updLayer c k) s = .next (s.commit m) := ⟨_, rfl⟩
theorem exec_rootRefresh_commits {c k} (s : State) : ∃ m, exec (.rootRefresh c k) s = .next (s.commit m) := ⟨_, rfl⟩
theorem exec_histMark_commits {c k} (s : State) : ∃ m, exec (.histMark c k) s = .next (s.commit m) := ⟨_, rfl⟩
theorem exec_endList_commits {c k} (s : State) : ∃ m, exec (.endList c k) s = .next (s.commit m) := ⟨_, rfl⟩
theorem exec_descriptorRetire_commits {c id st} (s : State) : ∃ m, exec (.descriptorRetire c id st) s = .next (s.commit m) := ⟨_, rfl⟩
theorem exec_remoteSignalAct_commits {src dst obj} (s : State) : ∃ m, exec (.remoteSignalAct src dst obj) s = .next (s.commit m) := ⟨_, rfl⟩
theorem exec_syncWaitTimeout_commits {c k} (s : State) : ∃ m, exec (.syncWaitTimeout c k) s = .next (s.commit m) := ⟨_, rfl⟩
theorem exec_coreBarrierRelease_commits {c bar} (s : State) : ∃ m, exec (.coreBarrierRelease c bar) s = .next (s.commit m) := ⟨_, rfl⟩
theorem exec_barrierTimeout_commits {c id} (s : State) : ∃ m, exec (.barrierTimeout c id) s = .next (s.commit m) := ⟨_, rfl⟩
theorem exec_arrLoadBegin_commits {c a} (s : State) : ∃ m, exec (.arrLoadBegin c a) s = .next (s.commit m) := ⟨_, rfl⟩
theorem exec_arrPassStage0_commits {c a} (s : State) : ∃ m, exec (.arrPassStage0 c a) s = .next (s.commit m) := ⟨_, rfl⟩
theorem exec_residueMismatch_commits {c a group phys} (s : State) : ∃ m, exec (.residueMismatch c a group phys) s = .next (s.commit m) := ⟨_, rfl⟩
theorem exec_passReplay_commits {c a} (s : State) : ∃ m, exec (.passReplay c a) s = .next (s.commit m) := ⟨_, rfl⟩
theorem exec_sumpEccError_commits {c a row col corrected} (s : State) : ∃ m, exec (.sumpEccError c a row col corrected) s = .next (s.commit m) := ⟨_, rfl⟩
theorem exec_chuteParity_commits {c a row slot} (s : State) : ∃ m, exec (.chuteParity c a row slot) s = .next (s.commit m) := ⟨_, rfl⟩
theorem exec_xposeParity_commits {c a stationary band id} (s : State) : ∃ m, exec (.xposeParity c a stationary band id) s = .next (s.commit m) := ⟨_, rfl⟩
theorem exec_vecLaneParity_commits {c st} (s : State) : ∃ m, exec (.vecLaneParity c st) s = .next (s.commit m) := ⟨_, rfl⟩
theorem exec_vecRecipeParity_commits {c recipe job} (s : State) : ∃ m, exec (.vecRecipeParity c recipe job) s = .next (s.commit m) := ⟨_, rfl⟩
theorem exec_synParity_commits {c obj} (s : State) : ∃ m, exec (.synParity c obj) s = .next (s.commit m) := ⟨_, rfl⟩
theorem exec_panEccError_commits {c bank word corrected} (s : State) : ∃ m, exec (.panEccError c bank word corrected) s = .next (s.commit m) := ⟨_, rfl⟩
theorem exec_updUnitFault_commits {u} (s : State) : ∃ m, exec (.updUnitFault u) s = .next (s.commit m) := ⟨_, rfl⟩
theorem exec_updBufferEccError_commits {u word corrected} (s : State) : ∃ m, exec (.updBufferEccError u word corrected) s = .next (s.commit m) := ⟨_, rfl⟩
theorem exec_localisationTest_commits {c a} (s : State) : ∃ m, exec (.localisationTest c a) s = .next (s.commit m) := ⟨_, rfl⟩
theorem exec_localisationTestDone_commits {c a r} (s : State) : ∃ m, exec (.localisationTestDone c a r) s = .next (s.commit m) := ⟨_, rfl⟩
theorem exec_stepEnd_commits {job} (s : State) : ∃ m, exec (.stepEnd job) s = .next (s.commit m) := ⟨_, rfl⟩
theorem exec_deferredCoreFence_commits {c} (s : State) : ∃ m, exec (.deferredCoreFence c) s = .next (s.commit m) := ⟨_, rfl⟩
theorem exec_deferredCoreUnfence_commits {c failing} (s : State) : ∃ m, exec (.deferredCoreUnfence c failing) s = .next (s.commit m) := ⟨_, rfl⟩
theorem exec_ckptCapture_commits {job} (s : State) : ∃ m, exec (.ckptCapture job) s = .next (s.commit m) := ⟨_, rfl⟩
theorem exec_ckptDurable_commits {job} (s : State) : ∃ m, exec (.ckptDurable job) s = .next (s.commit m) := ⟨_, rfl⟩
theorem exec_snapshotCapture_commits {job} (s : State) : ∃ m, exec (.snapshotCapture job) s = .next (s.commit m) := ⟨_, rfl⟩
theorem exec_snapshotDone_commits {job} (s : State) : ∃ m, exec (.snapshotDone job) s = .next (s.commit m) := ⟨_, rfl⟩
theorem exec_moveCommit_commits {obj tile} (s : State) : ∃ m, exec (.moveCommit obj tile) s = .next (s.commit m) := ⟨_, rfl⟩
theorem exec_sourceFrameRelease_commits {obj tile} (s : State) : ∃ m, exec (.sourceFrameRelease obj tile) s = .next (s.commit m) := ⟨_, rfl⟩
theorem exec_autoPolicyMove_commits {obj tile dest} (s : State) : ∃ m, exec (.autoPolicyMove obj tile dest) s = .next (s.commit m) := ⟨_, rfl⟩
theorem exec_tileFaultTimeout_commits {obj tile} (s : State) : ∃ m, exec (.tileFaultTimeout obj tile) s = .next (s.commit m) := ⟨_, rfl⟩
theorem exec_atticGarbageCollect_commits {block} (s : State) : ∃ m, exec (.atticGarbageCollect block) s = .next (s.commit m) := ⟨_, rfl⟩
theorem exec_atcDisturb_commits {ch block} (s : State) : ∃ m, exec (.atcDisturb ch block) s = .next (s.commit m) := ⟨_, rfl⟩
theorem exec_atcWearMove_commits {src dst} (s : State) : ∃ m, exec (.atcWearMove src dst) s = .next (s.commit m) := ⟨_, rfl⟩
theorem exec_atcPageUncorrectable_commits {ch block page rebuilt obj tile} (s : State) : ∃ m, exec (.atcPageUncorrectable ch block page rebuilt obj tile) s = .next (s.commit m) := ⟨_, rfl⟩
theorem exec_atcBlockRetired_commits {ch block} (s : State) : ∃ m, exec (.atcBlockRetired ch block) s = .next (s.commit m) := ⟨_, rfl⟩
theorem exec_journalFlush_commits (s : State) : ∃ m, exec .journalFlush s = .next (s.commit m) := ⟨_, rfl⟩
theorem exec_stackTempRead_commits {st t} (s : State) : ∃ m, exec (.stackTempRead st t) s = .next (s.commit m) := ⟨_, rfl⟩
theorem exec_scrub_commits {st corrected bad} (s : State) : ∃ m, exec (.scrub st corrected bad) s = .next (s.commit m) := ⟨_, rfl⟩
theorem exec_cellarUncorrectable_commits {st off} (s : State) : ∃ m, exec (.cellarUncorrectable st off) s = .next (s.commit m) := ⟨_, rfl⟩
theorem exec_rowRepaired_commits {st pc row} (s : State) : ∃ m, exec (.rowRepaired st pc row) s = .next (s.commit m) := ⟨_, rfl⟩
theorem exec_poisonConsumed_commits {id sector obj tile} (s : State) : ∃ m, exec (.poisonConsumed id sector obj tile) s = .next (s.commit m) := ⟨_, rfl⟩
theorem exec_correctionWindowRoll_commits (s : State) : ∃ m, exec .correctionWindowRoll s = .next (s.commit m) := ⟨_, rfl⟩
theorem exec_stackRehash_commits {st} (s : State) : ∃ m, exec (.stackRehash st) s = .next (s.commit m) := ⟨_, rfl⟩
theorem exec_rehashDone_commits {st} (s : State) : ∃ m, exec (.rehashDone st) s = .next (s.commit m) := ⟨_, rfl⟩
theorem exec_fenceEvacuationDone_commits {c bad} (s : State) : ∃ m, exec (.fenceEvacuationDone c bad) s = .next (s.commit m) := ⟨_, rfl⟩
theorem exec_replayBegin_commits {job} (s : State) : ∃ m, exec (.replayBegin job) s = .next (s.commit m) := ⟨_, rfl⟩
theorem exec_fabricReplayFailure_commits {a b} (s : State) : ∃ m, exec (.fabricReplayFailure a b) s = .next (s.commit m) := ⟨_, rfl⟩
theorem exec_watchdogExpiry_commits {d} (s : State) : ∃ m, exec (.watchdogExpiry d) s = .next (s.commit m) := ⟨_, rfl⟩
theorem exec_cpMemoryUncorrectable_commits {d} (s : State) : ∃ m, exec (.cpMemoryUncorrectable d) s = .next (s.commit m) := ⟨_, rfl⟩
theorem exec_laneFail_commits {p lane} (s : State) : ∃ m, exec (.laneFail p lane) s = .next (s.commit m) := ⟨_, rfl⟩
theorem exec_retrainDone_commits {p ok} (s : State) : ∃ m, exec (.retrainDone p ok) s = .next (s.commit m) := ⟨_, rfl⟩
theorem exec_portDown_commits {p cause} (s : State) : ∃ m, exec (.portDown p cause) s = .next (s.commit m) := ⟨_, rfl⟩
theorem exec_portTrainRetry_commits {p} (s : State) : ∃ m, exec (.portTrainRetry p) s = .next (s.commit m) := ⟨_, rfl⟩
theorem exec_portUp_commits {p peerLanes} (s : State) : ∃ m, exec (.portUp p peerLanes) s = .next (s.commit m) := ⟨_, rfl⟩
theorem exec_dataFlitReceive_commits {p f} (s : State) : ∃ m, exec (.dataFlitReceive p f) s = .next (s.commit m) := ⟨_, rfl⟩
theorem exec_linkReplayTimeout_commits {p} (s : State) : ∃ m, exec (.linkReplayTimeout p) s = .next (s.commit m) := ⟨_, rfl⟩
theorem exec_beaconSend_commits {p} (s : State) : ∃ m, exec (.beaconSend p) s = .next (s.commit m) := ⟨_, rfl⟩
theorem exec_beaconReceive_commits {p b} (s : State) : ∃ m, exec (.beaconReceive p b) s = .next (s.commit m) := ⟨_, rfl⟩
theorem exec_gmSeqAdvance_commits (s : State) : ∃ m, exec .gmSeqAdvance s = .next (s.commit m) := ⟨_, rfl⟩
theorem exec_gmLivenessTimeout_commits (s : State) : ∃ m, exec .gmLivenessTimeout s = .next (s.commit m) := ⟨_, rfl⟩
theorem exec_helloSend_commits {p} (s : State) : ∃ m, exec (.helloSend p) s = .next (s.commit m) := ⟨_, rfl⟩
theorem exec_helloReceive_commits {p b} (s : State) : ∃ m, exec (.helloReceive p b) s = .next (s.commit m) := ⟨_, rfl⟩
theorem exec_helloTimeout_commits (s : State) : ∃ m, exec .helloTimeout s = .next (s.commit m) := ⟨_, rfl⟩
theorem exec_creditInit_commits {p f} (s : State) : ∃ m, exec (.creditInit p f) s = .next (s.commit m) := ⟨_, rfl⟩
theorem exec_laneHealth_commits {p f} (s : State) : ∃ m, exec (.laneHealth p f) s = .next (s.commit m) := ⟨_, rfl⟩
theorem exec_retrain_commits {p f} (s : State) : ∃ m, exec (.retrain p f) s = .next (s.commit m) := ⟨_, rfl⟩
theorem exec_controlRepeat_commits {p} (s : State) : ∃ m, exec (.controlRepeat p) s = .next (s.commit m) := ⟨_, rfl⟩
theorem exec_creditInitTimeout_commits {p} (s : State) : ∃ m, exec (.creditInitTimeout p) s = .next (s.commit m) := ⟨_, rfl⟩
theorem exec_packetForward_commits {p h body} (s : State) : ∃ m, exec (.packetForward p h body) s = .next (s.commit m) := ⟨_, rfl⟩
theorem exec_exchange_commits {p h body} (s : State) : ∃ m, exec (.exchange p h body) s = .next (s.commit m) := ⟨_, rfl⟩
theorem exec_reduce_commits {p h body dupOk} (s : State) : ∃ m, exec (.reduce p h body dupOk) s = .next (s.commit m) := ⟨_, rfl⟩
theorem exec_barrierPacket_commits {p h body} (s : State) : ∃ m, exec (.barrierPacket p h body) s = .next (s.commit m) := ⟨_, rfl⟩
theorem exec_e2eAck_commits {p h} (s : State) : ∃ m, exec (.e2eAck p h) s = .next (s.commit m) := ⟨_, rfl⟩
theorem exec_pace_commits {p h body} (s : State) : ∃ m, exec (.pace p h body) s = .next (s.commit m) := ⟨_, rfl⟩
theorem exec_snapshot_commits {p h body src} (s : State) : ∃ m, exec (.snapshot p h body src) s = .next (s.commit m) := ⟨_, rfl⟩
theorem exec_treePacketSend_commits {k} (s : State) : ∃ m, exec (.treePacketSend k) s = .next (s.commit m) := ⟨_, rfl⟩
theorem exec_e2eAckTimer_commits {src job vc} (s : State) : ∃ m, exec (.e2eAckTimer src job vc) s = .next (s.commit m) := ⟨_, rfl⟩
theorem exec_e2eRetx_commits {dst job vc} (s : State) : ∃ m, exec (.e2eRetx dst job vc) s = .next (s.commit m) := ⟨_, rfl⟩
theorem exec_collTimeout_commits {job collId} (s : State) : ∃ m, exec (.collTimeout job collId) s = .next (s.commit m) := ⟨_, rfl⟩
theorem exec_throttleInAssert_commits {ns acts} (s : State) : ∃ m, exec (.throttleInAssert ns acts) s = .next (s.commit m) := ⟨_, rfl⟩
theorem exec_throttleInRelease_commits (s : State) : ∃ m, exec .throttleInRelease s = .next (s.commit m) := ⟨_, rfl⟩
theorem exec_regAlert_commits {kind d v} (s : State) : ∃ m, exec (.regAlert kind d v) s = .next (s.commit m) := ⟨_, rfl⟩
theorem exec_regAlertClear_commits {kind} (s : State) : ∃ m, exec (.regAlertClear kind) s = .next (s.commit m) := ⟨_, rfl⟩
theorem exec_forcedHoldoffEnd_commits (s : State) : ∃ m, exec .forcedHoldoffEnd s = .next (s.commit m) := ⟨_, rfl⟩
theorem exec_rampStep_commits (s : State) : ∃ m, exec .rampStep s = .next (s.commit m) := ⟨_, rfl⟩
theorem exec_droopSample_commits {d mv} (s : State) : ∃ m, exec (.droopSample d mv) s = .next (s.commit m) := ⟨_, rfl⟩
theorem exec_droopWarnTimeout_commits {d} (s : State) : ∃ m, exec (.droopWarnTimeout d) s = .next (s.commit m) := ⟨_, rfl⟩
theorem exec_powerSample_commits {watts vin} (s : State) : ∃ m, exec (.powerSample watts vin) s = .next (s.commit m) := ⟨_, rfl⟩
theorem exec_capDecision_commits (s : State) : ∃ m, exec .capDecision s = .next (s.commit m) := ⟨_, rfl⟩
theorem exec_junctionSensorRead_commits {d r} (s : State) : ∃ m, exec (.junctionSensorRead d r) s = .next (s.commit m) := ⟨_, rfl⟩
theorem exec_tripPerimeterOff_commits (s : State) : ∃ m, exec .tripPerimeterOff s = .next (s.commit m) := ⟨_, rfl⟩
theorem exec_thermOpStep_commits (s : State) : ∃ m, exec .thermOpStep s = .next (s.commit m) := ⟨_, rfl⟩
theorem exec_rateMonitorSample_commits {d count} (s : State) : ∃ m, exec (.rateMonitorSample d count) s = .next (s.commit m) := ⟨_, rfl⟩
theorem exec_inputLoss_commits (s : State) : ∃ m, exec .inputLoss s = .next (s.commit m) := ⟨_, rfl⟩
theorem exec_modPwrenRise_commits (s : State) : ∃ m, exec .modPwrenRise s = .next (s.commit m) := ⟨_, rfl⟩
theorem exec_modPwrenFall_commits (s : State) : ∃ m, exec .modPwrenFall s = .next (s.commit m) := ⟨_, rfl⟩
theorem exec_railOutOfRegulation_commits (s : State) : ∃ m, exec .railOutOfRegulation s = .next (s.commit m) := ⟨_, rfl⟩
theorem exec_perstAssert_commits (s : State) : ∃ m, exec .perstAssert s = .next (s.commit m) := ⟨_, rfl⟩
theorem exec_memInitComplete_commits {r} (s : State) : ∃ m, exec (.memInitComplete r) s = .next (s.commit m) := ⟨_, rfl⟩
theorem exec_linkInitComplete_commits (s : State) : ∃ m, exec .linkInitComplete s = .next (s.commit m) := ⟨_, rfl⟩
theorem exec_firmwareImageTransfer_commits {img a} (s : State) : ∃ m, exec (.firmwareImageTransfer img a) s = .next (s.commit m) := ⟨_, rfl⟩
theorem exec_debugRelockExpiry_commits (s : State) : ∃ m, exec .debugRelockExpiry s = .next (s.commit m) := ⟨_, rfl⟩
theorem exec_mailboxFrame_commits {f crcOk} (s : State) : ∃ m, exec (.mailboxFrame f crcOk) s = .next (s.commit m) := ⟨_, rfl⟩
theorem exec_mailboxTimeout_commits (s : State) : ∃ m, exec .mailboxTimeout s = .next (s.commit m) := ⟨_, rfl⟩
theorem exec_setEndpointId_commits {eid} (s : State) : ∃ m, exec (.setEndpointId eid) s = .next (s.commit m) := ⟨_, rfl⟩
theorem exec_getEndpointId_commits (s : State) : ∃ m, exec .getEndpointId s = .next (s.commit m) := ⟨_, rfl⟩
theorem exec_mctpDiscovery_commits {kind} (s : State) : ∃ m, exec (.mctpDiscovery kind) s = .next (s.commit m) := ⟨_, rfl⟩
theorem exec_pldmDiscovery_commits (s : State) : ∃ m, exec .pldmDiscovery s = .next (s.commit m) := ⟨_, rfl⟩
theorem exec_pldmSensorRead_commits {sensor} (s : State) : ∃ m, exec (.pldmSensorRead sensor) s = .next (s.commit m) := ⟨_, rfl⟩
theorem exec_getVersion_commits {t} (s : State) : ∃ m, exec (.getVersion t) s = .next (s.commit m) := ⟨_, rfl⟩
theorem exec_getCapabilities_commits {t} (s : State) : ∃ m, exec (.getCapabilities t) s = .next (s.commit m) := ⟨_, rfl⟩
theorem exec_negotiateAlgorithms_commits {t} (s : State) : ∃ m, exec (.negotiateAlgorithms t) s = .next (s.commit m) := ⟨_, rfl⟩
theorem exec_getDigests_commits {t} (s : State) : ∃ m, exec (.getDigests t) s = .next (s.commit m) := ⟨_, rfl⟩
theorem exec_getCertificate_commits {t slot off len} (s : State) : ∃ m, exec (.getCertificate t slot off len) s = .next (s.commit m) := ⟨_, rfl⟩
theorem exec_challenge_commits {t slot} (s : State) : ∃ m, exec (.challenge t slot) s = .next (s.commit m) := ⟨_, rfl⟩
theorem exec_getMeasurements_commits {t index sign} (s : State) : ∃ m, exec (.getMeasurements t index sign) s = .next (s.commit m) := ⟨_, rfl⟩
theorem exec_chunkSend_commits {t last} (s : State) : ∃ m, exec (.chunkSend t last) s = .next (s.commit m) := ⟨_, rfl⟩
theorem exec_chunkGet_commits {t} (s : State) : ∃ m, exec (.chunkGet t) s = .next (s.commit m) := ⟨_, rfl⟩
theorem exec_keyExchange_commits {t} (s : State) : ∃ m, exec (.keyExchange t) s = .next (s.commit m) := ⟨_, rfl⟩
theorem exec_finish_commits {t} (s : State) : ∃ m, exec (.finish t) s = .next (s.commit m) := ⟨_, rfl⟩
theorem exec_keyUpdate_commits {t} (s : State) : ∃ m, exec (.keyUpdate t) s = .next (s.commit m) := ⟨_, rfl⟩
theorem exec_endSession_commits {t} (s : State) : ∃ m, exec (.endSession t) s = .next (s.commit m) := ⟨_, rfl⟩
theorem exec_ideKm_commits {t go} (s : State) : ∃ m, exec (.ideKm t go) s = .next (s.commit m) := ⟨_, rfl⟩
theorem exec_idcode_commits (s : State) : ∃ m, exec .idcode s = .next (s.commit m) := ⟨_, rfl⟩
theorem exec_bypass_commits {code} (s : State) : ∃ m, exec (.bypass code) s = .next (s.commit m) := ⟨_, rfl⟩
theorem exec_timeJoinTimeout_commits {q} (s : State) : ∃ m, exec (.timeJoinTimeout q) s = .next (s.commit m) := ⟨_, rfl⟩
theorem exec_idleFlitReceive_commits {p f} (s : State) : ∃ m, exec (.idleFlitReceive p f) s = .next (s.commit m) := ⟨_, rfl⟩
theorem exec_trstAssert_commits (s : State) : ∃ m, exec .trstAssert s = .next (s.commit m) := ⟨_, rfl⟩
theorem exec_dynamicAddressAssignment_commits (s : State) : ∃ m, exec .dynamicAddressAssignment s = .next (s.commit m) := ⟨_, rfl⟩

end Sys2Proof.Machine
end

