-- ==== Sys2Proof/Laws/Recorder.lean ====
section
/-! SUPPORT. The recorder: every operation keeps its sizes and its numbering; the preserved area only grows at its end. -/
namespace Sys2Proof.Machine

theorem range'_drop_last (a n : Nat) : List.range' a n ++ [a + n] = List.range' a (n + 1) := by
  rw [List.range'_concat]; simp

/-- A record takes the next index; a full ring loses its lowest (R646, R647). -/
theorem numbered_append (l : List Rec) (next cap : Nat) (r : Rec) (h : numbered l next) (hl : l.length ≤ cap) :
    numbered ((l ++ [{ r with index := next }]).drop (l.length + 1 - cap)) (next + 1) ∧
      ((l ++ [{ r with index := next }]).drop (l.length + 1 - cap)).length ≤ cap := by
  obtain ⟨h1, h2⟩ := h
  have e : (l ++ [{ r with index := next }]).map (fun (r : Rec) => r.index) = List.range' (next - l.length) (l.length + 1) := by
    rw [List.map_append, h2, ← range'_drop_last]
    have : next - l.length + l.length = next := by omega
    simp [this]
  refine ⟨⟨?_, ?_⟩, ?_⟩
  · simp; omega
  · rw [List.map_drop, e, List.drop_range']
    simp only [List.length_drop, List.length_append, List.length_cons, List.length_nil]
    congr 1; omega
  · simp; omega

/-- What every recorder operation keeps (R645 to R647). -/
def Evr.good (e : Evr) : Prop := e.bounded ∧ e.numbered
/-- Only records added at its end change the preserved area (R647). -/
def Evr.presGrows (e e' : Evr) : Prop :=
  ∃ l, e'.pres = (e.pres ++ l).drop ((e.pres ++ l).length - 1024) ∧ e'.presNext = e.presNext + l.length

theorem Evr.presGrows_rfl (e e' : Evr) (h : e.pres.length ≤ 1024) (h1 : e'.pres = e.pres) (h2 : e'.presNext = e.presNext) : e.presGrows e' :=
  ⟨[], by simp [h1, h], by simp [h2]⟩

theorem Evr.presGrows_length {e e' : Evr} (h : e.presGrows e') : e'.pres.length ≤ 1024 := by
  obtain ⟨l, h, _⟩ := h; rw [h, List.length_drop]; omega

theorem Evr.presGrows_trans {a b c : Evr} (h : a.presGrows b) (h' : b.presGrows c) : a.presGrows c := by
  obtain ⟨l, h1, h2⟩ := h; obtain ⟨k, h3, h4⟩ := h'
  refine ⟨l ++ k, ?_, by simp [h2, h4]; omega⟩
  rw [h3, h1]
  rw [← List.append_assoc]
  generalize a.pres ++ l = x
  rw [← List.drop_append_of_le_length (by omega), List.drop_drop, List.length_drop, List.length_append]
  have : x.length - 1024 + (x.length + k.length - (x.length - 1024) - 1024) = x.length + k.length - 1024 := by omega
  rw [this]

/-! ### Each operation -/

theorem Evr.good_reenter (e : Evr) (r : Rec) (h : e.good) : (e.reenter r).good := by
  obtain ⟨⟨h1, h2, h3⟩, h4, h5⟩ := h
  have := numbered_append e.ring e.next 65536 r h4 h2
  unfold Evr.reenter Evr.good Evr.bounded Evr.numbered
  simp only []
  exact ⟨⟨h1, this.2, h3⟩, this.1, h5⟩

theorem Evr.presGrows_reenter (e : Evr) (r : Rec) (h : e.pres.length ≤ 1024) : e.presGrows (e.reenter r) := by
  unfold Evr.reenter
  exact Evr.presGrows_rfl e _ h rfl rfl

/-- An operation that leaves staging, ring and preserved area alone. -/
theorem Evr.good_of_same {e e' : Evr} (h : e.good) (h1 : e'.staging = e.staging) (h2 : e'.ring = e.ring) (h3 : e'.next = e.next)
    (h4 : e'.pres = e.pres) (h5 : e'.presNext = e.presNext) : e'.good := by
  unfold Evr.good Evr.bounded Evr.numbered at *
  rw [h1, h2, h3, h4, h5]; exact h

theorem Evr.good_preserve (e : Evr) (r : Rec) (h : e.good) : (e.preserve r).good := by
  obtain ⟨⟨h1, h2, h3⟩, h4, h5⟩ := h
  have := numbered_append e.pres e.presNext 1024 r h5 h3
  unfold Evr.good Evr.bounded Evr.numbered Evr.preserve
  simp only []
  exact ⟨⟨h1, h2, this.2⟩, h4, this.1⟩

theorem Evr.good_append (e : Evr) (r : Rec) (h : e.good) : (e.append r).good := by
  obtain ⟨⟨h1, h2, h3⟩, h4, h5⟩ := h
  have := numbered_append e.ring e.next 65536 r h4 h2
  unfold Evr.append
  simp only []
  split
  · refine Evr.good_preserve _ _ ?_
    unfold Evr.good Evr.bounded Evr.numbered
    simp only []
    exact ⟨⟨h1, this.2, h3⟩, this.1, h5⟩
  · unfold Evr.good Evr.bounded Evr.numbered
    simp only []
    exact ⟨⟨h1, this.2, h3⟩, this.1, h5⟩

theorem Evr.good_keep (e : Evr) (r : Rec) (h : e.good) : (e.keep r).good := by
  obtain ⟨⟨h1, h2, h3⟩, h4, h5⟩ := h
  unfold Evr.keep
  split
  · exact Evr.good_of_same ⟨⟨h1, h2, h3⟩, h4, h5⟩ rfl rfl rfl rfl rfl
  · unfold Evr.good Evr.bounded Evr.numbered
    simp only []
    exact ⟨⟨by simp; omega, h2, h3⟩, h4, h5⟩

theorem Evr.good_stage (e : Evr) (r : Rec) (h : e.good) : (e.stage r).good := by
  unfold Evr.stage; split
  · exact Evr.good_append e r h
  · exact Evr.good_keep e r h

theorem Evr.presGrows_preserve (e : Evr) (r : Rec) (_h : e.pres.length ≤ 1024) : e.presGrows (e.preserve r) :=
  ⟨[{ r with index := e.presNext }], by simp [Evr.preserve], rfl⟩

theorem Evr.presGrows_append (e : Evr) (r : Rec) (h : e.pres.length ≤ 1024) : e.presGrows (e.append r) := by
  unfold Evr.append; simp only []
  split
  · exact ⟨[_], by simp [Evr.preserve]; rfl, rfl⟩
  · exact Evr.presGrows_rfl e _ h rfl rfl

theorem Evr.presGrows_keep (e : Evr) (r : Rec) (h : e.pres.length ≤ 1024) : e.presGrows (e.keep r) := by
  unfold Evr.keep; split <;> exact Evr.presGrows_rfl e _ h rfl rfl

theorem Evr.presGrows_stage (e : Evr) (r : Rec) (h : e.pres.length ≤ 1024) : e.presGrows (e.stage r) := by
  unfold Evr.stage; split
  · exact Evr.presGrows_append e r h
  · exact Evr.presGrows_keep e r h

/-- A fold of operations that each keep the recorder good keeps it good. -/
theorem Evr.good_foldl {α : Type} (f : Evr → α → Evr) (hf : ∀ (e : Evr) a, e.good → (f e a).good) : ∀ (l : List α) (e : Evr), e.good → (l.foldl f e).good
  | [], _, h => h
  | a :: l, e, h => Evr.good_foldl f hf l (f e a) (hf e a h)

theorem Evr.presGrows_foldl {α : Type} (f : Evr → α → Evr) (hf : ∀ (e : Evr) a, e.pres.length ≤ 1024 → e.presGrows (f e a)) :
    ∀ (l : List α) (e : Evr), e.pres.length ≤ 1024 → e.presGrows (l.foldl f e)
  | [], e, h => Evr.presGrows_rfl e e h rfl rfl
  | a :: l, e, h => Evr.presGrows_trans (hf e a h) (Evr.presGrows_foldl f hf l (f e a) (Evr.presGrows_length (hf e a h)))

theorem Evr.good_closeWindow (e : Evr) (t : Nat) (u : Bool) (h : e.good) : (e.closeWindow t u).good :=
  Evr.good_of_same (Evr.good_foldl _ (fun e a h => by split; exact h; exact Evr.good_stage _ _ h) e.win e h) rfl rfl rfl rfl rfl

theorem Evr.good_roll (e : Evr) (t : Nat) (u : Bool) (h : e.good) : (e.roll t u).good := by
  unfold Evr.roll; split
  · exact Evr.good_closeWindow e t u h
  · exact h

theorem Evr.good_record (e : Evr) (v : Ev) (h : e.good) : (e.record v).good := by
  unfold Evr.record
  simp only []
  split
  · exact Evr.good_of_same h rfl rfl rfl rfl rfl
  · split
    · exact Evr.good_keep _ _ h
    · have h' := Evr.good_roll e v.time v.unjoined h
      split
      · exact Evr.good_stage _ _ h'
      · split
        · exact Evr.good_stage _ _ (Evr.good_of_same h' rfl rfl rfl rfl rfl)
        · exact Evr.good_of_same h' rfl rfl rfl rfl rfl

theorem Evr.presGrows_closeWindow (e : Evr) (t : Nat) (u : Bool) (h : e.pres.length ≤ 1024) : e.presGrows (e.closeWindow t u) := by
  have := Evr.presGrows_foldl (fun e (kw : Nat × WinCnt) => if kw.2.supp = 0 then e else
      e.stage (e.mk' 0xE010 0 (pack [(0, 2, kw.1), (2, 4, kw.2.supp), (6, 4, 10 * e.winNo), (10, 8, kw.2.first),
        (18, 8, kw.2.last)]) t u)) (fun e a h => by
          split
          · exact Evr.presGrows_rfl e e h rfl rfl
          · exact Evr.presGrows_stage _ _ h) e.win e h
  exact this

theorem Evr.presGrows_roll (e : Evr) (t : Nat) (u : Bool) (h : e.pres.length ≤ 1024) : e.presGrows (e.roll t u) := by
  unfold Evr.roll; split
  · exact Evr.presGrows_closeWindow e t u h
  · exact Evr.presGrows_rfl e e h rfl rfl

theorem Evr.presGrows_record (e : Evr) (v : Ev) (h : e.pres.length ≤ 1024) : e.presGrows (e.record v) := by
  unfold Evr.record
  simp only []
  split
  · exact Evr.presGrows_rfl e _ h rfl rfl
  · split
    · exact Evr.presGrows_keep _ _ h
    · have h' := Evr.presGrows_roll e v.time v.unjoined h
      refine Evr.presGrows_trans h' ?_
      have hl := Evr.presGrows_length h'
      split
      · exact Evr.presGrows_stage _ _ hl
      · split
        · exact Evr.presGrows_stage { (e.roll v.time v.unjoined) with win := _ } _ hl
        · exact Evr.presGrows_rfl _ _ hl rfl rfl

/-! ### The recorder's own commands, flush and start-up -/

theorem Evr.good_own (e : Evr) (m : Mod) (code : Nat) (fs : List (Nat × Nat × Nat)) (h : e.good) : (e.own m code fs).good :=
  Evr.good_append _ _ h
theorem Evr.presGrows_own (e : Evr) (m : Mod) (code : Nat) (fs : List (Nat × Nat × Nat)) (h : e.pres.length ≤ 1024) :
    e.presGrows (e.own m code fs) := Evr.presGrows_append _ _ h

theorem Evr.good_thaw (e : Evr) (m : Mod) (h : e.good) : (e.thaw m).good := by
  unfold Evr.thaw
  simp only []
  refine Evr.good_foldl _ Evr.good_append _ _ ?_
  have h' : ({ e with frozenAt := none, staging := [], lostInFreeze := 0 } : Evr).good :=
    ⟨⟨by simp, h.1.2⟩, h.2⟩
  split
  · exact h'
  · exact Evr.good_own _ m _ _ h'

theorem Evr.presGrows_thaw (e : Evr) (m : Mod) (h : e.pres.length ≤ 1024) : e.presGrows (e.thaw m) := by
  unfold Evr.thaw
  simp only []
  split
  · exact Evr.presGrows_foldl Evr.append Evr.presGrows_append _ { e with frozenAt := none, staging := [], lostInFreeze := 0 } h
  · refine Evr.presGrows_trans (b := Evr.own { e with frozenAt := none, staging := [], lostInFreeze := 0 } m 0xE003 [(0, 8, e.lostInFreeze)]) ?_ ?_
    · exact Evr.presGrows_own { e with frozenAt := none, staging := [], lostInFreeze := 0 } m _ _ h
    · refine Evr.presGrows_foldl Evr.append Evr.presGrows_append _ _ ?_
      exact Evr.presGrows_length (Evr.presGrows_own { e with frozenAt := none, staging := [], lostInFreeze := 0 } m _ _ h)

theorem Evr.good_freeze (e : Evr) (now : Nat) (h : e.good) : (e.freeze now).good := by
  unfold Evr.freeze; split
  · exact h
  · exact Evr.good_of_same h rfl rfl rfl rfl rfl
theorem Evr.presGrows_freeze (e : Evr) (now : Nat) (h : e.pres.length ≤ 1024) : e.presGrows (e.freeze now) := by
  unfold Evr.freeze; split <;> exact Evr.presGrows_rfl _ _ h rfl rfl

theorem Evr.good_clear (e : Evr) (m : Mod) (h : e.good) : (e.clear m).good := by
  unfold Evr.clear
  refine Evr.good_thaw _ m (Evr.good_foldl _ Evr.good_reenter _ _ (Evr.good_own _ m _ _ ?_))
  exact ⟨⟨h.1.1, by simp, h.1.2.2⟩, ⟨by simp, by simp⟩, h.2.2⟩
theorem Evr.presGrows_clear (e : Evr) (m : Mod) (h : e.pres.length ≤ 1024) : e.presGrows (e.clear m) := by
  unfold Evr.clear
  have h1 := Evr.presGrows_own { e with ring := [], next := 0, cleared := true } m 0xE002
    [(0, 4, e.next - (e.ring.filter fun r => r.time = m.now && r.pcycles = e.pcycles).length), (4, 4, m.sec.nonceGen),
      (8, 1, m.opkActive.getD 0)] h
  have h2 := Evr.presGrows_foldl Evr.reenter Evr.presGrows_reenter
    (e.ring.filter fun r => r.time = m.now && r.pcycles = e.pcycles) _ (Evr.presGrows_length h1)
  have h3 := Evr.presGrows_thaw _ m (Evr.presGrows_length h2)
  exact Evr.presGrows_trans (a := e) (Evr.presGrows_trans (a := e) h1 h2) h3

theorem Evr.good_freezeExpired (e : Evr) (m : Mod) (h : e.good) : (m.freezeExpired e).good := by
  unfold Mod.freezeExpired; split
  · exact h
  · split
    · exact h
    · exact Evr.good_thaw _ m (Evr.good_own _ m _ _ h)
theorem Evr.presGrows_freezeExpired (e : Evr) (m : Mod) (h : e.pres.length ≤ 1024) : e.presGrows (m.freezeExpired e) := by
  unfold Mod.freezeExpired; split
  · exact Evr.presGrows_rfl _ _ h rfl rfl
  · split
    · exact Evr.presGrows_rfl _ _ h rfl rfl
    · rename_i t _ _
      have h' := Evr.presGrows_own e m 0xE004 [(0, 8, t)] h
      exact Evr.presGrows_trans h' (Evr.presGrows_thaw _ m (Evr.presGrows_length h'))

theorem Evr.good_flush (e : Evr) (h : e.good) : e.flush.good := by
  have h' := Evr.good_foldl _ Evr.good_preserve (e.staging.filter Rec.preserved) e h
  exact ⟨⟨by simp [Evr.flush], h'.1.2⟩, h'.2⟩
theorem Evr.presGrows_flush (e : Evr) (h : e.pres.length ≤ 1024) : e.presGrows e.flush :=
  Evr.presGrows_foldl _ Evr.presGrows_preserve (e.staging.filter Rec.preserved) e h

theorem Evr.good_boot (e : Evr) (h : e.good) : e.boot.good :=
  ⟨⟨by simp [Evr.boot], by simp [Evr.boot], h.1.2.2⟩, ⟨by simp [Evr.boot], by simp [Evr.boot]⟩, h.2.2⟩
theorem Evr.presGrows_boot (e : Evr) (h : e.pres.length ≤ 1024) : e.presGrows e.boot := Evr.presGrows_rfl _ _ h rfl rfl

theorem Evr.good_start (e : Evr) (m : Mod) (h : e.good) : (e.start m).good := by
  unfold Evr.start
  simp only []
  refine Evr.good_foldl _ Evr.good_append _ _ (Evr.good_foldl _ (fun e a h => Evr.good_append _ _ h) _ _ (Evr.good_own _ m _ _ ?_))
  exact Evr.good_of_same h rfl rfl rfl rfl rfl
theorem Evr.presGrows_start (e : Evr) (m : Mod) (h : e.pres.length ≤ 1024) : e.presGrows (e.start m) := by
  unfold Evr.start
  simp only []
  have h1 := Evr.presGrows_own { e with flushed := [], heldBoot := [] } m 0xE001
    [(0, 4, e.pcycles), (4, 1, b2n m.attic.lastFlushOk), (5, 2, e.flushed.length), (7, 1, m.sec.lastFatal)] h
  have h2 := Evr.presGrows_foldl (fun (e : Evr) r => e.append { r with late := true }) (fun e a h => Evr.presGrows_append _ _ h) e.flushed _
    (Evr.presGrows_length h1)
  have h3 := Evr.presGrows_foldl Evr.append Evr.presGrows_append e.heldBoot _ (Evr.presGrows_length h2)
  exact Evr.presGrows_trans (a := e) (Evr.presGrows_trans (a := e) h1 h2) h3

theorem Evr.good_persist (e : Evr) (h : e.good) : e.persist.good := Evr.good_of_same h rfl rfl rfl rfl rfl
theorem Evr.presGrows_persist (e : Evr) (h : e.pres.length ≤ 1024) : e.presGrows e.persist := Evr.presGrows_rfl _ _ h rfl rfl
theorem Evr.good_tick (e : Evr) (h : e.good) : e.tick.good := by
  unfold Evr.tick; split <;> exact Evr.good_of_same h rfl rfl rfl rfl rfl

/-- The events of a row keep the recorder good. -/
theorem State.commit_good (s : State) (m : Mod) (h : s.evr.good) : (s.commit m).evr.good :=
  Evr.good_foldl Evr.record Evr.good_record _ _ h
theorem State.commit_presGrows (s : State) (m : Mod) (h : s.evr.pres.length ≤ 1024) : s.evr.presGrows (s.commit m).evr :=
  Evr.presGrows_foldl Evr.record Evr.presGrows_record _ _ h

end Sys2Proof.Machine
end

