-- ==== Sys2Proof/Tests/Slice0.lean ====
section
/-! SUPPORT. Tests: ill-formed commands, values worked out by the spec, and for the statements states that meet their hypotheses. -/
namespace Sys2Proof.Tests
open Sys2Proof Sys2Proof.Machine
set_option Elab.async false

/-! ### Helpers -/

/-- A command packet: opcode, job, and parameter fields (byte, bytes, value). -/
def cp (op job : Nat) (fs : List (Nat × Nat × Nat)) : Packet := BitVec.ofNat 1024 (pack ([(0, 1, op), (2, 2, job), (4, 4, 7)] ++ fs))
/-- A module in READY. -/
def rdy : Mod := { phase := .ready }
/-- A packet in flight on queue 0. -/
def onQ0 (m : Mod) (p : Packet) : State := { m := m.onQ 0 fun x => { x with en := true, size := 15, sqBase := 4096, cqBase := 8192, cmd := some { pkt := p, order := 1 } } }
/-- A job that is open. -/
def job1 : Job := jobOfPkt (cp 0x08 1 [])
def withJob (j : Job) : Mod := { rdy with jobs := [(1, j)] }

theorem acc {s : State} {op : Nat} {q : Queue} {p : Packet} (h : (s.m.takes op q p && (s.m.checkPkt p).isNone) = true) :
    s.accepts op q p := by
  have := Bool.and_eq_true_iff.mp h
  exact ⟨this.1, Option.isNone_iff_eq_none.mp this.2⟩
theorem some_of {α : Type} {x : Option α} (h : x.isSome = true) : ∃ a, x = some a := Option.isSome_iff_exists.mp h
theorem ok_of {α ε : Type} {x : Except ε α} (h : x.toOption.isSome = true) : ∃ a, x = .ok a := by
  cases x with
  | ok a => exact ⟨a, rfl⟩
  | error e => cases h

/-- What a signer with a key puts to a packet. -/
def sigFor (s : State) (p : Packet) (key : List Byte) : Sig :=
  { context := ascii "LX1536CMD", key := key, message := s.m.signedMessage p, bytes := sigAt s.mem p }
theorem accSig {s : State} {op : Nat} {q : Queue} {p : Packet} {key : List Byte}
    (h : (s.m.takes op q p && (s.m.serving || anyStateOps.contains (pktOp p)) && pktSigned p && (badField p).isNone) = true)
    (hk : (pktOp p = 0x59 ∧ Config.sha3 key = s.m.nv.fwkHash) ∨
      (pktOp p ≠ 0x59 ∧ s.m.opkActive.isSome = true ∧ s.m.sec.opkBad = false ∧ s.m.nv.opkKey = key)) :
    s.acceptsSigned op q p (sigFor s p key) := by
  simp only [Bool.and_eq_true, Option.isNone_iff_eq_none] at h
  obtain ⟨⟨⟨h1, h2⟩, h3⟩, h4⟩ := h
  refine ⟨h1, ?_⟩
  have hg : s.m.sigFault s.mem p (sigFor s p key) = 0 := by
    rcases hk with ⟨a, b⟩ | ⟨a, b, c, d⟩
    · simp [Mod.sigFault, sigFor, sigAccepts, a, b]
    · obtain ⟨k, e⟩ := Option.isSome_iff_exists.mp b
      simp [Mod.sigFault, sigFor, sigAccepts, a, e, c, d]
  have h2' : (!s.m.serving && !anyStateOps.contains (pktOp p)) = false := by
    revert h2; cases s.m.serving <;> cases anyStateOps.contains (pktOp p) <;> simp
  simp only [Mod.signedStatus, hg, h3, h4, h2']
  simp

/-! ### Host commands (QueryCommandsComplete to SavingCommandsComplete) -/

def pDq := cp 0x01 0 [(16, 8, 65536)]
def pDc := cp 0x02 0 [(16, 1, 255), (18, 1, 63)]
def pPc := cp 0x41 0 [(16, 4, 3000)]
def pEr := cp 0x50 0 [(16, 8, 65536), (24, 4, 2), (28, 4, 8)]
def pMr := cp 0x60 0 []
def pFs := cp 0x58 0 [(24, 4, 67117056)]
def pFs2 := cp 0x58 0 [(24, 4, 1), (28, 4, 67117055), (32, 1, 1)]
def pAt := cp 0x5A 0 [(16, 8, 65536), (24, 4, 4), (32, 8, 131072), (40, 4, 64)]
def pOs := cp 0x40 0 [(16, 4, 0xFFFFFFFF), (20, 1, 7)]
def pOs1 := cp 0x40 1 [(16, 4, 0xFFFFFF07), (20, 1, 255)]
def rec1 (i : Nat) : Rec := { code := 0x5001, sev := 1, late := false, unjoined := false, pcycles := 1, opsec := 0, index := i, time := 5, payload := 0 }
def sEr : State := { onQ0 rdy pEr with evr := { ({} : Evr) with ring := [rec1 2], next := 3 } }
def frame1 : MetFrame := { energy := 5, frame := 1, fwver := 0, pcnt := 0, tamper := false, nvmFault := false, power := 9 }

theorem test_devQuery : (onQ0 rdy pDq).accepts 0x01 0 pDq := acc (by decide +kernel)
theorem test_devConfig : (onQ0 rdy pDc).accepts 0x02 0 pDc := acc (by decide +kernel)
theorem test_powerCap : (onQ0 rdy pPc).accepts 0x41 0 pPc := acc (by decide +kernel)
theorem test_evrRead : sEr.accepts 0x50 0 pEr ∧ pkt pEr 24 4 < sEr.evr.next ∧ (∀ r ∈ sEr.evr.ring, pkt pEr 24 4 ≤ r.index) ∧
    (sEr.evr.ring.take (pkt pEr 28 4)).getLast? = some (rec1 2) :=
  ⟨acc (by decide +kernel), by decide +kernel, by decide +kernel, by decide +kernel⟩
theorem test_metRead : ∃ s : State, s.accepts 0x60 0 pMr ∧ s.m.met.valid = true ∧ s.m.met.held = some frame1 :=
  ⟨onQ0 { rdy with met := { ({} : Met) with held := some frame1, valid := true } } pMr, acc (by decide +kernel), rfl, rfl⟩
theorem test_fwStage : (onQ0 rdy pFs).accepts 0x58 0 pFs ∧ pkt pFs 28 4 + pkt pFs 24 4 ≤ 67117056 ∧
    (onQ0 rdy pFs2).accepts 0x58 0 pFs2 ∧ pkt pFs2 28 4 + pkt pFs2 24 4 ≤ 67117056 :=
  ⟨acc (by decide +kernel), by decide +kernel, acc (by decide +kernel), by decide +kernel⟩
theorem test_attest : (onQ0 rdy pAt).accepts 0x5A 0 pAt := acc (by decide +kernel)
theorem test_opSet : (onQ0 rdy pOs).accepts 0x40 0 pOs ∧ pktJob pOs = 0 ∧ pkt pOs 20 1 ≠ 0xFF ∧
    (onQ0 (withJob job1) pOs1).accepts 0x40 0 pOs1 ∧ pktJob pOs1 ≠ 0 ∧ (onQ0 (withJob job1) pOs1).m.job? (pktJob pOs1) = some job1 :=
  ⟨acc (by decide +kernel), by decide +kernel, by decide +kernel, acc (by decide +kernel), by decide +kernel, by decide +kernel⟩

def pTj := cp 0x39 0 [(16, 4, 60000)]
def pTs := cp 0x38 0 [(16, 8, 65536), (24, 4, 536)]
def sTs : State := { onQ0 rdy pTs with mem := [(65536, 1)] }
def pCf := cp 0x48 0 [(16, 1, 3)]
def pCu := cp 0x49 0 [(16, 1, 3)]
def pSf := cp 0x5C 0 [(16, 1, 3), (17, 1, 47), (20, 4, 65535)]
def sSf : State := onQ0 { rdy.onCore 3 (fun x => { x with sync := Tab.put x.sync 47 { job := 1 } }) with
  sec := { ({} : Sec) with dbgEnd := 1 } } pSf

theorem test_timeJoin : ∃ s : State, s.accepts 0x39 0 pTj ∧ s.m.tb.state ≠ .free :=
  ⟨onQ0 { rdy with tb := { ({} : TimeB) with state := .acquire } } pTj, acc (by decide +kernel), by decide +kernel⟩
theorem test_topoSet : ∃ w, w = Memory.readN sTs.mem (pkt pTs 16 8) (min (pkt pTs 24 4) 524824) ∧ sTs.accepts 0x38 0 pTs ∧
    536 + 128 * min 4096 (topoEntries w) ≤ pkt pTs 24 4 ∧ (∀ c ∈ topoChecks w, c.2 = true) ∧ sTs.m.topoReject w = none :=
  ⟨1, by decide +kernel, acc (by decide +kernel), by decide +kernel, by decide +kernel, by decide +kernel⟩
theorem test_coreFence : ∃ s : State, s.accepts 0x48 0 pCf ∧ s.m.liveCores.contains (pkt pCf 16 1) = true ∧ 1 < s.m.liveCores.length ∧
    s.m.deferFence = [] ∧ s.m.allAtBoundary = true :=
  ⟨onQ0 rdy pCf, acc (by decide +kernel), by decide +kernel, by decide +kernel, rfl, by decide +kernel⟩
theorem test_coreUnfence : ∃ s : State, s.accepts 0x49 0 pCu ∧ (s.m.core! (pkt pCu 16 1)).fenced = true ∧ s.m.exhausted (pkt pCu 16 1) = false :=
  ⟨onQ0 (rdy.onCore 3 fun x => { x with fenced := true }) pCu, acc (by decide +kernel), by decide +kernel, by decide +kernel⟩
theorem test_syncForce : sSf.accepts 0x5C 0 pSf ∧ sSf.m.dbgOpen = true ∧ (sSf.m.sync! (pkt pSf 16 1) (pkt pSf 17 1)).job ≠ 0 ∧
    pkt pSf 20 4 ≤ (sSf.m.sync! (pkt pSf 16 1) (pkt pSf 17 1)).limit :=
  ⟨acc (by decide +kernel), by decide +kernel, by decide +kernel, by decide +kernel⟩

def pEf := cp 0x51 0 []
def pEt := cp 0x52 0 []
/-- A signed packet: SIGNED set. -/
def sgn (op : Nat) (fs : List (Nat × Nat × Nat)) : Packet := cp op 0 ([(1, 1, 1)] ++ fs)
/-- A module that an operator key is enrolled in, in slot 3. -/
def keyed (m : Mod) : Mod := { m with nv := { m.nv with opkHash := [(3, Config.sha3 [5])], opkKey := [5] } }
/-- The 64 bytes of a digest, from byte 24 on. -/
def hashTab (H : Nat) : Tab Nat := (List.range 64).map fun i => (24 + i, H / 2 ^ (8 * i) % 256)
def imgHead : Tab Nat := [(0, 0x4C), (1, 0x58), (2, 0x46), (3, 0x57), (4, 1), (8, 2), (16, 1)]
/-- A Nimig image of one body byte: MAGIC, TYPE 1, VERSION 2, BODY_LEN 1, and its BODY_HASH. -/
def imgWith (H : Nat) : Tab Nat := imgHead ++ hashTab H
def img : Tab Nat := imgWith (Config.sha3 [0]).toNat
def authOf (t : Tab Nat) : ImageAuth :=
  let g : Sig := { context := ascii "LX1536FW", key := imgKey t, message := imgBytes t 0 2688, bytes := imgBytes t 2688 4627 }
  { image := g, cosig := g }
theorem find_map (H i : Nat) : ∀ l : List Nat, i ∈ l →
    Tab.find (l.map fun i => (24 + i, H / 2 ^ (8 * i) % 256)) (24 + i) = some (H / 2 ^ (8 * i) % 256)
  | [], h => by cases h
  | a :: t, h => by
    rw [List.map_cons, Tab.find]
    split
    · rename_i e; rw [show i = a by omega]
    · rename_i e
      exact find_map H i t ((List.mem_cons.mp h).resolve_left fun c => e (by rw [c]))
theorem img_hash (H : Nat) : imgBytes (imgWith H) 24 64 = leBytes 64 H := by
  refine List.map_congr_left fun i hi => ?_
  have h : imgByte (imgWith H) (24 + i) = (Tab.find (hashTab H) (24 + i)).getD 0 := by
    simp only [imgByte, Tab.get, imgWith, imgHead, List.cons_append, List.nil_append, Tab.find]
    repeat rw [if_neg (by omega)]
  rw [h, hashTab, find_map H i _ hi]
  exact BitVec.eq_of_toNat_eq (by simp)
theorem img_zeroes (H lo hi : Nat) (h : (List.range 64).all (fun i => !decide (lo ≤ 24 + i ∧ 24 + i < hi)) = true)
    (h' : imgZeroes imgHead lo hi = true) : imgZeroes (imgWith H) lo hi = true := by
  simp only [imgZeroes, imgWith, hashTab, List.all_append, List.all_map, Bool.and_eq_true]
  refine ⟨h', List.all_eq_true.mpr fun i hi => ?_⟩
  simp only [Function.comp_apply, List.all_eq_true.mp h i hi, Bool.or_true]
theorem img_type : (imgHeader img).type = 1 ∧ (imgHeader img).svn = 0 := ⟨rfl, rfl⟩
theorem img_passes (nv : Nv) (n : Nat) (hn : 8193 ≤ n) (hk : nv.fwkHash = Config.sha3 (imgKey img)) : nv.passes img n (authOf img) = true := by
  have h1 : (imgHeader img).magicOk = true := rfl
  have h4 : (imgHeader img).bodyLen = 1 := rfl
  have h5 : (imgHeader img).reservedZero = true := by
    simp only [imgHeader, img, Bool.and_eq_true]
    exact ⟨⟨img_zeroes _ _ _ (by decide +kernel) (by decide +kernel), img_zeroes _ _ _ (by decide +kernel) (by decide +kernel)⟩,
      img_zeroes _ _ _ (by decide +kernel) (by decide +kernel)⟩
  have h6 : imgBytes img 8192 1 = [0] := rfl
  simp [Nv.passes, h1, img_type.1, img_type.2, h4, h5, hk, authOf, sigAccepts, hn]
  rw [h6]; exact (img_hash _).symm
def staged : Sec := { ({} : Sec) with stage := img, stageLen := some 8193, stageRanges := [(0, 8193)] }
/-- A module that the image's key is the firmware key of. -/
def fwKeyed (m : Mod) : Mod := { m with nv := { m.nv with fwkHash := Config.sha3 (imgKey img) } }

theorem test_evrFreeze : ∃ s : State, s.accepts 0x51 0 pEf ∧ s.evr.frozenAt = none :=
  ⟨onQ0 rdy pEf, acc (by decide +kernel), rfl⟩
theorem test_evrThaw : ∃ s : State, s.accepts 0x52 0 pEt ∧ s.evr.frozenAt.isSome = true :=
  ⟨{ onQ0 rdy pEt with evr := { ({} : Evr) with frozenAt := some 0 } }, acc (by decide +kernel), rfl⟩
theorem test_evrClear : ∃ s : State, s.acceptsSigned 0x53 0 (sgn 0x53 []) (sigFor s (sgn 0x53 []) [5]) :=
  ⟨onQ0 (keyed rdy) (sgn 0x53 []), accSig (by decide +kernel) (.inr ⟨by decide +kernel, by decide +kernel, rfl, rfl⟩)⟩
def pFa := sgn 0x59 [(16, 4, 2)]
def sFa : State := onQ0 (fwKeyed { rdy with sec := staged }) pFa
theorem test_fwActivate : sFa.acceptsSigned 0x59 0 pFa (sigFor sFa pFa (imgKey img)) ∧ sFa.m.activateStatus pFa (authOf img) = none := by
  refine ⟨accSig (by decide +kernel) (.inl ⟨by decide +kernel, rfl⟩), ?_⟩
  have h1 : sFa.m.sec.staged = some 8193 := rfl
  have h2 : sFa.m.sec.stage = img := rfl
  have h3 : sFa.m.nv.passes img 8193 (authOf img) = true := img_passes _ _ (by omega) rfl
  have h5 : (imgHeader img).version.toNat = pkt pFa 16 4 := by decide +kernel
  have h6 : sFa.m.nv.floor = 0 := rfl
  simp only [Mod.activateStatus, h1, h2, h3, img_type, h5, h6]
  simp
theorem test_debugUnlock : ∃ s : State, s.acceptsSigned 0x5B 0 (sgn 0x5B [(16, 4, 86400)]) (sigFor s (sgn 0x5B [(16, 4, 86400)]) [5]) ∧
    s.m.nv.dbgDisable = false :=
  ⟨onQ0 (keyed rdy) (sgn 0x5B [(16, 4, 86400)]), accSig (by decide +kernel) (.inr ⟨by decide +kernel, by decide +kernel, rfl, rfl⟩), rfl⟩
/-- A tile goes to the Attic where no stack takes any. -/
theorem place_ok {m : Mod} {h t : Nat} (he : m.eligible = [])
    (hd : (m.accepts homeAttic && (m.findRun homeAttic 1).isSome && m.entriesFor 1 false) = true) : (m.placeTiles h [t]).isSome = true := by
  simp only [Bool.and_eq_true] at hd
  obtain ⟨f, hf⟩ := Option.isSome_iff_exists.mp hd.1.2
  have hp : m.pickStack h t = none := by
    have hn : (m.updStack h t).filter (fun _ => false) = none := by cases m.updStack h t <;> rfl
    cases e : Tab.find m.res.pinCore (tileKey h t) <;> simp [Mod.pickStack, he, Mod.mostFree, hn, e]
  simp [Mod.placeTiles, hp, hd.1.1, hf, hd.2]
/-- So does a new object of one tile, after its metadata traffic at a stack that the spec leaves open. -/
theorem create_ok {m : Mod} {o : Obj} (i : Nat) (hi : m.lowestIndex 65535 1 = some i) (hb : o.borrowed = none) (ht : o.allTiles = [0]) (he : m.eligible = [])
    (hs : m.cel.st = []) (x : Mod) (hx : x = ({ m with res := { m.res with objs := Tab.put m.res.objs (m.handle i) o } } : Mod).metaTraffic)
    (hd : (decide (o.tiles ≤ m.freeRoom) && (x.accepts homeAttic && (x.findRun homeAttic 1).isSome && x.entriesFor 1 false)) = true) : ∃ y, m.create o = .ok y := by
  simp only [Bool.and_eq_true, decide_eq_true_eq] at hd
  have e : x.eligible = [] := by
    rw [hx, Mod.eligible_metaTraffic _ (by show Tab.risesFrom 0 m.cel.st; rw [hs]; trivial)]; exact he
  obtain ⟨y, hy⟩ := Option.isSome_iff_exists.mp (place_ok (h := m.handle i) (t := 0) e (by simp only [Bool.and_eq_true]; exact hd.2))
  refine ⟨(y, m.handle i), ?_⟩
  simp only [Mod.create, hb, Mod.addObj, hi, if_neg (Nat.not_lt.mpr hd.1), ht, ← hx, hy]
  rfl
def pJo := cp 0x08 1 []
def pJoL := cp 0x08 0xFFF [(44, 4, 2)]
def pJc := cp 0x09 1 []
def pOc := cp 0x10 1 [(16, 1, 1), (20, 4, 3), (24, 4, 32)]
def pOcB := cp 0x10 1 [(16, 1, 33), (17, 1, 3), (20, 4, 3), (24, 4, 32)]
def pOf := cp 0x11 1 [(16, 4, 65537)]
/-- An object of job 1: 3 rows, 32 columns of a format, one tile in stack 0. -/
def obj1 (fmt : Nat) : Obj := { job := 1, fmt := fmt, rows := 3, cols := 32 }
def withObj (m : Mod) (o : Obj) : Mod := { m with res := { m.res with
  objs := [(65537, o)], ext := [{ obj := 65537, tile := 0, n := 1, home := 64, frame := 0 }] } }
def mObj : Mod := withObj (withJob job1) (obj1 3)

def mJoL : Mod := { (onQ0 rdy pJoL).m with jobs := Tab.put (onQ0 rdy pJoL).m.jobs (pktJob pJoL) (jobOfPkt pJoL) }
theorem test_jobOpen : (onQ0 rdy pJo).accepts 0x08 0 pJo ∧ (∃ x, { rdy with jobs := [(1, jobOfPkt pJo)] }.makeLog 1 (pkt pJo 44 4) = .ok x) ∧
    (onQ0 rdy pJoL).accepts 0x08 0 pJoL ∧ (onQ0 rdy pJoL).m.job? (pktJob pJoL) = none ∧ (onQ0 rdy pJoL).m.jobs.length < 16 ∧
    ∃ x, mJoL.makeLog (pktJob pJoL) (pkt pJoL 44 4) = .ok x :=
  ⟨acc (by decide +kernel), ok_of (by decide +kernel), acc (by decide +kernel), by decide +kernel, by decide +kernel, by
    rw [Mod.makeLog, if_neg (by decide +kernel)]
    exact create_ok 1 (by decide +kernel) rfl (by decide +kernel) (by decide +kernel) rfl _ rfl (by decide +kernel)⟩
theorem test_jobClose : ∃ s : State, s.accepts 0x09 0 pJc ∧ s.m.run? (pktJob pJc) = none ∧ s.m.mayClose (pktJob pJc) = true :=
  ⟨onQ0 (withJob job1) pJc, acc (by decide +kernel), by decide +kernel, by decide +kernel⟩
theorem test_objCreate : (onQ0 (withJob job1) pOc).accepts 0x10 0 pOc ∧ (objOfPkt pOc).borrowed = none ∧
    (∃ x, (onQ0 (withJob job1) pOc).m.create (objOfPkt pOc) = .ok x) :=
  ⟨acc (by decide +kernel), by decide +kernel,
    create_ok 1 (by decide +kernel) (by decide +kernel) (by decide +kernel) (by decide +kernel) rfl _ rfl (by decide +kernel)⟩
theorem test_objCreate_borrowed : (onQ0 (withJob job1) pOcB).accepts 0x10 0 pOcB ∧ (objOfPkt pOcB).borrowed = some 3 ∧
    (onQ0 (withJob job1) pOcB).m.liveCores.contains 3 = true ∧ ∃ x, (onQ0 (withJob job1) pOcB).m.create (objOfPkt pOcB) = .ok x :=
  ⟨acc (by decide +kernel), by decide +kernel, by decide +kernel, ok_of (by decide +kernel)⟩
theorem test_objFree : (onQ0 mObj pOf).accepts 0x11 0 pOf ∧ ∃ o, (onQ0 mObj pOf).m.obj? (pkt pOf 16 4) = some o ∧ o.job = pktJob pOf :=
  ⟨acc (by decide +kernel), obj1 3, by decide +kernel, by decide +kernel⟩

def pOh := cp 0x12 1 [(16, 4, 65537), (28, 1, 2), (29, 1, 95)]
def pOh0 := cp 0x12 1 [(16, 4, 65537), (28, 1, 5)]
def mDir : Mod := withObj (withJob { job1 with directed := true }) (obj1 3)
theorem test_objHint : ∃ o, (onQ0 mObj pOh).accepts 0x12 0 pOh ∧ (onQ0 mObj pOh).m.objOfJob (pkt pOh 16 4) (pktJob pOh) = some o ∧
    pkt pOh 20 4 < o.tiles ∧ pkt pOh 24 4 < o.tiles ∧ (onQ0 mObj pOh).m.hintArgOk (pkt pOh 28 1) (pkt pOh 29 1) = true ∧
    (onQ0 mObj pOh).m.directed o.job = false :=
  ⟨obj1 3, acc (by decide +kernel), by decide +kernel, by decide +kernel, by decide +kernel, by decide +kernel, by decide +kernel⟩
theorem test_objHint_directed : (onQ0 mDir pOh0).accepts 0x12 0 pOh0 ∧ (onQ0 mDir pOh0).m.objOfJob (pkt pOh0 16 4) (pktJob pOh0) = some (obj1 3) ∧
    (onQ0 mDir pOh0).m.directed 1 = true ∧ 3 < pkt pOh0 28 1 := ⟨acc (by decide +kernel), by decide +kernel, by decide +kernel, by decide +kernel⟩

def pOw := cp 0x13 1 [(16, 4, 65537), (32, 8, 1048576), (40, 4, 1048576)]
def pOw2 := cp 0x13 1 [(16, 4, 65537), (20, 1, 2), (32, 8, 1048576), (40, 4, 72)]
theorem test_objWrite : ∃ s : State, s.accepts 0x13 0 pOw ∧ s.m.run? (pktJob pOw) = none ∧ s.m.partBad pOw = none ∧
    s.m.isImage (pkt pOw 16 4) = false ∧ pkt pOw 20 1 = 0 ∧ s.m.heldByAttic (pkt pOw 16 4) (pktTiles pOw) = false ∧
    ∃ m, s.m.hostPins (pkt pOw 16 4) true (pktTiles pOw) = some m :=
  ⟨onQ0 mObj pOw, acc (by decide +kernel), by decide +kernel, by decide +kernel, by decide +kernel, by decide +kernel, by decide +kernel, some_of (by decide +kernel)⟩
theorem test_objWrite_history : ∃ s : State, s.accepts 0x13 0 pOw2 ∧ s.m.run? (pktJob pOw2) = none ∧ s.m.partBad pOw2 = none ∧
    s.m.isImage (pkt pOw2 16 4) = false ∧ pkt pOw2 20 1 = 2 ∧ historyOk (Memory.readN s.mem (pkt pOw2 32 8) 72) = true :=
  ⟨onQ0 mObj pOw2, acc (by decide +kernel), by decide +kernel, by decide +kernel, by decide +kernel, by decide +kernel, by decide +kernel⟩
def pOr := cp 0x14 1 [(16, 4, 65537), (32, 8, 1048576), (40, 4, 1048576)]
def pOr1 := cp 0x14 1 [(16, 4, 65537), (20, 1, 1), (32, 8, 1048576), (40, 4, 4)]
theorem test_objRead : ∃ s : State, s.accepts 0x14 0 pOr ∧ s.m.partBad pOr = none ∧ s.m.obj? (pkt pOr 16 4) = some (obj1 3) ∧
    (obj1 3).image = false ∧ pkt pOr 20 1 = 0 ∧ (∀ g, (obj1 3).poisonHere g = []) ∧
    ∃ m, s.m.hostPins (pkt pOr 16 4) false (pktTiles pOr) = some m :=
  ⟨onQ0 mObj pOr, acc (by decide +kernel), by decide +kernel, by decide +kernel, rfl, by decide +kernel, fun _ => rfl, some_of (by decide +kernel)⟩
theorem test_objRead_scales : ∃ s : State, s.accepts 0x14 0 pOr1 ∧ s.m.partBad pOr1 = none ∧ s.m.obj? (pkt pOr1 16 4) = some (obj1 3) ∧
    pkt pOr1 20 1 = 1 := ⟨onQ0 mObj pOr1, acc (by decide +kernel), by decide +kernel, by decide +kernel, by decide +kernel⟩
def run1 : Run := { queue := 1, cmdId := 9, mask := 1, tasks := [0], variantOf := [], step := 0 }
def jobRun : Job := { job1 with run := some run1 }
def mem0 (l : List Nat) : List Host.Cell := Memory.writeMany [] 65536 (l.map (BitVec.ofNat 8))

def pTl := cp 0x20 1 [(16, 8, 65536), (24, 4, 64), (28, 1, 1)]
def sTl : State := { onQ0 (withJob job1) pTl with mem := mem0 [0x54, 0x4C, 0x58, 0x54, 1] }
theorem test_taskLoad : sTl.accepts 0x20 0 pTl ∧ sTl.m.job? (pktJob pTl) = some job1 ∧ job1.run = none ∧ job1.tasks.length < 16 ∧
    ∃ m, sTl.m.loadTask (fun off n => Memory.readN sTl.mem (pkt pTl 16 8 + off) n) (pkt pTl 24 4) (pktJob pTl) job1.tasks.length
      (bit (pkt pTl 28 1) 0) = .ok m :=
  ⟨acc (by decide +kernel), by decide +kernel, rfl, by decide +kernel, ok_of (by decide +kernel)⟩

def pLs := cp 0x28 1 [(16, 2, 16383), (24, 8, 2 ^ 18), (32, 8, 65536)]
def sLs : State := { onQ0 (withJob job1) pLs with mem := mem0 (List.replicate 49 0 ++ [3]) }
theorem test_layerSet : ∃ w, w = Memory.readN sLs.mem (pkt pLs 32 8) 128 ∧ sLs.accepts 0x28 0 pLs ∧ recordRsv w = none ∧
    ∃ m, sLs.m.layerChange (pktJob pLs) (pkt pLs 16 2) (pkt pLs 24 8) w (sLs.m.run? (pktJob pLs)).isNone = .ok m :=
  ⟨3 * 2 ^ 392, by decide +kernel, acc (by decide +kernel), by decide +kernel, ok_of (by decide +kernel)⟩

def pSs := cp 0x29 1 [(16, 1, 63), (24, 8, 65536)]
/-- One segment: HOLD of length 1 at 1.0. -/
def sSs : State := { onQ0 (withJob jobRun) pSs with mem := mem0 ([0, 0, 0, 0, 1] ++ List.replicate 15 0 ++ [1, 0, 0, 0, 0, 0, 0x80, 0x3F]) }
theorem test_schedSet : ∃ old, old = Tab.get ({} : Sched) sSs.m.upd.scheds (pkt pSs 16 1) ∧ sSs.accepts 0x29 0 pSs ∧
    schedOk (Memory.readN sSs.mem (pkt pSs 24 8) 176) = true ∧ old.job = 0 ∧ old.pend = none ∧ (sSs.m.run? (pktJob pSs)).isSome = true :=
  ⟨{}, by decide +kernel, acc (by decide +kernel), by decide +kernel, rfl, rfl, by decide +kernel⟩

def task1 : Task := { earlyAbort := false, lists := [], recipes := [] }
def jobT : Job := { job1 with tasks := [(0, task1)] }
def pSr := cp 0x21 1 [(16, 2, 1), (24, 8, 0)]
theorem test_stepRun : ∃ s : State, s.accepts 0x21 0 pSr ∧ s.m.job? (pktJob pSr) = some jobT ∧ jobT.run = none ∧
    pkt pSr 24 8 = jobT.step ∧ ∀ t ∈ maskList 16 (pkt pSr 16 2), (Tab.find jobT.tasks t).isSome = true :=
  ⟨onQ0 (withJob jobT) pSr, acc (by decide +kernel), by decide +kernel, rfl, by decide +kernel, by decide +kernel⟩
def pSa := cp 0x22 1 []
theorem test_stepAbort : (onQ0 (withJob jobRun) pSa).accepts 0x22 0 pSa ∧ (onQ0 (withJob jobRun) pSa).m.run? (pktJob pSa) = some run1 ∧
    run1.verdict = none := ⟨acc (by decide +kernel), by decide +kernel, by decide +kernel⟩
theorem test_stepAbort_noStep : (onQ0 (withJob job1) pSa).accepts 0x22 0 pSa ∧ (onQ0 (withJob job1) pSa).m.run? (pktJob pSa) = none :=
  ⟨acc (by decide +kernel), by decide +kernel⟩

def pCw := cp 0x30 1 [(16, 8, 65536), (24, 4, 1)]
def sCw : State := { onQ0 mObj pCw with mem := mem0 [1, 0, 1, 0] }
theorem test_ckptWrite : sCw.m.job? (pktJob pCw) = some job1 ∧ sCw.accepts 0x30 0 pCw ∧ job1.ckpt = none ∧ sCw.m.attic.readOnly = false ∧
    ∃ hs, hs = (List.range (pkt pCw 24 4)).map (fun i => Memory.readN sCw.mem (pkt pCw 16 8 + 4 * i) 4) ∧ sCw.m.badHandle (pktJob pCw) hs = none :=
  ⟨by decide +kernel, acc (by decide +kernel), rfl, rfl, [65537], by decide +kernel, by decide +kernel⟩
def pCr := cp 0x31 1 [(16, 4, 65537), (24, 8, 65536)]
/-- A durable image of job 1 that holds one object. -/
def imgObj : Obj := { job := 1, fmt := 8, rows := 1024, cols := 1024, image := true }
def img1 : Image := { obj := 65537, job := 1, step := 4, objs := [(131073, obj1 3)], layers := [], scheds := [], durable := true }
def sCr : State := onQ0 { withObj (withJob job1) imgObj with images := [img1] } pCr
theorem test_ckptRestore : sCr.m.job? (pktJob pCr) = some job1 ∧ sCr.accepts 0x31 0 pCr ∧ job1.run = none ∧
    sCr.m.obj? (pkt pCr 16 4) = some imgObj ∧
    (sCr.m.images.find? fun x => x.obj = pkt pCr 16 4 && x.durable && (x.job = 0 || x.job = pktJob pCr)) = some img1 ∧
    (∃ x, sCr.m.restoreImage (pktJob pCr) img1 = .ok x) ∧ bit (pkt pCr 20 1) 0 = false :=
  ⟨by decide +kernel, acc (by decide +kernel), rfl, by decide +kernel, by decide +kernel, by
    obtain ⟨y, e⟩ := create_ok (m := sCr.m) (o := { obj1 3 with job := pktJob pCr, restored := true }) 2 (by decide +kernel) rfl (by decide +kernel)
      (by decide +kernel) rfl _ rfl (by decide +kernel)
    have e1 : imageTiles img1.objs = [(0, 131073, obj1 3)] := by decide +kernel
    simp only [Mod.restoreImage, e1, Mod.restoreObjs]
    rw [show ({ obj1 3 with job := pktJob pCr, pending := 0, stepScale := none, written := false, fixedTiles := [], fallback := false, restored := true, poison := [] } : Obj) =
      { obj1 3 with job := pktJob pCr, restored := true } from rfl, e]
    exact ⟨_, rfl⟩, by decide +kernel⟩
def pSe := cp 0x32 1 [(18, 2, 3), (20, 1, 1), (21, 1, 7), (22, 1, 47), (32, 8, 16), (44, 2, 2)]
theorem test_snapshotExport : ∃ s : State, s.m.job? (pktJob pSe) = some job1 ∧ s.accepts 0x32 0 pSe ∧ job1.snap = none ∧ pkt pSe 20 1 = 1 ∧
    4 * (pkt pSe 18 2 + 1 - pkt pSe 16 2) ≤ pkt pSe 32 8 :=
  ⟨onQ0 (withJob job1) pSe, by decide +kernel, acc (by decide +kernel), rfl, by decide +kernel, by decide +kernel⟩

/-! ### Queues, PCI Express, registers -/

def mQ (f : Qp → Qp) : Mod := rdy.onQ 63 f
theorem test_sqTailDoorbell : ∃ s : State, s.m.reachable = true ∧ (s.m.q! 63).en = true ∧ (s.m.q! 63).halted = false ∧
    (15 : W32).toNat % 4096 ≤ (s.m.q! 63).size ∧ ((s.m.q! 63).sqTail + ((s.m.q! 63).size + 1) - (s.m.q! 63).sqHead) % ((s.m.q! 63).size + 1) <
      ((15 : W32).toNat % 4096 + ((s.m.q! 63).size + 1) - (s.m.q! 63).sqHead) % ((s.m.q! 63).size + 1) :=
  ⟨{ m := mQ fun x => { x with en := true, size := 15 } }, by decide +kernel⟩
theorem test_cqHeadDoorbell : ∃ s : State, s.m.reachable = true ∧ (s.m.q! 63).en = true ∧ (15 : W32).toNat % 4096 ≤ (s.m.q! 63).size :=
  ⟨{ m := mQ fun x => { x with en := true, size := 15 } }, by decide +kernel⟩
theorem test_queueEnable : ∃ s : State, s.m.reachable = true ∧ bit (0x80000001 : W32).toNat 31 = true ∧ (s.m.q! s.m.hif.qsel).en = false ∧
    (s.m.q! s.m.hif.qsel).cmd = none ∧ (s.m.q! s.m.hif.qsel).sqBase % 4096 = 0 ∧ (s.m.q! s.m.hif.qsel).cqBase % 4096 = 0 ∧
    1 ≤ fld (0x80000001 : W32).toNat 0 12 := ⟨{ m := rdy }, by decide +kernel⟩
theorem test_queueDisable : ∃ s : State, s.m.reachable = true ∧ bit (0 : W32).toNat 31 = false ∧ (s.m.q! s.m.hif.qsel).en = true :=
  ⟨{ m := rdy.onQ 0 fun x => { x with en := true } }, by decide +kernel⟩
def ringQ (f : Qp → Qp) : State := { m := mQ fun x => f { x with en := true, size := 15 } }
theorem test_doorbell_outside : (ringQ id).m.reachable = true ∧ ((ringQ id).m.q! 63).en = true ∧ ((ringQ id).m.q! 63).halted = false ∧
    ((ringQ id).m.q! 63).size < (16 : W32).toNat % 4096 := by decide +kernel
/-- A tail that moves back from 5 to 4. -/
theorem test_doorbell_back : ∀ x, x = (ringQ fun x => { x with sqTail := 5 }).m.q! 63 → x.en = true ∧ x.halted = false ∧
    (4 : W32).toNat % 4096 ≤ x.size ∧ (4 : W32).toNat % 4096 ≠ x.sqTail ∧
    ((4 : W32).toNat % 4096 + (x.size + 1) - x.sqHead) % (x.size + 1) ≤ (x.sqTail + (x.size + 1) - x.sqHead) % (x.size + 1) := by
  rintro x rfl; decide +kernel
theorem test_doorbell_disabled : rdy.reachable = true ∧ (rdy.q! 63).en = false := by decide +kernel
theorem test_queueEnable_cfgErr : bit (0x80000000 : W32).toNat 31 = true ∧ (rdy.q! rdy.hif.qsel).en = false ∧ (rdy.q! rdy.hif.qsel).cmd = none ∧
    fld (0x80000000 : W32).toNat 0 12 = 0 := by decide +kernel
theorem test_queueEnable_again : ∃ s : State, s.m.reachable = true ∧ bit (0x80000001 : W32).toNat 31 = true ∧ (s.m.q! s.m.hif.qsel).en = true :=
  ⟨{ m := rdy.onQ 0 fun x => { x with en := true } }, by decide +kernel⟩
theorem test_queueDisable_stopped : rdy.reachable = true ∧ bit (7 : W32).toNat 31 = false ∧ (rdy.q! rdy.hif.qsel).en = false ∧
    (rdy.q! rdy.hif.qsel).cmd = none := by decide +kernel
/-- Queue 0 holds one entry, of opcode 0x60, at its head. -/
def sFetch : State := { m := rdy.onQ 0 (fun x => { x with en := true, size := 15, sqBase := 65536, sqTail := 1, cqBase := 8192 }), mem := mem0 [0x60] }
theorem test_commandStart : sFetch.m.fetching = true ∧ sFetch.m.nextQueue sFetch.mem = some 0 ∧
    hostOps.contains (pktOp (sFetch.m.nextPkt sFetch.mem 0)) = true := by decide +kernel
theorem test_hostDmaError_fetch : sFetch.m.reachable = true ∧ sFetch.m.fetching = true ∧ sFetch.m.nextQueue sFetch.mem = some (0 : Queue).val := by
  decide +kernel
theorem test_hostDmaError_command : ∃ (s : State) (c : Cmd), s.m.reachable = true ∧ (s.m.q! 0).cmd = some c ∧ c.acting = false ∧
    s.m.readsHost c.pkt = true :=
  ⟨onQ0 rdy pTs, { pkt := pTs, order := 1 }, by decide +kernel⟩
theorem test_interruptCoalesceTimeout : ∃ s : State, s.m.reachable = true ∧ (s.m.q! 63).unsig ≠ 0 ∧
    (s.m.q! 63).unsigFrom + 1000 * (s.m.q! 63).coalTime ≤ s.m.now := ⟨{ m := mQ fun x => { x with unsig := 1 } }, by decide +kernel⟩
theorem test_pcieDegraded : (Instr.pcieDegraded 4 1280).wellFormed = true ∧ rdy.reachable = true := by decide +kernel

theorem test_debugAperture_unlocked : ∃ s : State, s.m.reachable = true ∧ s.m.dbgOpen = true :=
  ⟨{ m := { rdy with sec := { ({} : Sec) with dbgEnd := 1 } } }, by decide +kernel⟩
theorem test_debugAperture_locked : ∃ s : State, s.m.reachable = true ∧ s.m.dbgOpen = false ∧ s.m.pwr.cnt.freeze = true :=
  ⟨{ m := { rdy with pwr := { ({} : Pwr) with cnt := { ({} : Cnt) with freeze := true } } } }, by decide +kernel⟩

theorem test_histogramSnapshotSelect : rdy.reachable = true ∧ fld (0x123FFF : W32).toNat 16 2 ≠ 3 := by decide +kernel
theorem test_histogramSnapshotDone : ∃ s : State, s.m.reachable = true ∧ s.m.num.busy = true :=
  ⟨{ m := { rdy with num := { ({} : Sys2Proof.Machine.Num) with busy := true } } }, by decide +kernel⟩
theorem test_celGangWrite : rdy.reachable = true ∧ rdy.jobs = [] ∧ (withJob job1).jobs ≠ [] := by decide +kernel
theorem test_celRegWrite : rdy.reachable = true ∧ rdy.cel.bcast = false := by decide +kernel
theorem test_regulatorChangeEffect : ∃ s : State, s.m.reachable = true ∧ Tab.find (s.m.stack! 31).pendReg 4 = some (256, 16) :=
  ⟨{ m := rdy.onStack 31 fun x => { x with pendReg := [(4, 256, 16)] } }, by decide +kernel⟩
theorem test_panFloorWrite : rdy.reachable = true ∧ (rdy.core! 3).fenced = false ∧
    fld (0x01010120 : W32).toNat 0 6 + fld (0x01010120 : W32).toNat 8 6 + fld (0x01010120 : W32).toNat 16 6 + fld (0x01010120 : W32).toNat 24 6 > 32 ∧
    fld (0x00000020 : W32).toNat 0 6 + fld (0x00000020 : W32).toNat 8 6 + fld (0x00000020 : W32).toNat 16 6 + fld (0x00000020 : W32).toNat 24 6 ≤ 32 := by
  decide +kernel
theorem test_debugLockWrite : ∃ s : State, s.m.reachable = true ∧ bit (1 : W32).toNat 0 = true ∧ s.m.dbgOpen = true :=
  ⟨{ m := { rdy with sec := { ({} : Sec) with dbgEnd := 1 } } }, by decide +kernel⟩
theorem test_metEnergyRead : ∃ s : State, s.m.reachable = true ∧ s.m.met.held = some frame1 :=
  ⟨{ m := { rdy with met := { ({} : Met) with held := some frame1 } } }, by decide +kernel⟩
def sRdy : State := { m := rdy }
theorem test_registerWrite_stop : sRdy.accessOk false 2 false = false ∧ sRdy.accessOk false (0x40000 : W32).toNat false = true := by decide +kernel
theorem test_registerWrite : sRdy.m.reachable = true ∧ sRdy.accessOk true (0xFFC : W32).toNat false = true ∧
    sRdy.accessOk false (0 : W32).toNat false = true ∧ (0 : W32).toNat ≠ 0x40000 := by decide +kernel
/-! ### Descriptors -/

def desc (op : Nat) (fs : List (Nat × Nat × Nat)) : Nat := pack ([(0, 1, op), (2, 2, 1), (12, 4, 5)] ++ fs)
/-- A list of job 1 at a descriptor, in slot 15 of core 3. -/
def slot1 (ph d : Nat) : SlotSt := { l := { job := 1, task := 0, phase := ph, prio := 0, order := 0, op := 5, descs := [d] }, rest := [d] }
def atHead (m : Mod) (ph d : Nat) : State := { m := m.onCore 3 fun x => { x with slots := [(15, slot1 ph d)] } }
/-- Objects with handles 65537, 65538, …, each of one tile in stack 0. -/
def withObjs (m : Mod) (os : List Obj) : Mod := { m with res := { m.res with
  objs := os.zipIdx.map fun x => (65537 + x.2, x.1)
  ext := os.zipIdx.map fun x => { obj := 65537 + x.2, tile := 0, n := 1, home := 64, frame := x.2 } } }
def mRun : Mod := withJob jobRun
def o3 (r c : Nat) : Obj := { job := 1, fmt := 3, rows := r, cols := c }
def o0 (r c : Nat) : Obj := { job := 1, fmt := 0, rows := r, cols := c }

/-- The head issues. -/
def issuesB (s : State) (c k op : Nat) (sl : SlotSt) (d : Nat) : Bool :=
  decide (Tab.find (s.m.core! c).slots k = some sl) && sl.rest.head? = some d && dOp d = op && s.m.headOpen c k sl d && waited sl d &&
  decide (descCauses s.m c sl d = []) && !(decide (dOp d = opUpdLayer) && s.m.snapUnread sl.l.job (updLayerNo d)) && s.m.winner c = some k &&
  !(s.m.quenched sl.l.job && quenchable d) && (s.m.takePins c sl.l.job (descPins s.m c sl.l.task sl.l.job d)).isSome
theorem iss {s : State} {c k op : Nat} {sl : SlotSt} {d : Nat} (h : issuesB s c k op sl d = true) : ∃ m, s.issues c k op sl d m := by
  simp only [issuesB, Bool.and_eq_true, decide_eq_true_eq, Bool.not_eq_true', Option.isSome_iff_exists] at h
  obtain ⟨⟨⟨⟨⟨⟨⟨⟨⟨h1, h2⟩, h3⟩, h4⟩, h5⟩, h6⟩, h7⟩, h8⟩, h9⟩, m, h10⟩ := h
  exact ⟨m, h1, h2, h3, h4, h5, h6, h7, h8, h9, h10⟩

def dPass := desc 0x10 [(16, 1, 17), (17, 1, 0x33), (20, 2, 1), (24, 4, 65537), (36, 4, 65538)]
def mPass : Mod := (withObjs mRun [o3 1 1, o3 1 1]).onArr 3 1 fun x =>
  { x with curSet := some 0, nextSet := 1, tagged := [{ job := 1, fmt := 3, rows := 1, cols := 1 }, {}] }
theorem test_arrPass : ∃ m, (atHead mPass 0 dPass).issues 3 15 opArrPass (slot1 0 dPass) dPass m := iss (by decide +kernel)
def dLoad := desc 0x11 [(16, 1, 2), (17, 1, 3), (18, 2, 1), (20, 2, 1), (24, 4, 65537)]
theorem test_arrLoad : ∃ m, (atHead mPass 0 dLoad).issues 3 15 opArrLoad (slot1 0 dLoad) dLoad m := iss (by decide +kernel)
/-- A recipe of one step that copies input 0. -/
def rcp : Nat := pack [(0, 1, 1), (1, 1, 1), (32, 4, 4 * 256)]
def mVec (o : Obj) : Mod := (withObjs mRun [o3 3 32, o]).onCore 3 fun x => { x with recipes := [{ job := 1, task := 0, idx := 0, w := rcp }] }
def dVs := desc 0x20 [(24, 4, 3), (28, 4, 65537), (44, 4, 65538)]
def dVr := desc 0x21 [(24, 4, 3), (28, 4, 65537), (44, 4, 65538)]
theorem test_vecStream : ∃ m, (atHead (mVec (o3 3 32)) 0 dVs).issues 3 15 opVecStream (slot1 0 dVs) dVs m := iss (by decide +kernel)
theorem test_vecReduce : ∃ m, (atHead (mVec (o3 3 1)) 0 dVr).issues 3 15 opVecReduce (slot1 0 dVr) dVr m := iss (by decide +kernel)
def dMv := desc 0x30 [(16, 4, 65537), (28, 1, 65)]
def dPf := desc 0x31 [(16, 4, 65537), (28, 1, 3)]
/-- Its tiles stand in the core's Pantry. -/
def sVec : State := let m := mVec (o3 3 32); atHead { m with res := { m.res with ext := m.res.ext.map fun e => { e with home := 3 } } } 0 dVs
/-- A vector head that its engine works on at once. -/
theorem test_vecWorks : ∃ m f, sVec.issues 3 15 opVecStream (slot1 0 dVs) dVs m ∧
    (sVec.taken 3 15 (slot1 0 dVs) dVs m).infl? 3 sVec.m.ids = some f ∧ f.d = dVs ∧
    (sVec.taken 3 15 (slot1 0 dVs) dVs m).mayWork 3 f = true := by
  obtain ⟨m, h⟩ : ∃ m, sVec.issues 3 15 opVecStream (slot1 0 dVs) dVs m := iss (by decide +kernel)
  have e : (sVec.m.takePins 3 (slot1 0 dVs).l.job (descPins sVec.m 3
    (slot1 0 dVs).l.task (slot1 0 dVs).l.job dVs)).any (fun m => decide (∃ f ∈ (sVec.taken 3 15 (slot1 0 dVs) dVs m).infl? 3
      sVec.m.ids, f.d = dVs ∧ (sVec.taken 3 15 (slot1 0 dVs) dVs m).mayWork 3 f = true)) = true := by
    decide +kernel
  rw [h.2.2.2.2.2.2.2.2.2] at e
  obtain ⟨f, h1, h2, h3⟩ := of_decide_eq_true e
  exact ⟨m, f, h, h1, h2, h3⟩
theorem test_move : ∃ m, (atHead mPass 0 dMv).issues 3 15 opMove (slot1 0 dMv) dMv m := iss (by decide +kernel)
theorem test_prefetch : ∃ m, (atHead mPass 0 dPf).issues 3 15 opPrefetch (slot1 0 dPf) dPf m := iss (by decide +kernel)
def mSyn : Mod := (mRun.onCore 3 fun x => { x with sync := [(47, { job := 1 })], bars := [(7, { job := 1, parties := 2 })] }).onCore 2
  fun x => { x with sync := [(0, { job := 1 })] }
def dSw := desc 0x40 [(16, 1, 47), (20, 4, 65535), (24, 8, 1)]
def dSg := desc 0x41 [(17, 1, 2), (20, 4, 65535)]
def dBa := desc 0x42 [(16, 1, 7)]
theorem test_syncWait : ∃ m, (atHead mSyn 0 dSw).issues 3 15 opSyncWait (slot1 0 dSw) dSw m := iss (by decide +kernel)
theorem test_syncSignal : ∃ m, (atHead mSyn 0 dSg).issues 3 15 opSyncSignal (slot1 0 dSg) dSg m := iss (by decide +kernel)
theorem test_barrier : ∃ m, (atHead mSyn 0 dBa).issues 3 15 opBarrier (slot1 0 dBa) dBa m := iss (by decide +kernel)
def mCol : Mod := { withObjs mRun [o0 3 32, o0 3 32] with col := { ({} : Coll) with groups := [(1024, { job := 1, g := 0, f := 1, members := [0] })] } }
def dCo := desc 0x50 [(16, 1, 2), (17, 1, 1), (18, 2, 9), (24, 4, 65537), (28, 4, 65538), (48, 8, 96)]
theorem test_coll : ∃ m, (atHead mCol 0 dCo).issues 3 15 opColl (slot1 0 dCo) dCo m := iss (by decide +kernel)
def bound (cfg : LayerCfg) (m : Mod) : Mod := { m with upd := { m.upd with layers := [(16383, { job := 1, cfg := cfg })] } }
def mUpd : Mod := bound { objs := [65537, 65538, 65539, 0, 0, 0, 0, 0, 0, 0, 0, 0], rule := 0, masterFmt := 0 } (withObjs mRun [o0 3 32, o0 3 32, o0 3 32])
def dUp := desc 0x60 [(16, 2, 16383)]
theorem test_updLayer : ∃ m, (atHead mUpd 4 dUp).issues 3 15 opUpdLayer (slot1 4 dUp) dUp m := iss (by decide +kernel)
def mRef : Mod := bound { objs := [65537, 65538, 65539, 65540, 0, 65541, 65542, 65543, 65544, 65545, 0, 0], rule := 2, masterFmt := 0 }
  (withObjs mRun (List.replicate 9 (o0 256 256)))
def dRf := desc 0x61 [(16, 2, 16383), (18, 1, 5)]
theorem test_rootRefresh : ∃ m, (atHead mRef 4 dRf).issues 3 15 opRootRefresh (slot1 4 dRf) dRf m := iss (by decide +kernel)
def dHm := desc 0x70 [(16, 2, 16383), (18, 2, 16383), (20, 1, 4), (21, 1, 1)]
theorem test_histMark : ∃ m, (atHead mUpd 0 dHm).issues 3 15 opHistMark (slot1 0 dHm) dHm m := iss (by decide +kernel)
def dEn := desc 0xFF []
theorem test_endList : ∃ m, (atHead mRun 0 dEn).issues 3 15 opEnd (slot1 0 dEn) dEn m := iss (by decide +kernel)
/-- A reserved opcode and a descriptor of another job: the lower cause decides. -/
def dBad : Nat := pack [(0, 1, 0x12), (2, 2, 2)]
theorem test_listFault : (atHead mRun 0 dBad).faultsAt 3 15 opArrPass (slot1 0 dBad) dBad 1 :=
  ⟨by decide +kernel, by decide +kernel, by decide +kernel, by decide +kernel, Or.inl (by decide +kernel), by decide +kernel, by decide +kernel⟩
theorem test_fencedCore : issueOf (.arrPass 3 15) = some (3, 15, opArrPass) ∧ ((rdy.onCore 3 fun x => { x with fenced := true }).core! 3).fenced = true ∧
    ((rdy.onCore 3 fun x => { x with fencing := some (0, 0) }).core! 3).fencing ≠ none := by decide +kernel
/-! ### Phases, engines, waits -/

def withRun (r : Run) : Mod := withJob { jobT with run := some r }
def inPhase (n : Nat) (v : Option Bool) : Mod := withRun { run1 with dispatched := true, phase := n, verdict := v }
theorem test_phaseDispatch_next : ∃ s : State, s.m.job? (0x001 : JobId).toNat = some { jobT with run := some { run1 with dispatched := true, phase := 2 } } ∧
    s.m.serving = true ∧ s.m.phaseLeft 1 2 = false ∧ jobT.halted = false := ⟨{ m := inPhase 2 none }, by decide +kernel⟩
theorem test_phaseDispatch_begin : ∃ s : State, s.m.job? (0x001 : JobId).toNat = some { jobT with run := some run1 } ∧ s.m.serving = true ∧
    s.m.moduleWaits = false ∧ Job.captureWaits { jobT with run := some run1 } = false ∧
    (∃ vs, s.m.variants { jobT with run := some run1 } run1 run1.tasks [] = .ok vs) ∧
    (inPhase 3 (some true)).phaseLeft 1 3 = false ∧ (inPhase 3 (some true)).refreshLeft 1 = false :=
  ⟨{ m := withRun run1 }, by decide +kernel, by decide +kernel, by decide +kernel, by decide +kernel, ok_of (by decide +kernel), by decide +kernel,
    by decide +kernel⟩
/-- A later attempt of a step that replays from PH_UPD, its verdict standing. -/
def runSt : Run := { run1 with started := true, phase := 4, verdict := some true }
theorem test_phaseDispatch_again : ∃ s : State, s.m.job? (0x001 : JobId).toNat = some { jobT with run := some runSt } ∧ s.m.serving = true ∧
    runSt.dispatched = false ∧ runSt.halted = false ∧ runSt.verdict ≠ some false ∧
    ∃ vs, s.m.variants { jobT with run := some runSt } runSt runSt.tasks [] = .ok vs :=
  ⟨{ m := withRun runSt }, by decide +kernel, by decide +kernel, rfl, rfl, by decide +kernel, ok_of (by decide +kernel)⟩
def slot2 : SlotSt := { slot1 0 dPass with rest := [dPass, dLoad], waitDone := true }
theorem test_lookahead : ∃ s : State, Tab.find (s.m.core! 3).slots 15 = some slot2 ∧ slot2.blocked = none ∧ slot2.stopped = false ∧
    s.m.halted slot2.l.job = false ∧ (s.m.core! 3).fenced = false ∧ dNoLook dPass = false :=
  ⟨{ m := mPass.onCore 3 fun x => { x with slots := [(15, slot2)] } }, by decide +kernel⟩

def infl1 (id d : Nat) : Infl := { id := id, slot := 15, job := 1, d := d }
def flying (m : Mod) (f : Infl) : Mod := m.onCore 3 fun x => { x with slots := [(15, { slot1 0 f.d with rest := [], blocked := some f.id })], infl := [f] }
def dLoad1 := desc 0x11 [(16, 1, 1), (17, 1, 3), (18, 2, 1), (20, 2, 1), (24, 4, 65537)]
def mLoad : Mod := (flying mPass (infl1 8 dLoad1)).onArr 3 1 fun x => { x with loads := [8], tagged := [{ job := 1, load := 8 }, {}] }
theorem test_arrLoadBegin : (mLoad.arr! 3 1).loads.head? = some 8 ∧ mLoad.infl? 3 8 = some (infl1 8 dLoad1) ∧ loadArrays dLoad1 = [(1 : Arr).val] ∧
    mLoad.setFree 3 1 (infl1 8 dLoad1) = true ∧ mLoad.pathFree 3 1 (infl1 8 dLoad1) = true ∧ mLoad.arrayOpen 3 1 (infl1 8 dLoad1) = true ∧
    mLoad.firstTile (infl1 8 dLoad1) = true := by decide +kernel
def mBegin : Mod := (flying mPass (infl1 8 dPass)).onArr 3 1 fun x => { x with q := [8] }
theorem test_arrPassStage0 : (mBegin.arr! 3 1).q.head? = some 8 ∧ mBegin.infl? 3 8 = some (infl1 8 dPass) ∧
    mBegin.arrayOpen 3 1 (infl1 8 dPass) = true ∧ (passOp dPass).drain = false ∧ (infl1 8 dPass).load ∉ (mBegin.arr! 3 1).loads ∧
    mBegin.firstTile (infl1 8 dPass) = true ∧ mBegin.tokensOut 3 1 (infl1 8 dPass) = true ∧ (mBegin.arr! 3 1).runOut = none := by decide +kernel
def dDrain := desc 0x10 [(16, 1, 0x59), (20, 2, 1), (36, 4, 65538)]
def mDrainBegin : Mod := (flying mPass (infl1 8 dDrain)).onArr 3 1 fun x => { x with q := [8] }
theorem test_arrPassStage0_drain : (passOp dDrain).drain = true ∧ (mDrainBegin.arr! 3 1).q.head? = some 8 ∧
    mDrainBegin.infl? 3 8 = some (infl1 8 dDrain) ∧ mDrainBegin.arrayOpen 3 1 (infl1 8 dDrain) = true ∧
    mDrainBegin.tokensOut 3 1 (infl1 8 dDrain) = true := by decide +kernel
theorem test_engineStep : (flying mPass { infl1 8 dPass with began := true }).mayWork 3 { infl1 8 dPass with began := true } = true ∧
    (flying mPass { infl1 8 dLoad1 with began := true }).mayWork 3 { infl1 8 dLoad1 with began := true } = true := by decide +kernel
def mVsFly : Mod := flying (mVec (o3 3 32)) { infl1 8 dVs with worked := true }
theorem test_descriptorRetire : mVsFly.infl? 3 8 = some { infl1 8 dVs with worked := true } ∧ mVsFly.mayRetire 3 { infl1 8 dVs with worked := true } = true := by
  decide +kernel
def mRemote : Mod := mSyn.onCore 3 fun x => { x with remote := [(2, 0, false, 1, 8)] }
theorem test_remoteSignalAct : ((mRemote.core! 3).remote.find? fun r => r.1 = (2 : Core).val && r.2.1 = (0 : Fin 48).val) = some (2, 0, false, 1, 8) ∧
    ((mRemote.onCore 3 fun x => { x with remote := x.remote.erase (2, 0, false, 1, 8) }).core! 2).fenced = false := by decide +kernel

def dSwA := desc 0x40 [(16, 1, 47), (17, 1, 3), (20, 4, 65535), (24, 8, 1)]
def dSwB := desc 0x40 [(16, 1, 47), (17, 1, 1), (20, 4, 65535), (24, 8, 1)]
def late (m : Mod) (d : Nat) : Mod := flying m { infl1 8 d with deadline := some 0 }
theorem test_syncWaitTimeout : ∀ d ∈ [dSw, dSwA, dSwB], Tab.find ((late mSyn d).core! 3).slots 15 = some { slot1 0 d with rest := [], blocked := some 8 } ∧
    (late mSyn d).infl? 3 8 = some { infl1 8 d with deadline := some 0 } ∧ dOp d = opSyncWait ∧
    Infl.overdue { infl1 8 d with deadline := some 0 } (late mSyn d).now = true := by decide +kernel
theorem test_syncWaitTimeout_acts : (waitOp dSw).act = false ∧ (waitOp dSwA).act = true ∧ (waitOp dSwA).toEn = true ∧ (waitOp dSwB).act = true ∧
    (waitOp dSwB).toEn = false := by decide +kernel
def mRel : Mod := mRun.onCore 3 fun x => { x with bars := [(7, { job := 1, parties := 1, releasable := [([(3, 8)], {}, 0, 0, 1, 0)] })] }
theorem test_coreBarrierRelease : ∃ ps rest, (mRel.bar! 3 7).releasable = ps :: rest ∧ mRel.tooLate ps.1 = none :=
  ⟨([(3, 8)], {}, 0, 0, 1, 0), [], by decide +kernel⟩
theorem test_barrierTimeout : (late mSyn dBa).infl? 3 8 = some { infl1 8 dBa with deadline := some 0 } ∧ dOp dBa = opBarrier ∧
    Infl.overdue { infl1 8 dBa with deadline := some 0 } (late mSyn dBa).now = true := by decide +kernel
def ctx1 : Ctx := { job := 1, collId := 9, step := 0, attempt := 1, local_ := some 8, core := 3, d := dCo }
def mCtx : Mod := let m := late mCol dCo; { m with col := { m.col with ctx := [ctx1] } }
theorem test_collTimeout : mCtx.ctx? (ctxKey (1 : JobId).toNat (9 : BitVec 16).toNat) = some ctx1 ∧
    mCtx.infl? ctx1.core 8 = some { infl1 8 dCo with deadline := some 0 } ∧ Infl.overdue { infl1 8 dCo with deadline := some 0 } mCtx.now = true := by
  decide +kernel

/-! ### Faults, repair, units -/

theorem test_coreFaults : rdy.powered 3 = true := by decide +kernel
def mXp : Mod := (flying rdy (infl1 8 dPass)).onArr 3 1 fun x => { x with moveHalf := [8], statHalf := [8] }
theorem test_xposeParity : mXp.powered 3 = true ∧ mXp.infl? 3 8 = some (infl1 8 dPass) ∧ 8 ∈ (mXp.arr! 3 1).moveHalf ∧ 8 ∈ (mXp.arr! 3 1).statHalf := by
  decide +kernel
theorem test_vecLaneParity : mVsFly.powered 3 = true ∧
    mVsFly.vecRuns 3 = some { infl1 8 dVs with worked := true } := by decide +kernel
theorem test_vecRecipeParity : (mVec (o3 3 32)).powered 3 = true ∧
    (((mVec (o3 3 32)).core! 3).recipes.any fun x => x.job = (1 : JobId).toNat && x.idx = (0 : Byte).toNat) = true := by decide +kernel
def begun (n : Nat) : Infl := { infl1 8 dPass with began := true, replays := n }
def mBegun (n : Nat) (p : Option Nat) : Mod := (flying mPass (begun n)).onArr 3 1 fun x => { x with runOut := p }
/-- No run-out, one from the pass itself, one from a later pass; the last replay but one, and the last. -/
theorem test_residueMismatch : ∀ p ∈ [none, some 8, some 9], ∀ n ∈ [1, 2],
    (((mBegun n p).begunPasses 3 1).find? fun f => f.id = 8) = some (begun n) ∧ (mBegun n p).powered 3 = true ∧
    ((mBegun n p).arr! 3 1).runOut = p ∧ (begun n).replays = n ∧ ((mBegun n p).arr! 3 1).pend.length < 16 := by decide +kernel
theorem test_passReplay : ((mBegun 1 (some 8)).arr! 3 1).runOut = some 8 := by decide +kernel
def mUnit : Mod := rdy.onUnit 31 fun x => { x with q := [(8, 16383)], staged := [(0, [])] }
theorem test_updUnit : (mUnit.unit! 31).q = (8, 16383) :: [] ∧ (mUnit.unit! 31).staged ≠ [] ∧ rdy.alive = true := by decide +kernel
def mPend : Mod := rdy.onArr 3 1 fun x => { x with pend := [(31, 1039)] }
theorem test_localisationTest : mPend.powered 3 = true ∧ (mPend.arr! 3 1).pend ≠ [] ∧ (mPend.arr! 3 1).testing = false ∧ mPend.allAtBoundary = true ∧
    mPend.arraysIdle 3 = true := by decide +kernel
def mTest : Mod := rdy.onArr 3 1 fun x => { x with pend := [(31, 1039)], testing := true }
theorem test_localisationTestDone : (mTest.arr! 3 1).testing = true ∧ (mTest.arr! 3 1).pend = [(31, 1039)] := by decide +kernel

/-! ### Boundaries, checkpoints, replay -/

theorem test_stepEnd : ∃ s : State, s.m.run? (1 : JobId).toNat = some { run1 with halted := true, causes := [(0, stAborted, 0)] } ∧
    (s.m.stepOver 1 { run1 with halted := true, causes := [(0, stAborted, 0)] }).isSome = true :=
  ⟨{ m := withRun { run1 with halted := true, causes := [(0, stAborted, 0)] } }, by decide +kernel⟩
/-- An aborted step that waits at a SYNC_WAIT without a timeout. -/
def dSwE := desc 0x40 [(16, 1, 47), (24, 8, 1)]
def mEndless : Mod := flying (withRun { run1 with halted := true, causes := [(0, stAborted, 0)] }) (infl1 8 dSwE)
theorem test_stepEnd_waits : (∃ r, mEndless.run? (1 : JobId).toNat = some r ∧ ∃ c ∈ r.causes, c.2.1 = stAborted) ∧
    (∀ c ∈ cores, ∀ f ∈ (mEndless.core! c).inflOf (1 : JobId).toNat, f.endless = true) ∧
    (∃ r, (withRun { run1 with halted := true }).run? (1 : JobId).toNat = some r ∧ ∀ c ∈ r.causes, c.2.1 ≠ stAborted) :=
  ⟨⟨{ run1 with halted := true, causes := [(0, stAborted, 0)] }, by decide +kernel, by decide +kernel⟩, by decide +kernel,
    { run1 with halted := true }, by decide +kernel, by decide +kernel⟩
def mDf : Mod := { rdy with deferFence := [(3, 0, 7)] }
theorem test_deferredCoreFence : (mDf.deferFence.find? fun d => d.1 = (3 : Core).val) = some (3, 0, 7) ∧ (mDf.core! 3).fencing = none ∧
    (mDf.core! 3).fenced = false ∧ 1 < mDf.liveCores.length ∧ mDf.allAtBoundary = true := by decide +kernel
def mDu : Mod := { rdy.onCore 3 fun x => { x with fenced := true } with deferUnfence := [(3, 0, 7)] }
theorem test_deferredCoreUnfence : (mDu.deferUnfence.find? fun d => d.1 = (3 : Core).val) = some (3, 0, 7) ∧ mDu.allAtBoundary = true ∧
    (mDu.core! 3).fenced = true ∧ mDu.exhausted 3 = false := by decide +kernel
def ck1 : CkptOp := { queue := 1, cmdId := 9, handles := [65537], lo := 0, hi := 0, schedMask := 0 }
def jobCk (k : CkptOp) : Job := { job1 with ckpt := some k }
theorem test_ckptDurable : (withJob (jobCk { ck1 with image := some 65537 })).job? (1 : JobId).toNat = some (jobCk { ck1 with image := some 65537 }) ∧
    ∀ x ∈ (withJob (jobCk { ck1 with image := some 65537 })).images, x.obj = 65537 → x.record ≤ (withJob (jobCk { ck1 with image := some 65537 })).attic.onNand := by
  decide +kernel
def snap1 (c : Option Nat) : SnapExp :=
  { queue := 1, cmdId := 9, lo := 0, hi := 3, link := false, vc := 0, syncObj := 0, syncCore := 0, addr := 65536, len := 16, dstChip := 0, dstJob := 0, id := 5, captured := c }
def jobSn (c : Option Nat) : Job := { job1 with snap := some (snap1 c) }
theorem test_snapshotCapture : (withJob (jobSn none)).job? (1 : JobId).toNat = some (jobSn none) ∧ (withJob (jobSn none)).atBoundary 1 = true := by
  decide +kernel
theorem test_snapshotDone : (withJob (jobSn (some 0))).job? (1 : JobId).toNat = some (jobSn (some 0)) ∧ (snap1 (some 0)).unread = [] := by decide +kernel
def mCk : Mod := withObj (withJob (jobCk ck1)) (obj1 3)
def ckObj : Obj := { job := 1, fmt := 8, rows := 1024, cols := 1024, image := true, copies := imagePoison [(65537, obj1 3)] }
def ckAdd : Mod × Nat := (mCk.addObj ckObj).getD (rdy, 0)
theorem test_ckptCapture : mCk.job? (1 : JobId).toNat = some (jobCk ck1) ∧ ck1.image = none ∧ mCk.atBoundary 1 = true ∧ mCk.attic.readOnly = false ∧
    mCk.badHandle 1 ck1.handles = none ∧
    ∃ m h p, mCk.addObj { job := (1 : JobId).toNat, fmt := 8, rows := 1024 * 1, cols := 1024, image := true, copies := imagePoison [(65537, obj1 3)] } =
      some (m, h) ∧ m.placeImage h 1 = some p :=
  ⟨by decide +kernel, rfl, by decide +kernel, rfl, by decide +kernel, by
    obtain ⟨x, e⟩ := some_of (x := mCk.addObj ckObj) (by decide +kernel)
    have hx : ckAdd = x := by
      have : ckAdd = (some x).getD (rdy, 0) := congrArg (Option.getD · (rdy, 0)) e
      exact this
    obtain ⟨p, h⟩ := some_of (x := ckAdd.1.placeImage ckAdd.2 1) (by decide +kernel)
    rw [hx] at h
    exact ⟨x.1, x.2, p, e, h⟩⟩
theorem test_ckptCapture_size : (ck1.handles.filterMap fun h => (mCk.obj? h).map fun o => (h, o)) = [(65537, obj1 3)] ∧
    max 1 ([(65537, obj1 3)].foldl (fun a x => a + x.2.tiles) 0) = 1 := by decide +kernel
theorem test_fenceEvacuationDone : ((rdy.onCore 3 fun x => { x with fencing := some (1, 0) }).core! 3).fencing = some (1, 0) := by decide +kernel
def rep1 : ReplayReq := { point := 0, code := 0xD001 }
def runRp : Run := { run1 with replay := some rep1 }
theorem test_replayBegin : ∃ s : State, s.m.job? (1 : JobId).toNat = some { jobT with run := some runRp } ∧ rep1.attempt = 0 ∧ s.m.inflLive 1 = false ∧
    (∀ c ∈ cores, (s.m.core! c).fencing = none) ∧ ∃ vs, s.m.variants { jobT with run := some runRp } runRp runRp.tasks [] = .ok vs :=
  ⟨{ m := withRun runRp }, by decide +kernel, rfl, by decide +kernel, by decide +kernel, ok_of (by decide +kernel)⟩
theorem test_fatal : rdy.phase ≠ .off ∧ (0 : Die) ≠ 3 := by decide +kernel

/-! ### Residency, Cellar, Attic -/

def mv1 : Mv := { req := tileReq 65537 0 65 2 3 1, tile0 := 0, n := 1, home := 65, frame := 4, servesPin := false }
def mMv : Mod := { mObj with res := { mObj.res with moves := [mv1] } }
theorem test_moveCommit : (mMv.res.moves.find? fun v => handleIdx v.req.obj = (1 : BitVec 16).toNat &&
      decide (v.tile0 ≤ (0 : W32).toNat ∧ (0 : W32).toNat < v.tile0 + v.n)) = some mv1 ∧ ((mMv.extsOf 65537 0).head?.map (·.home)) = some 64 ∧
    mMv.isImage 65537 = false ∧ mv1.home ≠ homeAttic ∧ (64 : Nat) ≠ homeAttic := by decide +kernel
def ext1 : Ext := { obj := 65537, tile := 0, n := 1, home := 64, frame := 0 }
theorem test_sourceFrameRelease : ∃ s : State, (s.m.res.releasing.find? fun e => handleIdx e.obj = (1 : BitVec 16).toNat &&
    decide (e.tile ≤ (0 : W32).toNat ∧ (0 : W32).toNat < e.tile + e.n)) = some ext1 :=
  ⟨{ m := { mObj with res := { mObj.res with releasing := [ext1] } } }, by decide +kernel⟩
theorem test_autoPolicyMove : mObj.obj? (mObj.handle (1 : BitVec 16).toNat) = some (obj1 3) ∧ (obj1 3).borrowed = none ∧ mObj.directed 1 = false ∧
    (0 : W32).toNat < (obj1 3).tiles ∧ mObj.homeOk (95 : Byte).toNat = true := by decide +kernel
def rq1 : Req := { tileReq 65537 0 3 1 3 1 with since := 0 }
def mWait : Mod := { mObj with tb := { ({} : TimeB) with nanoTicks := 100000001 * 1000000000 }, res := { mObj.res with waiting := [rq1] } }
theorem test_tileFaultTimeout : (mWait.res.waiting.find? fun r => r.kind = 1 && handleIdx r.obj = (1 : BitVec 16).toNat && r.tile = (0 : W32).toNat &&
    decide (r.since + 100000000 < mWait.now)) = some rq1 := by decide +kernel
theorem test_stackTempRead : rdy.alive = true ∧ (rdy.stack! 31).hot = false ∧ (85 : Int) ≤ 85 ∧ (rdy.stack! 31).refresh = 0 := by decide +kernel
def mAct : Mod := rdy.onStack 31 fun x => { x with active := 32 }
theorem test_cellarUncorrectable : mAct.alive = true ∧ 32 * 1610612736 - 1 < (mAct.stack! 31).active * 1610612736 := by decide +kernel
theorem test_rowRepaired : rdy.alive = true ∧ (Tab.get ({} : PcSt) (rdy.stack! 31).pc 31).mapped = false := by decide +kernel
def mDrain : Mod := (rdy.onStack 31 fun x => { x with draining := true }).onStack 24 fun x => { x with active := 32 }
theorem test_stackRehash : (mDrain.stack! 31).draining = true ∧ (mDrain.stack! 31).rehash = false ∧ mDrain.allAtBoundary = true ∧
    (∀ e ∈ mDrain.res.ext ++ mDrain.res.releasing, e.home ≠ homeStack 31) ∧ (∀ v ∈ mDrain.res.moves, v.home ≠ homeStack 31) ∧
    ((mDrain.copyReserved 31).stack! 31).reservedIn.isSome = true := by decide +kernel
theorem test_rehashDone : ((rdy.onStack 31 fun x => { x with rehash := true }).stack! 31).rehash = true := by decide +kernel
def mPoison : Mod := flying (withObj mRun { obj1 3 with poison := [16383] }) { infl1 8 dVs with pins := [(65537, 0, 64)] }
theorem test_poisonConsumed : (cores.findSome? fun c => mPoison.infl? c 8) = some { infl1 8 dVs with pins := [(65537, 0, 64)] } ∧
    (([(65537, 0, 64)] : List (Nat × Nat × Nat)).find? fun p => p.1 = mPoison.handle (1 : BitVec 16).toNat && p.2.1 = (0 : W32).toNat) = some (65537, 0, 64) ∧
    mPoison.objAny (mPoison.handle (1 : BitVec 16).toNat) = some { obj1 3 with poison := [16383] } ∧
    Obj.poisonedIn { obj1 3 with poison := [16383] } ext1.home (0 : W32).toNat (16383 : Fin 16384) = true ∧
    ((mPoison.extsOf (mPoison.handle (1 : BitVec 16).toNat) (0 : W32).toNat).find? fun e => meets e.home 64) = some ext1 ∧ ext1.home = homeStack 0 := by decide +kernel
def attW : Attic := { blocks := [(0, { use := some 3, reads := 50000 }), (16, { erases := 501 })], log := [(3, [0])] }
theorem test_atcWearMove : rdy.alive = true ∧ attW.accepting = true ∧ (attW.blk (0 : W32).toNat).use = some 3 ∧
    (attW.blk (0 : W32).toNat).erases = attW.wearRange.1 ∧ (attW.blk (0 : W32).toNat).erases + 500 < attW.wearRange.2 ∧
    (attW.blk (16 : W32).toNat).isFree = true ∧ (attW.blk (0 : W32).toNat).erases < (attW.blk (16 : W32).toNat).erases ∧
    (16 : W32).toNat % 16 = (0 : W32).toNat % 16 ∧ (16 : W32).toNat < 16 * chanBlocks := by decide +kernel
theorem test_atticGarbageCollect : Attic.sparse { attW with head := 1000 } 0 = some 3 ∧ 50000 ≤ (attW.blk ((0 : Fin 16).val + 16 * (0 : W32).toNat)).reads := by
  decide +kernel
def mAtt : Mod := { withObj rdy { obj1 3 with image := true } with res := { (withObj rdy (obj1 3)).res with ext := [{ ext1 with home := homeAttic }] } }
theorem test_atcPageUncorrectable : mAtt.alive = true ∧ mAtt.objAny (mAtt.handle (1 : BitVec 16).toNat) = some (obj1 3) ∧
    mAtt.at? (mAtt.handle (1 : BitVec 16).toNat) (0 : W32).toNat homeAttic = true := by decide +kernel
theorem test_atcBlockRetired : rdy.alive = true ∧ (Tab.get ({} : EBlock) rdy.attic.blocks ((15 : Fin 16).val + 16 * (0 : W32).toNat)).retired = false := by
  decide +kernel
theorem test_journalFlush : ∃ s : State, s.m.alive = true ∧ s.m.attic.accepting = true ∧ 0 < s.m.attic.buf :=
  ⟨{ m := { rdy with attic := { ({} : Attic) with buf := 1 } } }, by decide +kernel⟩
/-! ### Ports, hellos, the time base, packets -/

def upPort : PortSt := { link := .up, used := [0, 1, 2, 3], mapped := true, expChip := 9, expPort := 1, verify := .verified }
def withPort (x : PortSt) : Mod := { rdy with lnk := { ({} : Lnk) with ports := [(63, x)] } }
theorem test_laneFail : ((withPort upPort).port! 63).link = .up ∧ bit ((withPort upPort).port! 63).failed (3 : Fin 4) = false := by decide +kernel
theorem test_laneFail_training : ((withPort { ({} : PortSt) with link := .training }).port! 63).link = .training ∧
    bit ((withPort { ({} : PortSt) with link := .training }).port! 63).failed (3 : Fin 4) = false := by decide +kernel
theorem test_retrainDone : ((withPort { upPort with link := .retraining, badRetrains := 1 }).port! 63).link = .retraining ∧
    ((withPort { upPort with link := .retraining, badRetrains := 1 }).port! 63).badRetrains < 2 ∧
    0 < ((withPort { upPort with link := .retraining, badRetrains := 2 }).port! 63).newWidth := by decide +kernel
theorem test_portTrainRetry : (rdy.port! 63).link = .down ∧ (rdy.port! 63).holdDown = false ∧ rdy.lit = true := by decide +kernel
theorem test_portUp : PortSt.link { ({} : PortSt) with link := .training, peerLanes := (8 : BitVec 4).toNat } = .training ∧
    0 < PortSt.newWidth { ({} : PortSt) with link := .training, peerLanes := (8 : BitVec 4).toNat } ∧ rdy.lit = true := by decide +kernel
/-- A flit of a type with an empty body, its CRC right or not. -/
def flit1 (ok : Bool) (t : Nat) : Flit := if ok then mkFlit t 0 else { mkFlit t 0 with crc := 0 }
theorem test_dataFlitReceive : crcOk (flit1 false 1) = false ∧ crcOk (flit1 true 1) = true ∧ (flit1 true 1).type = 1 ∧
    (flit1 true 1).lseq = (((withPort upPort).flitAck 63 (flit1 true 1)).port! 63).rxLseq ∧ (flit1 true 0).type = 0 := by decide +kernel
theorem test_linkReplayTimeout : ∃ s : State, (s.m.port! 63).link = .up ∧ (s.m.port! 63).ackAt + 5000 ≤ s.m.now :=
  ⟨{ m := { withPort upPort with tb := { ({} : TimeB) with nanoTicks := 5000 * 1000000000 } } }, by decide +kernel⟩
/-- CONTROL flits: credits of 16 on channel 0, four working lanes, a retrain; and one that Table 12.22 does not name. -/
theorem test_control : (∀ x ∈ [(1, 257), (2, 0xF02), (3, 0x203)], crcOk (mkFlit 4 x.2) = true ∧ (mkFlit 4 x.2).type = 4 ∧
    ctrlNamed (mkFlit 4 x.2) = true ∧ ctrlMsg (mkFlit 4 x.2) = x.1) ∧ (((withPort upPort).flitAck 63 (mkFlit 4 257)).port! 63).gotCredit = false ∧
    (mkFlit 4 0x1002).type = 4 ∧ ctrlNamed (mkFlit 4 0x1002) = false := by
  decide +kernel
def mCtl : Mod := { withPort { upPort with ctrlLeft := 2 } with tb := { ({} : TimeB) with nanoTicks := 20000 * 1000000000 } }
theorem test_controlRepeat : (mCtl.port! 63).link = .up ∧ 0 < (mCtl.port! 63).ctrlLeft ∧ (mCtl.port! 63).gotCredit = false ∧
    (mCtl.port! 63).trainedAt + 1000 * (3 - (mCtl.port! 63).ctrlLeft) ≤ mCtl.now ∧ (mCtl.port! 63).trainedAt + 20000 ≤ mCtl.now := by decide +kernel
def hello1 (chip : BitVec 20) : HelloBody := { chip := chip, port := 1, bundle := 0, member := false, epoch := 0, verify := 1, rsvZero := true }
def mHello (chip : BitVec 20) : Mod := ((withPort { upPort with verify := .waiting }).flitAck 63 { hdr := 3, body := 0, crc := 0 }).onPort 63
  fun x => { x with nChip := chip.toNat, nPort := 1, nBundle := 0 }
theorem test_helloReceive : ((withPort { upPort with verify := .waiting }).port! 63).link = .up ∧ (hello1 9).rsvZero = true ∧
    ((mHello 9).port! 63).mapped = true ∧ (hello1 9).epoch.toNat = (mHello 9).lnk.epoch ∧ ((mHello 9).port! 63).verify = .waiting ∧
    (mHello 9).helloWrong 63 (hello1 9) 0 = false := by decide +kernel
theorem test_helloReceive_wrong : ((mHello 8).port! 63).verify = .waiting ∧ (mHello 8).helloWrong 63 (hello1 8) 0 = true := by decide +kernel
def sHello (x : PortSt) : State := { m := { withPort x with lnk := { (withPort x).lnk with helloQ := some (0, 7, 0) } } }
/-- A TOPO_SET whose hellos are all decided, and one that a port still waits at. -/
theorem test_helloTimeout : (sHello upPort).m.lnk.helloQ = some (0, 7, 0) ∧ 0 ≤ (sHello upPort).m.now ∧
    (∀ q : Port, ((sHello upPort).m.port! q).verify ≠ .waiting) ∧ (∀ kt ∈ (sHello upPort).m.lnk.tx, kt.2.due = false) ∧
    (sHello { upPort with verify := .waiting }).m.lnk.helloQ = some (0, 7, 0) := by decide +kernel
theorem test_helloOver : ∀ l ∈ [Link.up, .retraining, .down, .training],
    ((withPort { upPort with link := l, verify := .waiting }).port! 63).verify = .waiting ∧
    ((withPort { upPort with link := l, verify := .waiting }).port! 63).link = l ∧ ((withPort upPort).port! 63).verify ≠ .waiting := by decide +kernel
theorem test_beaconSend : ((withPort upPort).port! 63).link = .up ∧ ((withPort upPort).port! 63).mapped = true ∧ (withPort upPort).tb.following = false := by
  decide +kernel
def bcn : BeaconBody := { txTime := 0, txFrac := 0, tbState := 4, gm := 1, hops := 0, gmSeq := 3, epoch := 0, echoTx := 0, echoTxF := 0, echoRx := 0, echoRxF := 0 }
def mFar : Mod := { withPort upPort with tb := { ({} : TimeB) with nanoTicks := 8001 * 1000000000 } }
def heard (m : Mod) : Mod := (m.flitAck 63 { hdr := 2, body := 0, crc := 0 }).onPort 63 fun x => { x with
  lastTx := bcn.txTime.toNat
  lastTxF := bcn.txFrac.toNat
  lastRx := m.now
  lastRxF := m.frac }
theorem test_beaconReceive : (mFar.port! 63).link = .up ∧ ((heard mFar).port! 63).verify = .verified ∧ bcn.epoch.toNat = (heard mFar).lnk.epoch ∧
    (bcn.echoTx.toNat * 256 + bcn.echoTxF.toNat) + 2048000 < mFar.now * 256 + mFar.frac ∧
    ((heard mFar).heed 63 bcn).tb.parent ≠ some (63 : Port).val := by decide +kernel
/-- Chip 5 in ACQUIRE hears of grandmaster 1. -/
def mNear : Mod := { withPort upPort with lnk := { (withPort upPort).lnk with chip := 5 }, tb := { ({} : TimeB) with state := .acquire, gm := 5 } }
def mElect : Mod := (((heard mNear).onPort 63 fun x => { x with delays := (x.delays ++ [0]).drop ((x.delays ++ [0]).length - 16) }).bundleSkew 63).heed 63 bcn
theorem test_beaconReceive_parent : (mNear.port! 63).link = .up ∧ ((heard mNear).port! 63).verify = .verified ∧
    (0 : Int) = (heard mNear).stamp - (bcn.echoTx.toNat * 256 + bcn.echoTxF.toNat : Int) ∧
    (0 : Int) = ((0 : Int) - ((bcn.txTime.toNat * 256 + bcn.txFrac.toNat : Int) - (bcn.echoRx.toNat * 256 + bcn.echoRxF.toNat : Int))) / 2 ∧
    mElect.tb.parent = some (63 : Port).val ∧ mElect.tb.following = true := by decide +kernel
/-- A parent in HOLDOVER; and a port that is no parent. -/
def mFollow : Mod := { withPort upPort with tb := { ({} : TimeB) with state := .locked, parent := some 63, gm := 1 } }
theorem test_heed : mFollow.tb.following = true ∧ mFollow.tb.parent = some (63 : Port).val ∧
    ((mFollow.hear 63 { bcn with tbState := 3 }).port! 63).advHeard = false ∧ mFar.tb.parent ≠ some (63 : Port).val := by decide +kernel
theorem test_gmSeqAdvance : ∃ s : State, s.m.tb.state = .grandmaster := ⟨{ m := { rdy with tb := { ({} : TimeB) with state := .grandmaster } } }, rfl⟩
def mLost : Mod := { rdy with tb := { ({} : TimeB) with state := .locked, parent := some 63, gm := 1 } }
theorem test_gmLivenessTimeout : mLost.tb.parent = some (63 : Port).val ∧ mLost.liveAdv (63 : Port).val = false ∧ mLost.tb.following = true ∧
    mLost.bestPort mLost.tb.gm = none := by decide +kernel
theorem test_timeJoinTimeout : ∃ s : State, s.m.tb.joins.find? (fun j => j.1 = (63 : Queue).val) = some ((63 : Queue).val, 0) ∧ 0 ≤ s.m.now :=
  ⟨{ m := { rdy with tb := { ({} : TimeB) with joins := [(63, 0)] } } }, by decide +kernel⟩

/-- A header from chip 9 to this module, chip 0: KIND, HOP = LAST = 0. -/
def hdr (kind : Nat) : PktHdr := BitVec.ofNat 320 (pack [(4, 4, 9), (7, 1, kind)])
def sPkt : State := { m := withPort upPort }
theorem test_packets_inOrder : ∀ k ∈ [kExchange, kReduce, kBarrier, kPace, kSnapshot], hKind (hdr k).toNat = k ∧
    sPkt.inOrder 63 (hdr k).toNat 0 sPkt.m := by
  intro k hk
  have h : ∀ k ∈ [kExchange, kReduce, kBarrier, kPace, kSnapshot], hKind (hdr k).toNat = k ∧
      sPkt.m.arrival 63 (hdr k).toNat 0 = some (sPkt.m, 0) ∧ sPkt.m.portDrops 63 (hdr k).toNat 0 = false ∧ hDst (hdr k).toNat = sPkt.m.lnk.chip ∧
      sPkt.m.lostFor (hSrc (hdr k).toNat) (hJob (hdr k).toNat) = false ∧
      hSeq (hdr k).toNat = (sPkt.m.rx! (streamKey (hSrc (hdr k).toNat) (hJob (hdr k).toNat) (hVc (hdr k).toNat))).next := by decide +kernel
  have h := h k hk
  exact ⟨h.1, ⟨0, h.2.1, h.2.2.1⟩, h.2.2.2⟩
theorem test_e2eAck : hKind (hdr kAck).toNat = kAck ∧ sPkt.m.arrival 63 (hdr kAck).toNat 0 = some (sPkt.m, 0) ∧
    sPkt.m.portDrops 63 (hdr kAck).toNat 0 = false ∧ hDst (hdr kAck).toNat = sPkt.m.lnk.chip ∧
    sPkt.m.lostFor (hSrc (hdr kAck).toNat) (hJob (hdr kAck).toNat) = false ∧
    (∀ x ∈ (sPkt.m.ackedTo (hSrc (hdr kAck).toNat) (hJob (hdr kAck).toNat) (hVc (hdr kAck).toNat) (hSeq (hdr kAck).toNat)).col.ctx, x.stagePend = []) := by
  decide +kernel
/-- A packet that stands in the receive buffer. -/
def sBuf : State := { m := { sPkt.m with lnk := { sPkt.m.lnk with inbox := [{ port := 63, bytes := (hdr kPace).toNat, key := 504, vc := 0, owe := 2, epoch := 0 }] } } }
theorem test_arrival : (sBuf.m.lnk.inbox.find? fun x => x.port = (63 : Port).val && x.bytes = (hdr kPace).toNat + 2 ^ 320 * 0) = sBuf.m.lnk.inbox.head? ∧
    (sBuf.m.lnk.inbox.find? fun y => y.key = 504) = sBuf.m.lnk.inbox.head? ∧ sPkt.m.lnk.inbox = [] := by decide +kernel
/-- A header for chip 7 that leaves by port 63 next. -/
def hdrFwd : PktHdr := BitVec.ofNat 320 (pack [(0, 4, 7), (4, 4, 9), (7, 1, 1), (16, 2, 63)])
theorem test_packetForward : sPkt.m.arrival 63 hdrFwd.toNat 0 = some (sPkt.m, 0) ∧ sPkt.m.portDrops 63 hdrFwd.toNat 0 = false ∧ hDst hdrFwd.toNat ≠ sPkt.m.lnk.chip ∧ hHop hdrFwd.toNat ≤ hLast hdrFwd.toNat ∧
    sPkt.m.hopUp (hRoute hdrFwd.toNat (hHop hdrFwd.toNat)).1 = true ∧ hKind hdrFwd.toNat ≠ kReduce := by decide +kernel
def out1 : OutPkt := { dst := 9, job := 1, vc := 7, kind := 3, body := 0, len := 32, ctx := 0 }
theorem test_treePacketSend : ∃ s : State, s.m.lnk.formed[0]? = some out1 := ⟨{ m := { rdy with lnk := { ({} : Lnk) with formed := [out1] } } }, rfl⟩
theorem test_e2eAckTimer : ∃ s : State, 0 < (s.m.rx! (streamKey (9 : BitVec 20).toNat (1 : JobId).toNat (7 : Fin 8))).unackedN ∧
    (s.m.rx! (streamKey (9 : BitVec 20).toNat (1 : JobId).toNat (7 : Fin 8))).firstAt + 2000 ≤ s.m.now :=
  ⟨{ m := { rdy with
    lnk := { ({} : Lnk) with rx := [(streamKey 9 1 7, { unackedN := 1 })] }
    tb := { ({} : TimeB) with nanoTicks := 2000 * 1000000000 } } }, by decide +kernel⟩
def tx1 (n : Nat) : TxStream := { unacked := [{ pkt := out1, seq := 0, retx := false, route := 0 }], retx := n }
def mTx (n : Nat) : Mod := { rdy with
  lnk := { ({} : Lnk) with tx := [(streamKey 9 1 7, tx1 n)] }
  tb := { ({} : TimeB) with nanoTicks := 50001 * 1000000000 } }
theorem test_e2eRetx : ∀ n ∈ [0, 8], (mTx n).tx! (streamKey (9 : BitVec 20).toNat (1 : JobId).toNat (7 : Fin 8)) = tx1 n ∧ (tx1 n).unacked ≠ [] ∧
    (tx1 n).unreachable = false ∧ (tx1 n).due = false ∧ (tx1 n).oldestAt + 1000 * (mTx n).lnk.timeout < (mTx n).now := by decide +kernel
/-- A packet that was retransmitted and stays unacknowledged. -/
def txAgain : TxStream := { unacked := [{ pkt := out1, seq := 0, retx := true, route := 0 }] }
theorem test_e2eRetx_again : (txAgain.unacked.head?.map (·.retx)) = some true ∧ ((tx1 0).unacked.head?.map (·.retx)) = some false ∧
    txAgain.unreachable = false ∧ txAgain.due = false := by decide +kernel
theorem test_e2eRetx_limits : (mTx 8).lnk.maxRetx ≤ (tx1 8).retx ∧ (tx1 0).retx = 0 ∧ 0 < (mTx 0).lnk.maxRetx := by decide +kernel

/-! ### Power, pins, start-up -/

theorem test_throttleInAssert : rdy.railsOn = true ∧ rdy.pins.throttle = false := by decide +kernel
def acting (f : List Forced) : Mod := { rdy with pwr := { ({} : Pwr) with acting := f } }
theorem test_throttleInRelease : (acting [.throttle]).railsOn = true ∧ (acting [.throttle]).pwr.acting.contains .throttle = true := by decide +kernel
theorem test_regAlert : rdy.railsOn = true ∧ 46499 < 46500 ∧ 125 < 126 ∧ (∀ a ∈ rdy.pwr.alerts, a.kind ≠ 1 ∧ a.kind ≠ 3) := by decide +kernel
def alerted (l : List RegAlert) : Mod := { rdy with pwr := { ({} : Pwr) with alerts := l, acting := [.alert] } }
/-- The condition of one die ends, alone and while another die's stands. -/
theorem test_regAlertClear : (alerted [⟨3, 2, 126⟩]).railsOn = true ∧ (∀ a ∈ (alerted [⟨3, 2, 126⟩]).pwr.alerts, RegAlert.same .hot (2 : Die) a = true) ∧
    ∃ a ∈ (alerted [⟨3, 1, 127⟩, ⟨3, 2, 126⟩]).pwr.alerts, RegAlert.same .hot (2 : Die) a = false := by decide +kernel
theorem test_forcedHoldoffEnd : ∃ s : State, s.m.railsOn = true ∧ s.m.pwr.holdoff = some 0 ∧ 0 + 10000 ≤ s.m.now ∧ s.m.pwr.released = [.droop] :=
  ⟨{ m := { rdy with
    pwr := { ({} : Pwr) with holdoff := some 0, released := [.droop] }
    tb := { ({} : TimeB) with nanoTicks := 10000 * 1000000000 } } }, by decide +kernel⟩
theorem test_rampStep : ∃ s : State, s.m.railsOn = true ∧ s.m.pwr.ramping = true ∧ s.m.pwr.anyWarn = false ∧ s.m.pwr.rampAt + 1000 ≤ s.m.now ∧
    s.m.pwr.setpoint + 10 < s.m.vtab s.m.pwr.target :=
  ⟨{ m := { rdy with
    pwr := { ({} : Pwr) with ramping := true, setpoint := 550, opReq := 7 }
    tb := { ({} : TimeB) with nanoTicks := 1000 * 1000000000 } } }, by decide +kernel⟩
theorem test_droopSample : ∃ s : State, s.m.railsOn = true ∧ s.m.pwr.setpoint ≤ 490 + 60 ∧ 490 + 25 < s.m.pwr.setpoint ∧ (s.m.die! 3).warn = false ∧
    s.m.pwr.ramping = false := ⟨{ m := { rdy with pwr := { ({} : Pwr) with setpoint := 550 } } }, by decide +kernel⟩
def mWarn : Mod := { rdy with
  pwr := { ({} : Pwr) with die := [(3, { warn := true })] }
  tb := { ({} : TimeB) with nanoTicks := 5001 * 1000000000 } }
theorem test_droopWarnTimeout : mWarn.railsOn = true ∧ (mWarn.die! 3).warn = true ∧ mWarn.pwr.forced = false ∧ (mWarn.die! 3).warnFrom + 5000 < mWarn.now ∧
    mWarn.pwr.acting.contains .droop = false := by decide +kernel
theorem test_capDecision : ∃ s : State, s.m.alive = true ∧ s.m.pwr.capW < s.m.pwr.p1 ∧ 0 < s.m.pwr.capOp :=
  ⟨{ m := { rdy with pwr := { ({} : Pwr) with p1 := 3001 } } }, by decide +kernel⟩
theorem test_capDecision_up : ∃ s : State, s.m.alive = true ∧ s.m.pwr.p1 ≤ s.m.pwr.capW ∧ 1000 ≤ s.m.pwr.belowFor ∧ s.m.pwr.capOp < 7 :=
  ⟨{ m := { rdy with pwr := { ({} : Pwr) with capOp := 6, belowFor := 1000 } } }, by decide +kernel⟩
theorem test_junctionSensorRead : rdy.alive = true ∧ (-40 : Int) ≤ 114 ∧ (114 : Int) < 115 ∧ rdy.phase ≠ .off ∧ rdy.pins.coreRails = true := by decide +kernel
theorem test_thermOpStep : ∃ s : State, s.m.alive = true ∧ (∀ x ∈ s.m.pwr.die, x.2.sensorFail = false) ∧ (s.m.die! 3).tjMax > s.m.pwr.throtC :=
  ⟨{ m := { rdy with pwr := { ({} : Pwr) with die := [(3, { tjMax := 106 })] } } }, by decide +kernel⟩
theorem test_thermOpStep_up : ∃ s : State, s.m.alive = true ∧ (∀ x ∈ s.m.pwr.die, x.2.sensorFail = false) ∧
    (∀ d : Die, (s.m.die! d).tjMax ≤ s.m.pwr.throtC - 5) ∧ s.m.pwr.thermOp < 6 :=
  ⟨{ m := { rdy with pwr := { ({} : Pwr) with thermOp := 5 } } }, by decide +kernel⟩
theorem test_rateMonitorSample : rdy.alive = true ∧ 95 * nominalRate rdy.pwr.opNow ≤ 100 * min 65535 (1000000 / 10) := by decide +kernel
theorem test_tripPerimeterOff : ∃ s : State, s.m.alive = true ∧ s.m.pins.thermTrip = true ∧ s.m.pins.perimRails = true ∧ s.m.pins.tripAt + 5000000 ≤ s.m.now :=
  ⟨{ m := { rdy with pins := { ({} : PinsSt) with thermTrip := true }, tb := { ({} : TimeB) with nanoTicks := 5000000 * 1000000000 } } }, by decide +kernel⟩
theorem test_leaving : rdy.phase ≠ .off := by decide +kernel
def mOff : Mod := { rdy with phase := .off, pins := { ({} : PinsSt) with perst := true } }
theorem test_railsInRegulation : ∃ m : Mod, m = { ({ mOff with pins := {} } : Mod) with pins := { ({ mOff with pins := {} } : Mod).pins with
    pwrGood := true, flushing := false, inputCut := false, coreRails := true, perimRails := true } } ∧ m.mayBoot = true := ⟨_, rfl, by decide +kernel⟩
theorem test_perstDeassert : Mod.mayBoot { mOff with pins := { mOff.pins with perst := false } } = true ∧
    Mod.mayBoot { rdy with pins := { rdy.pins with perst := false } } = false := by decide +kernel
theorem test_inputApplied : ∃ s : State, s.sbx.supplied = true ∧ 44000 < 58000 := ⟨sRdy, by decide +kernel⟩
theorem test_flushDone : ∃ s : State, s.m.pins.flushing = true ∧ s.m.pins.perst = true :=
  ⟨{ m := { mOff with pins := { ({} : PinsSt) with flushing := true, perst := true } } }, by decide +kernel⟩
theorem test_bootComplete : State.reset.m.phase = .boot ∧ State.reset.m.sec.recovery = false ∧
    (State.reset.commit State.reset.m.bootWork).m.sec.recovery = false := by decide +kernel
def rep0 : MemInitReport := { calibFail := [], bankFail := [], atticCode := 0, recordsReadable := true }
def mMi : Mod := { ({} : Mod) with phase := .memInit }
theorem test_memInitComplete : mMi.phase = .memInit ∧ mMi.fatal = false ∧ rep0.calibFail = [] ∧ rep0.bankFail = [] ∧ rep0.recordsReadable = true ∧
    (((mMi.startAttic rep0.atticCode).startRepairs true rep0.atticCode).startMapOuts.spareCheck).nv.exhausted = [] ∧
    (((mMi.startAttic rep0.atticCode).startRepairs true rep0.atticCode).startMapOuts.spareCheck).fatal = false := by decide +kernel
def mLi : Mod := { ({} : Mod) with phase := .linkInit, tb := { ({} : TimeB) with nanoTicks := 2000000001 * 1000000000 } }
theorem test_linkInit : mLi.phase = .linkInit ∧ mLi.fatal = false ∧ mLi.phaseAt + 2000000000 < mLi.now ∧ mLi.sec.recovery = false ∧
    mLi.onTrial = false := by decide +kernel
/-- A trial start in the same place. -/
def mTrial : Mod := { mLi with sec := { mLi.sec with trial := true } }
theorem test_startupFail_trial : mTrial.overdue = some 4 ∧ mTrial.onTrial = true := by decide +kernel
/-- The bytes of the image as a transfer brings them. -/
def imgSent : ImageFile where
  len := 8193
  bytes := imgHead.map (fun x => (x.1, BitVec.ofNat 8 x.2)) ++
    (List.range 64).map fun i => (24 + i, BitVec.ofNat 8 ((Config.sha3 [0]).toNat / 2 ^ (8 * i)))
def mRec : Mod := fwKeyed { ({} : Mod) with sec := { ({} : Sec) with recovery := true } }
set_option maxRecDepth 20000 in
theorem test_recovery : mRec.sec.recovery = true ∧ mRec.nv.passes (imgOf imgSent.bytes) imgSent.len (authOf (imgOf imgSent.bytes)) = true ∧
    (imgHeader (imgOf imgSent.bytes)).type = 1 ∧ mRec.nv.floor ≤ (imgHeader (imgOf imgSent.bytes)).svn := by
  have e : imgOf imgSent.bytes = img := by rw [imgOf, imgSent, List.foldl_append]; rfl
  rw [e]
  exact ⟨rfl, img_passes _ 8193 (by omega) rfl, img_type.1, Nat.zero_le _⟩
theorem test_debugRelockExpiry : ∃ s : State, 0 < s.m.sec.dbgEnd ∧ s.m.sec.dbgEnd ≤ s.m.now :=
  ⟨{ m := { rdy with sec := { ({} : Sec) with dbgEnd := 1 }, tb := { ({} : TimeB) with nanoTicks := 1000000000 } } }, by decide +kernel⟩
theorem test_rateWindowClose : rdy.phase ≠ .off ∧ rdy.phase ≠ .boot := by decide +kernel
theorem test_freezeExpired : ∃ s : State, s.evr.frozenAt = some 0 ∧ 0 + 10000000000 ≤ s.m.now :=
  ⟨{ m := { rdy with tb := { ({} : TimeB) with nanoTicks := 10000000000 * 1000000000 } }, evr := { ({} : Evr) with frozenAt := some 0 } }, by decide +kernel⟩
theorem test_opsecPersist : ∃ s : State, s.m.alive = true ∧ s.evr.opsecSaved + 60 ≤ s.evr.opsec :=
  ⟨{ m := rdy, evr := { ({} : Evr) with opsec := 60 } }, by decide +kernel⟩
theorem test_mailboxFrame : rdy.phase ≠ .off ∧ rdy.frameBack frame1 = false := by decide +kernel
theorem test_mailboxTimeout : ∃ s : State, s.m.met.held = some frame1 ∧ s.m.met.valid = true ∧ s.m.met.heldAt + 100000000 ≤ s.m.now :=
  ⟨{ m := { rdy with
    met := { ({} : Met) with held := some frame1, valid := true }
    tb := { ({} : TimeB) with nanoTicks := 100000000 * 1000000000 } } }, by decide +kernel⟩
theorem test_strongbox : sRdy.sbx.supplied = true := by decide +kernel
theorem test_sideband : rdy.alive = true ∧ rdy.sec.recovery = false ∧ rdy.pins.pwrGood = true ∧ (rdy.sensor 1).isSome = true := by decide +kernel
def mConn (t : Transport) (st : SpdmState) : Mod := rdy.setConn t { st := st }
theorem test_spdm : ∀ t ∈ [Transport.attest, .mctp, .doe], ∀ st ∈ [SpdmState.idle, .versioned, .capable, .negotiated, .session, .secured],
    (mConn t st).spdmUp t = true ∧ ((mConn t st).conn t).st = st := by decide +kernel
/-! ### The general statements -/

theorem test_step : ∃ s t : State, s.pending = .flr :: [.journalFlush] ∧ t.pending = [] :=
  ⟨{ pending := [.flr, .journalFlush] }, {}, rfl, rfl⟩
theorem test_moduleReset : ∃ x : Mod, x = State.reset.m ∨ ∃ m : Mod, x = m.bootEntry := ⟨_, .inl rfl⟩
theorem test_moduleReset_boot : ∃ x m : Mod, x = m.bootEntry := ⟨_, rdy, rfl⟩
/-- A machine with one written byte, one record in its ring, two preserved, an energy of 1 µJ, and a sample waiting. -/
def sInv : State := { m := rdy, mem := [(65536, 1)], pending := [.energyAccumulate 1 1], evr := { ({} : Evr) with
  ring := [rec1 2], next := 3, pres := [rec1 0, rec1 1], presNext := 2 }, sbx := { ({} : Strongbox) with microJ := 1 } }
theorem test_stepInvariants : Memory.wf sInv.mem = true ∧ sInv.m.out = {} ∧ sInv.evr.bounded ∧ sInv.evr.numbered ∧
    ∃ t, step sInv = .next t := by
  refine ⟨by decide +kernel, by decide +kernel, ⟨by decide, by decide, by decide⟩, ⟨⟨by decide, by decide⟩, by decide, by decide⟩, _, rfl⟩
theorem test_strongbox_untouched : ∃ t, exec .flr sInv = .next t := ⟨_, rfl⟩
theorem test_strongbox_energy : ∃ t, exec (.energyAccumulate 1 1) sInv = .next t ∧ Instr.energyAccumulate 1 1 ≠ .busbarBelow40v false :=
  ⟨_, rfl, by decide⟩
theorem test_preserved : sInv.evr.pres.length ≤ 1024 ∧ ∃ t, exec .flr sInv = .next t := ⟨by decide, _, rfl⟩
def mW (l : List HWrite) : Mod := { rdy with out := { ({} : Out) with writes := l } }
theorem test_hostMemory : Memory.wf sInv.mem = true ∧ (∀ w ∈ (mW [⟨7, [1, 2]⟩]).out.writes, 9 < w.addr ∨ w.addr + w.bytes.length ≤ 9) ∧
    ∃ ws w, (mW [⟨7, [1, 2]⟩]).out.writes = ws ++ [w] ∧ 1 < w.bytes.length := ⟨by decide +kernel, by decide +kernel, [], ⟨7, [1, 2]⟩, rfl, by decide⟩
theorem test_reply : Memory.wf (onQ0 rdy pDq).mem = true ∧ (onQ0 rdy pDq).m.out = {} ∧ ((onQ0 rdy pDq).m.q! 0).cqBase = 8192 := by decide +kernel

def fails (m : Mod) (p : Packet) (op : Nat) : Bool := (onQ0 m p).m.takes op 0 p && decide (op ∉ signedOps)
theorem test_failed_state : fails State.reset.m pDc 0x02 = true ∧ (onQ0 State.reset.m pDc).m.serving = false ∧ 0x02 ∉ anyStateOps := by decide +kernel
theorem test_failed_signed : fails rdy (sgn 0x02 []) 0x02 = true ∧ (onQ0 rdy (sgn 0x02 [])).m.serving = true ∧ pktSigned (sgn 0x02 []) = true ∧
    0x01 ∈ anyStateOps := by decide +kernel
theorem test_failed_field : ∃ p a, fails rdy p 0x02 = true ∧ (onQ0 rdy p).m.serving = true ∧ pktSigned p = false ∧ badField p = some a :=
  ⟨cp 0x02 0 [(17, 1, 1)], 17, by decide +kernel⟩
theorem test_failed_job : fails rdy pOf 0x11 = true ∧ (onQ0 rdy pOf).m.serving = true ∧ pktSigned pOf = false ∧ badField pOf = none ∧
    pktJob pOf ≠ 0 ∧ (onQ0 rdy pOf).m.job? (pktJob pOf) = none := by decide +kernel
theorem test_state_allows : fails State.reset.m pDc 0x02 = true ∧ State.reset.m.phase ≠ .ready ∧ State.reset.m.phase ≠ .degraded ∧
    fails State.reset.m pDq 0x01 = true ∧ (onQ0 State.reset.m (sgn 0x59 [])).m.takes 0x59 0 (sgn 0x59 []) = true := by decide +kernel

def sFz (p : Packet) (n : Nat) (f : Option Nat) : State := { onQ0 rdy p with evr := { ({} : Evr) with
  frozenAt := f, staging := List.replicate n (rec1 0), lostInFreeze := 1 } }
theorem test_thaw : ∀ f ∈ [none, some 0], (sFz pEt 1023 f).m.out = {} ∧ (sFz pEt 1023 f).evr.ring.length ≤ 65536 ∧
    (sFz pEt 1023 f).accepts 0x52 0 pEt ∧ (sFz pEf 1023 f).accepts 0x51 0 pEf := by
  intro f hf
  rcases List.mem_cons.mp hf with rfl | hf
  · exact ⟨by decide +kernel, by decide +kernel, acc (by decide +kernel), acc (by decide +kernel)⟩
  · rcases List.mem_cons.mp hf with rfl | hf
    · exact ⟨by decide +kernel, by decide +kernel, acc (by decide +kernel), acc (by decide +kernel)⟩
    · cases hf
theorem test_thaw_full : (sFz pEt 1023 (some 0)).evr.staging.length < 1024 ∧ 1024 ≤ (sFz pEt 1024 (some 0)).evr.staging.length := by
  decide +kernel
def ev1 : Ev := { code := 0x4001, sev := 0, payload := 0, time := 0, unjoined := false, mode := 0 }
def eWin (n : Nat) : Evr := { ({} : Evr) with win := [(0x4001, { ({} : WinCnt) with n := n })] }
theorem test_rateLimit : ev1.mode = 0 ∧ exempt ev1.code ev1.sev = false ∧ (Tab.get {} (eWin 7).win ev1.code).n < 8 ∧ (eWin 7).opsec / 10 ≤ (eWin 7).winNo ∧
    8 ≤ (Tab.get {} (eWin 8).win ev1.code).n ∧ ({ eWin 8 with opsec := 10 } : Evr).winNo < ({ eWin 8 with opsec := 10 } : Evr).opsec / 10 := by
  decide +kernel
theorem test_target : (acting [.droop]).pwr.acting ≠ [] ∧ rdy.pwr.acting = [] ∧ rdy.pwr.holdoff = none := by decide +kernel
def g3 : Group := { job := 1, g := 3, f := 2, members := [4, 5, 6] }
theorem test_tree : 0 < g3.f ∧ 2 < g3.members.length ∧ g3.rel 1 1 = 0 ∧ g3.parent 1 2 = some 1 ∧ g3.children 1 1 = [2, 0] := by decide +kernel
theorem test_rne : (⟨1, 2⟩ : Fr).rne = 0 ∧ (⟨3, 2⟩ : Fr).rne = 2 ∧ (⟨5, 4⟩ : Fr).rne = 1 := by decide +kernel
theorem test_ownFormat : ((fmtOf 3).decode 0x7E).isFinite = true ∧ ((fmtOf 7).decode 15).isFinite = true ∧ 15 < 2 ^ fmtBits 7 := by decide +kernel
theorem test_syncForce_locked : (onQ0 rdy pSf).accepts 0x5C 0 pSf ∧ (onQ0 rdy pSf).m.sec.dbgEnd ≤ (onQ0 rdy pSf).m.now :=
  ⟨acc (by decide +kernel), by decide +kernel⟩

/-! ### Ill-formed commands: each check refuses one -/

theorem test_illFormed_opcode : (Instr.devQuery 0 pDc).wellFormed = false ∧ (Instr.devQuery 0 pDq).wellFormed = true := by decide +kernel
theorem test_illFormed_kind : (Instr.exchange 63 (hdr 2) 0).wellFormed = false ∧ (Instr.exchange 63 (hdr 1) 0).wellFormed = true := by decide +kernel
theorem test_illFormed_host : ∀ i ∈ [Instr.debugApertureAccess 0xFFFFFFFF 2 none, .debugApertureAccess 0 1 (some 256), .pcieDegraded 8 1280,
    .pcieDegraded 3 1280], i.wellFormed = false := by decide +kernel
theorem test_illFormed_core : ∀ i ∈ [Instr.remoteSignalAct 2 2 0, .fabricReplayFailure 1 1, .fenceEvacuationDone 0 [(16384, 0, 0)]],
    i.wellFormed = false := by decide +kernel
theorem test_illFormed_memory : ∀ i ∈ [Instr.scrub 0 [(2 ^ 36, 1)] [], .scrub 0 [] [2 ^ 36], .cellarUncorrectable 0 (2 ^ 36)], i.wellFormed = false := by
  decide +kernel
theorem test_illFormed_flit : ∀ i ∈ [Instr.dataFlitReceive 0 { flit1 true 0 with body := 2 ^ 1952 }, .idleFlitReceive 0 { flit1 true 0 with body := 2 ^ 1952 },
    .creditInit 0 { flit1 true 4 with body := 2 ^ 1952 }, .laneHealth 0 { flit1 true 4 with body := 2 ^ 1952 }, .retrain 0 { flit1 true 4 with body := 2 ^ 1952 },
    .panEccError 0 0 524288 true, .updBufferEccError 0 9216 true], i.wellFormed = false := by decide +kernel
theorem test_illFormed_power : ∀ i ∈ [Instr.throttleInAssert 19 true, .throttleInAssert 50 false, .regAlert .inputLow 0 46500, .regAlert .overCurrent 0 600,
    .regAlert .hot 0 125, .powerSample 65536 0, .junctionSensorRead 0 []], i.wellFormed = false := by decide +kernel
theorem test_illFormed_startUp : ∀ i ∈ [Instr.memInitComplete { rep0 with calibFail := [(32, 0)] }, .memInitComplete { rep0 with bankFail := [(4, 0)] },
    .memInitComplete { rep0 with atticCode := 5 }, .strongboxPrivateRead 48 1], i.wellFormed = false := by decide +kernel

/-! ### Values that the spec works out -/

/-- The descriptor header of file 01, "encoding a descriptor header": bytes 0 to 7, then 8 to 15. -/
def dEx : Nat := 0x0002_0008_002A_0210 + 2 ^ 64 * 0x00000100_0045_0000
theorem test_header_fields : dOp dEx = 0x10 ∧ dFence dEx = true ∧ dNotify dEx = false ∧ dJob dEx = 0x2A ∧ dWait dEx = 2 ^ 3 + 2 ^ 17 ∧
    dSigA dEx = some 5 ∧ dSigB dEx = none ∧ dSeq dEx = 0x100 ∧ dHeaderRsv dEx = 0 := by decide +kernel
/-- File 04, Table 4.6: one group of E5M2 products. -/
theorem test_group_rounds_once : groupResult ([0x78, 0x28, 0x01].map (elemVal 4)) ([0x78, 0x24, 0x01].map (elemVal 4)) 127 127 =
    0x40_1D00_0000_0001 := by decide +kernel
/-- File 04, Table 4.8. -/
theorem test_conversions : [convert 1 .rne (elemVal 9 0x40_1D00_0000_0001), convert 3 .rne (.fin ⟨464, 1⟩), convert 3 .rne (.fin ⟨500, 1⟩),
    convert 4 .rne (.fin ⟨122879, 2⟩), convert 4 .rne (.fin ⟨61440, 1⟩), convert 2 .rne (.fin ⟨-65520, 1⟩), convert 2 .rne (.fin ⟨3, 2 ^ 26⟩),
    convert 2 .rne (.fin ⟨-1, 2 ^ 25⟩), convert 8 .rne (.fin ⟨5, 2⟩), convert 8 .rne (.fin ⟨-200, 1⟩), convert 3 .rne (.inf false)] =
    [0x4E80, 0x7E, 0x7E, 0x7B, 0x7C, 0xFC00, 0x0001, 0x8000, 0x02, 0x80, 0x7E] := by decide +kernel
/-- File 04, Table 4.9: one block of E2M1. -/
theorem test_block : convBlock 7 (fun _ => .rne) ([.fin ⟨13, 16⟩, .fin ⟨5, 8⟩, .fin ⟨-3, 10⟩, .fin ⟨3, 64⟩, .fin ⟨1, 128⟩] ++ List.replicate 27 (.zero false)) =
    (0x7C, [7, 6, 0xC, 1, 0] ++ List.replicate 27 0) := by decide +kernel
/-- File 04, Table 4.10: stochastic rounding to BF16. -/
theorem test_stochastic : ([0x5FFFFFFF, 0x60000000] : List Nat).map (fun w => convert 1 (.sr (w * 2 ^ 32)) (elemVal 9 0x3F_FF00_C000_0000)) =
    [0x3F81, 0x3F80] := by decide +kernel
/-- File 05, the example after Table 5.4: scales and conversions of an E4M3 tile. -/
theorem test_scales : [scaleOf 3 0x40600000, scaleOf 3 0x40A00000, scaleOf 3 0x42C80000] = [0x3C000000, 0x3C36DB6E, 0x3E64924A] ∧
    ([⟨128, 1⟩, ⟨640, 1⟩, ⟨3, 1024⟩, ⟨1, 8192⟩] : List Fr).map (fun q => convert 3 .rne (.fin q)) = [0x70, 0x7E, 0x02, 0x00] := by decide +kernel
/-- File 07, Table 7.6: a sum of five. -/
theorem test_reductionTree : (redTree 0 (f32 0x4B800000 :: List.replicate 4 one)).to32 = 0x4B800002 := by decide +kernel
/-- File 08, Table 8.5: warm-up and cosine decay. -/
def schedEx (pos : Nat) : Sched := { job := 1, restart := 0, pos := pos, segs := [{ type := 1, len := 1024, v0 := 0, v1 := 0x3A800000, param := 0 },
  { type := 2, len := 8192, v0 := 0x3A800000, v1 := 0, param := 0 }] }
theorem test_schedule : [512, 1024, 9216].map (fun p => (schedEx p).valueNow) = [0x3A000000, 0x3A800000, 0] := by decide +kernel
theorem test_schedule_midpoint : (schedEx 5120).valueNow = 0x39FFFFFF := by decide +kernel
/-- File 13, Table 13.4: codes and lanes of one block. -/
def blkA : List Val := [f32 0x40400000, f32 0x2C400000]
def blkB : List Val := [f32 0xBFA00000, f32 0x2C000000]
def blkC : List Val := [f32 0x3F000000, .zero false]
theorem test_codes : [blkA, blkB, blkC].map localCode = [0x80, 0x7F, 0x7E] := by decide +kernel
theorem test_lanes : [blkA, blkB, blkC].map (fun b => b.map (ssiIn · 0x80)) =
    [[some 0xC000000000, some 1], [some (-0x5000000000), some 0], [some 0x2000000000, some 0]] := by decide +kernel
theorem test_lanes_wide : (ssiIn (.fin ⟨8, 1⟩) 0x6A).map narrow = some false ∧ ssiIn (.fin ⟨-1, 2 ^ 20⟩) 0x6A = some (-2 ^ 40) ∧ predByte 0x82 = 0x84 := by
  decide +kernel
/-- File 13, the group of the same example: A is the root of shard 0, B and C its children. -/
theorem test_treeOfThree : (g3.parent 0 1, g3.parent 0 2, g3.children 0 0) = (some 0, some 0, [1, 2]) := by decide +kernel
/-- File 12, R423 names CRC-32C: its published check value is that of the nine digits from 1 on. -/
theorem test_crc32c : crc32c 9 0x393837363534333231 = 0xE3069283 := by decide +kernel
/-- File 09, the example after Table 9.5: chunk 1,000 before and after pseudo-channel 5 is mapped out. -/
theorem test_mapOut : StackSt.pcOf {} (256 * 1000) = 8 ∧ StackSt.pcOf { pc := [(5, { mapped := true })] } (256 * 1000) = 9 := by decide +kernel
/-- File 12, "one beacon exchange": the path delay of 496.5 ns and the offset of +15.75 ns, in 1/256 ns. -/
def bcnEx : BeaconBody := { bcn with txTime := 1000600, echoTx := 1000000, echoRx := 1000512, echoRxF := 64 }
def mBcn : Mod := (({ mNear with tb := { mNear.tb with nanoTicks := 1001080750000000, gm := 1 } } : Mod).hear 63 bcn).beacon 63 2 bcnEx
theorem test_beaconExample : (mBcn.port! 63).delays = [127104] ∧ mBcn.tb.theta = 4032 := by decide +kernel

end Sys2Proof.Tests
end

section
/-! PROOFS of 00_scope. The kinds of row by what each changes; a register write by R14; every command runs but for the write
that breaks it. -/
namespace Sys2Proof.Machine

/-! ### The kinds of row -/

/-- How a command's row takes effect: by one commit of a module, through `runE` (it also sets the recorder), through `onStrongbox`,
or by branching between such forms or joining two of them. -/
inductive RowKind
  | moduleOnly | recorder | strongbox | composite

/-- The kind of each command's row. -/
def rowKind : Instr → RowKind
  | .evrClear .. | .evrFreeze .. | .evrThaw .. | .flushDone | .freezeExpired | .opsecPersist | .perstDeassert
  | .railsInRegulation | .rateWindowClose => .recorder
  | .busbarBelow40v _ | .energyAccumulate .. | .energyNvmWrite | .metrologySignedTransfer .. | .sealLoopOpen
  | .strongboxFrameSend _ => .strongbox
  | .bootComplete | .inputApplied _ | .registerWrite .. | .startupFail | .strongboxPrivateRead .. => .composite
  | _ => .moduleOnly

theorem exec_of_moduleOnly {c : Instr} (h : rowKind c = .moduleOnly) (s : State) : ∃ m, exec c s = .next (s.commit m) := by
  cases c with
  | evrClear | evrFreeze | evrThaw | flushDone | freezeExpired | opsecPersist | perstDeassert | railsInRegulation
  | rateWindowClose | busbarBelow40v | energyAccumulate | energyNvmWrite | metrologySignedTransfer | sealLoopOpen
  | strongboxFrameSend | bootComplete | inputApplied | registerWrite | startupFail | strongboxPrivateRead => cases h
  | _ => exact ⟨_, rfl⟩

theorem exec_of_recorder {c : Instr} (h : rowKind c = .recorder) (s : State) : ∃ f, exec c s = runE f s := by
  cases c with
  | evrClear => exact ⟨_, exec_evrClear s⟩
  | evrFreeze => exact ⟨_, exec_evrFreeze s⟩
  | evrThaw => exact ⟨_, exec_evrThaw s⟩
  | flushDone => exact ⟨_, exec_flushDone s⟩
  | freezeExpired => exact ⟨_, exec_freezeExpired s⟩
  | opsecPersist => exact ⟨_, exec_opsecPersist s⟩
  | perstDeassert => exact ⟨_, exec_perstDeassert s⟩
  | railsInRegulation => exact ⟨_, exec_railsInRegulation s⟩
  | rateWindowClose => exact ⟨_, exec_rateWindowClose s⟩
  | _ => cases h

theorem exec_of_strongbox {c : Instr} (h : rowKind c = .strongbox) (s : State) : ∃ f, exec c s = onStrongbox f s := by
  cases c with
  | busbarBelow40v => exact ⟨_, exec_busbarBelow40v s⟩
  | energyAccumulate => exact ⟨_, exec_energyAccumulate s⟩
  | energyNvmWrite => exact ⟨_, exec_energyNvmWrite s⟩
  | metrologySignedTransfer => exact ⟨_, exec_metrologySignedTransfer s⟩
  | sealLoopOpen => exact ⟨_, exec_sealLoopOpen s⟩
  | strongboxFrameSend => exact ⟨_, exec_strongboxFrameSend s⟩
  | _ => cases h

/-! ### Register writes (R10, R14, R15) -/

section
variable {bar2 wide : Bool} {off : W32} {v : W64} {s : State}

theorem execRegisterWrite_of_broken (h : s.accessOk bar2 off.toNat wide = false) :
    execRegisterWrite bar2 off wide v s = .fault .brokenAccess := by
  simp [execRegisterWrite, h]

theorem execRegisterWrite_of_unreachable (h : s.accessOk bar2 off.toNat wide = true) (hr : s.m.reachable = false) :
    execRegisterWrite bar2 off wide v s = .next s := by
  simp [execRegisterWrite, h, hr]

theorem execRegisterWrite_doorbell (h : s.accessOk true off.toNat wide = true) (hr : s.m.reachable = true) :
    execRegisterWrite true off wide v s = .next (s.commit (s.m.writeBell off.toNat (v.toNat % 2 ^ 32))) := by
  simp [execRegisterWrite, h, hr, run]

theorem execRegisterWrite_evrStatus (h : s.accessOk false off.toNat wide = true) (hr : s.m.reachable = true)
    (ho : off.toNat = 0x40000) : execRegisterWrite false off wide v s =
      .next { s with evr := { s.evr with stgOvf := s.evr.stgOvf && !bit v.toNat 30 } } := by
  rw [ho] at h
  simp [execRegisterWrite, h, hr, ho]

theorem execRegisterWrite_register (h : s.accessOk false off.toNat wide = true) (hr : s.m.reachable = true)
    (ho : off.toNat ≠ 0x40000) :
    execRegisterWrite false off wide v s = .next (s.commit (s.m.writeReg off.toNat v.toNat)) := by
  simp [execRegisterWrite, h, hr, ho, run]

end

/-! ### The queue of waiting commands -/

/-- The outcome is a next state with the queue of waiting commands of `s`. -/
def KeepsQueue (s : State) (o : Host.Outcome State Fault Refusal) : Prop := ∃ t, o = .next t ∧ t.pending = s.pending

theorem keepsQueue_next {s t : State} (h : t.pending = s.pending) : KeepsQueue s (.next t) := ⟨t, rfl, h⟩

theorem keepsQueue_commit (s : State) (m : Mod) : KeepsQueue s (.next (s.commit m)) := keepsQueue_next (State.commit_pending s m)

theorem keepsQueue_runE (f : Evr → Mod → Mod × Evr) (s : State) : KeepsQueue s (runE f s) :=
  keepsQueue_next (State.commit_pending _ _)

theorem keepsQueue_onStrongbox (f : Strongbox → Strongbox) (s : State) : KeepsQueue s (onStrongbox f s) := keepsQueue_next rfl

theorem execBootComplete_keepsQueue (s : State) : KeepsQueue s (execBootComplete s) := by
  unfold execBootComplete
  split
  · exact keepsQueue_next rfl
  · dsimp only
    split
    · exact keepsQueue_commit s _
    · exact keepsQueue_next (by simp only [State.commit_pending])

theorem execStartupFail_keepsQueue (s : State) : KeepsQueue s (execStartupFail s) := by
  unfold execStartupFail
  split
  · exact keepsQueue_commit s _
  · split
    · exact keepsQueue_next (by simp only [State.commit_pending])
    · exact keepsQueue_commit s _

theorem execInputApplied_keepsQueue (mv : Nat) (s : State) : KeepsQueue s (execInputApplied mv s) := by
  unfold execInputApplied
  dsimp only
  split
  · exact keepsQueue_next rfl
  · exact keepsQueue_next (State.commit_pending _ _)

theorem execStrongboxPrivateRead_keepsQueue (off len : Nat) (s : State) : KeepsQueue s (execStrongboxPrivateRead off len s) := by
  unfold execStrongboxPrivateRead
  split
  · exact keepsQueue_commit s _
  · exact keepsQueue_next rfl

/-- A register write that keeps R14 runs, wherever it lands. -/
theorem execRegisterWrite_keepsQueue {bar2 wide : Bool} {off : W32} (v : W64) {s : State}
    (h : s.accessOk bar2 off.toNat wide = true) : KeepsQueue s (execRegisterWrite bar2 off wide v s) := by
  cases hr : s.m.reachable with
  | false => rw [execRegisterWrite_of_unreachable h hr]; exact keepsQueue_next rfl
  | true =>
    cases bar2 with
    | true => rw [execRegisterWrite_doorbell h hr]; exact keepsQueue_commit s _
    | false =>
      by_cases ho : off.toNat = 0x40000
      · rw [execRegisterWrite_evrStatus h hr ho]; exact keepsQueue_next rfl
      · rw [execRegisterWrite_register h hr ho]; exact keepsQueue_commit s _

/-- The commands of composite rows: the register write alone can stop. -/
theorem exec_composite_keepsQueue {c : Instr} (h : rowKind c = .composite) (s : State) : KeepsQueue s (exec c s) ∨
    ∃ b off wide v, c = .registerWrite b off wide v ∧ s.accessOk b off.toNat wide = false ∧ exec c s = .fault .brokenAccess := by
  cases c with
  | bootComplete => exact .inl (execBootComplete_keepsQueue s)
  | startupFail => exact .inl (execStartupFail_keepsQueue s)
  | inputApplied mv => exact .inl (execInputApplied_keepsQueue mv s)
  | strongboxPrivateRead off len => exact .inl (execStrongboxPrivateRead_keepsQueue off len s)
  | registerWrite b off wide v =>
    cases hk : s.accessOk b off.toNat wide with
    | true => exact .inl (execRegisterWrite_keepsQueue v hk)
    | false => exact .inr ⟨b, off, wide, v, rfl, hk, execRegisterWrite_of_broken hk⟩
  | _ => cases h

end Sys2Proof.Machine
end

section
/-! PROOFS of 00_scope: the statements. -/
namespace Sys2Proof.Proofs
open Sys2Proof Sys2Proof.Machine

/-- Settles O46: by the kinds of row. That the write which breaks R14 stops is the model's choice (log entry 47). -/
theorem everyCommandRuns : Obligations.EveryCommandRuns := by
  intro c s
  cases h : rowKind c with
  | moduleOnly =>
    obtain ⟨m, hm⟩ := exec_of_moduleOnly h s
    exact .inl (hm ▸ keepsQueue_commit s m)
  | recorder =>
    obtain ⟨f, hf⟩ := exec_of_recorder h s
    exact .inl (hf ▸ keepsQueue_runE f s)
  | strongbox =>
    obtain ⟨f, hf⟩ := exec_of_strongbox h s
    exact .inl (hf ▸ keepsQueue_onStrongbox f s)
  | composite => exact exec_composite_keepsQueue h s

/-- Settles O13: one lemma for each place a register write reaches. That the write which breaks R14 stops is the model's choice
(log entry 47). -/
theorem registerWriteCompletes : Obligations.RegisterWriteCompletes := by
  intro off wide v s
  refine ⟨fun bar2 h => ?broken, fun hr => ⟨fun h => ?doorbell, fun h ho => ?register, fun h ho => ?evrStatus⟩⟩ <;>
    rw [exec_registerWrite]
  case broken => exact execRegisterWrite_of_broken h
  case doorbell => exact execRegisterWrite_doorbell h hr
  case register => exact execRegisterWrite_register h hr ho
  case evrStatus => exact execRegisterWrite_evrStatus (ho ▸ h) hr ho

end Sys2Proof.Proofs
end

section
/-! PROOFS of 01_organisation. A row that issues a descriptor by R41, R45 to R48 and R52; an engine's work at once; the dispatch of
phases and lookahead; what the engines' own events do where nothing stands in their way. -/
namespace Sys2Proof.Machine

/-! ### The lowest failing cause (R52) -/

theorem lowest_eq_min? (l : List Nat) : lowest l = l.min? := by
  induction l with
  | nil => rfl
  | cons c cs ih => rw [lowest, ih, List.min?_cons]; cases cs.min? <;> rfl

theorem lowest_eq_some_iff {l : List Nat} {cause : Nat} : lowest l = some cause ↔ cause ∈ l ∧ ∀ x ∈ l, cause ≤ x := by
  rw [lowest_eq_min?, List.min?_eq_some_iff]

/-! ### The rows that issue (R41, R45 to R48, R52) -/

/-- The row of each descriptor opcode is one issue of that opcode. -/
theorem exec_of_issueOf {i : Instr} {c : Core} {k : Slot} {op : Nat} (h : issueOf i = some (c, k, op)) :
    ∃ act quench, ∀ s, exec i s = run (fun m => m.issue c k op act quench) s := by
  cases i with
  | arrPass | arrLoad | vecStream | vecReduce | move | prefetch | syncWait | syncSignal | barrier | coll | updLayer
  | rootRefresh | histMark | endList => cases h; exact ⟨_, _, fun _ => rfl⟩
  | _ => cases h

section
variable {act : Mod → Nat → SlotSt → Nat → Mod} {quench : Mod → SlotSt → Nat → Mod} {c k op d : Nat} {sl : SlotSt}

/-- No slot's head is open on a core that is fenced or in its fence. -/
theorem Mod.issue_of_fenced {m : Mod} (h : (m.core! c).fenced = true ∨ (m.core! c).fencing ≠ none) :
    m.issue c k op act quench = m := by
  rcases Mod.issue_cases rfl with hm | ⟨sl, d, t, -, -, ho, -⟩
  · exact hm
  · obtain ⟨hf, hg⟩ := Mod.headOpen_unfenced ho
    simp [hf, hg] at h

theorem State.issue_of_faultsAt {s : State} {cause : Nat} (h : s.faultsAt c k op sl d cause) :
    s.m.issue c k op act quench = s.m.listFault c k sl d cause := by
  obtain ⟨hs, hd, hop, ho, hw, hc⟩ := h
  obtain ⟨t, ht⟩ := List.head?_eq_some_iff.1 hd
  have hl := lowest_eq_some_iff.2 hc
  have hmine : ¬(dOp d ≠ op ∧ dOp d ∈ opcodes) := fun hn => hop.elim hn.1 (· hn.2)
  have hdue : (!waited sl d && !s.m.waitsMet c d && (bindCauses s.m c sl.l.job d).isEmpty) = false := by
    rcases hw with hw | hw | hw <;> simp [hw]
  simp [Mod.issue, hs, ht, ← ne_eq, hmine, ho, hdue, hl]

theorem State.issue_of_issues {s : State} {m : Mod} (h : s.issues c k op sl d m) :
    s.m.issue c k op act quench = (act (s.taken c k sl d m) s.m.ids sl d).settle c := by
  obtain ⟨hs, hd, rfl, ho, hw, hc, hu, hk, hq, hp⟩ := h
  obtain ⟨t, ht⟩ := List.head?_eq_some_iff.1 hd
  have hl : lowest (descCauses s.m c sl d) = none := by rw [hc]; rfl
  simp [Mod.issue, State.taken, hs, ht, ho, hw, hl, hu, hk, hq, hp]

theorem State.issues.opcode {s : State} {m : Mod} (h : s.issues c k op sl d m) : dOp d = op := by
  obtain ⟨-, -, hop, -⟩ := h
  exact hop

theorem State.run_issue_of_issues {s : State} {m : Mod} (h : s.issues c k op sl d m) :
    run (fun m => m.issue c k op act quench) s =
      .next (s.commit ((act (s.taken c k sl d m) s.m.ids sl d).settle c)) := by
  rw [run, State.issue_of_issues h]

end

/-! ### An engine's work (R351) -/

section
variable {m : Mod} {c id : Nat} {f : Infl}

theorem Mod.work_of_arrLoad (h : dOp f.d = opArrLoad) :
    m.work c f = (m.onInfl c f.id fun f => { f with worked := true }).fillSets c f := by
  unfold Mod.work; rw [h]; rfl

theorem Mod.work_of_arrPass (h : dOp f.d = opArrPass) {m' : Mod} (hm : m' = m.onInfl c f.id fun f => { f with worked := true }) :
    m.work c f = m'.runPass c f.job f.d (((m'.arr! c ((passOp f.d).array % 2)).sets).getD f.set {}) f.cols := by
  subst hm; unfold Mod.work; rw [h]; rfl

theorem Mod.work_of_vecStream (h : dOp f.d = opVecStream) :
    m.work c f = (m.onInfl c f.id fun f => { f with worked := true }).runVec c f.task f.job f.d false := by
  unfold Mod.work; rw [h]; rfl

theorem Mod.work_of_vecReduce (h : dOp f.d = opVecReduce) :
    m.work c f = (m.onInfl c f.id fun f => { f with worked := true }).runVec c f.task f.job f.d true := by
  unfold Mod.work; rw [h]; rfl

variable (hf : m.infl? c id = some f) (hw : m.mayWork c f = true)
include hf hw

theorem Mod.issueVec_of_mayWork : m.issueVec c id = m.work c f := by simp [Mod.issueVec, Mod.tryWork, hf, hw]

theorem Mod.engineStep_of_mayWork :
    m.engineStep c id = if dOp f.d = opArrPass then (m.work c f).residueCheck c f else m.work c f := by
  simp [Mod.engineStep, hf, hw]

end

/-! ### The dispatch of phases (R30 to R32) -/

section
variable {m : Mod} {job : Nat} {j : Job} {r : Run}

/-- Nothing holds the step back that a job runs: the module serves, the step is not halted, waits for no replay and has no verdict
that is not finite, and the job is not halted between steps. -/
structure Mod.Dispatching (m : Mod) (job : Nat) (j : Job) (r : Run) : Prop where
  job : m.job? job = some j
  run : j.run = some r
  serving : m.serving = true
  runs : r.halted = false
  noReplay : r.replay = none
  notBad : r.verdict ≠ some false
  jobRuns : j.halted = false

theorem Mod.dropStopped_of_jobRuns (hj : m.job? job = some j) (h : j.halted = false) : m.dropStopped job = m := by
  simp [Mod.dropStopped, hj, h]

theorem Mod.phaseDispatch_of_dispatching (h : m.Dispatching job j r) : m.phaseDispatch job =
    if !r.dispatched then m.firstDispatch job j r
    else if 4 ≤ r.phase || m.phaseLeft job r.phase then m
    else if r.phase = 3 then if r.verdict = some true && !m.refreshLeft job then m.dispatchPhase job 4 else m
    else m.dispatchPhase job (r.phase + 1) := by
  obtain ⟨hj, hr, hs, hh, hp, hv, hjh⟩ := h
  simp only [Mod.phaseDispatch, hj, hr, Mod.dropStopped_of_jobRuns hj hjh]
  simp [hs, hh, hp, hv, hjh]

theorem Mod.firstDispatch_of_unstarted {vs : List (Nat × Nat)} (hs : r.started = false) (hm : m.moduleWaits = false)
    (hc : j.captureWaits = false) (hv : m.variants j r r.tasks [] = .ok vs) : m.firstDispatch job j r =
      ((m.onRun job fun r => { r with variantOf := vs }).beginStep job).dispatchPhase job r.phase := by
  simp [Mod.firstDispatch, hs, hm, hc, hv]

theorem Mod.firstDispatch_of_started {vs : List (Nat × Nat)} (hs : r.started = true) (hv : m.variants j r r.tasks [] = .ok vs)
    {m' : Mod} (hm : m' = m.onRun job fun r => { r with variantOf := vs }) : m.firstDispatch job j r =
      (if r.phase = 0 then m'.resumeBars job else m').dispatchPhase job r.phase := by
  simp [Mod.firstDispatch, hs, hv, hm]

end

/-! ### Lookahead (R50, R51) -/

theorem Mod.lookahead_of_open {m : Mod} {c k h : Nat} {t : List Nat} {sl : SlotSt} (hs : Tab.find (m.core! c).slots k = some sl)
    (hr : sl.rest = h :: t) (hb : sl.blocked = none) (hst : sl.stopped = false) (hj : m.halted sl.l.job = false)
    (hc : (m.core! c).fenced = false) (hn : dNoLook h = false) (hw : sl.waitDone = true) : m.lookahead c k =
      (sortTiles (Mod.readsAhead c sl.l.task sl.l.job (if dOp h = opArrLoad then m.tagLoad c 0 sl.l.job h else m)
        (m.aheadOf c (t.take 8))).eraseDups).foldl (fun m p => m.request (tileReq p.1 p.2 c 5 c sl.l.job)) m := by
  simp [Mod.lookahead, hs, hr, hb, hst, hj, hc, hn, hw]

/-! ### The engines' own events (R43, R68, R80, R83, R396) -/

section
variable {m : Mod} {c a id : Nat} {f : Infl}

theorem Mod.loadBegin_of_ready (hq : (m.arr! c a).loads.head? = some id) (hf : m.infl? c id = some f)
    (hr : ∀ i ∈ loadArrays f.d, (m.arr! c i).loads.head? = some f.id ∧ m.setFree c i f = true ∧ m.pathFree c i f = true ∧
      m.arrayOpen c i f = true) (ht : m.firstTile f = true) : m.loadBegin c a =
      ((loadArrays f.d).foldl (fun m i => m.fillHalf c i) (((loadArrays f.d).foldl (fun m i => m.onArr c i fun x => { x with
        loads := x.loads.drop 1
        loadSet := f.setOn i }) m).onInfl c f.id fun f => { f with began := true })).engineStep c f.id := by
  have hall : ((loadArrays f.d).all fun i => decide ((m.arr! c i).loads.head? = some f.id) && m.setFree c i f && m.pathFree c i f &&
      m.arrayOpen c i f) = true := by simpa [and_assoc] using hr
  simp [Mod.loadBegin, hq, hf, hall, ht]

variable (hq : (m.arr! c a).q.head? = some id) (hf : m.infl? c id = some f) (ho : m.arrayOpen c a f = true)
  (ht : m.tokensOut c a f = true)
include hq hf ho ht

theorem Mod.passBegin_of_ready (hd : (passOp f.d).drain = false) (hr : (m.arr! c a).runOut = none)
    (hl : f.load ∉ (m.arr! c a).loads) (hp : m.firstTile f = true) : m.passBegin c a =
      ((m.onArr c a fun x => { x with q := x.q.drop 1, injSet := f.set }).onInfl c f.id fun f => { f with began := true }).engineStep
        c f.id := by
  simp [Mod.passBegin, hq, hf, ho, ht, hd, hr, hl, hp]

theorem Mod.passBegin_of_drainOnly (hd : (passOp f.d).drain = true) : m.passBegin c a =
      ((m.onArr c a fun x => { x with q := x.q.drop 1 }).onInfl c f.id fun f => { f with began := true }).engineStep c f.id := by
  simp [Mod.passBegin, hq, hf, ho, ht, hd]

end

theorem Mod.descriptorRetire_of_mayRetire {m : Mod} {c id : Nat} {f : Infl} (st : Stats) (hf : m.infl? c id = some f)
    (hr : m.mayRetire c f = true) : m.descriptorRetire c id st =
      (((m.retireWork c f st).panCnt c 0x38 st.panDefer).retire c id true).drive := by
  simp [Mod.descriptorRetire, hf, hr]

theorem Mod.remoteAct_of_unfenced {m m' : Mod} {src dst obj : Nat} {r : Nat × Nat × Bool × Nat × Nat}
    (hr : ((m.core! src).remote.find? fun r => r.1 = dst && r.2.1 = obj) = some r)
    (hm : m' = m.onCore src fun x => { x with remote := x.remote.erase r }) (hd : (m'.core! dst).fenced = false) :
    m.remoteAct src dst obj =
      (((m'.signal dst obj r.2.2.1 r.2.2.2.1).retireCore src r.2.2.2.2 true).settle dst).settle src := by
  subst hm
  simp [Mod.remoteAct, hr, hd]

end Sys2Proof.Machine
end

section
/-! PROOFS of 01_organisation: the statements. -/
namespace Sys2Proof.Proofs
open Sys2Proof Sys2Proof.Machine

/-- Settles O14: every row that issues is one `Mod.issue`. That a vector descriptor does its work in the instant of its issue is the
model's choice (log entry 54). -/
theorem descriptorsIssue : Obligations.DescriptorsIssue := by
  intro c k s sl d m
  refine ⟨State.run_issue_of_issues, State.run_issue_of_issues, State.run_issue_of_issues, State.run_issue_of_issues,
    fun f hf hd hw => ?works, State.run_issue_of_issues, State.run_issue_of_issues, State.run_issue_of_issues,
    State.run_issue_of_issues, State.run_issue_of_issues, State.run_issue_of_issues, State.run_issue_of_issues,
    State.run_issue_of_issues, State.run_issue_of_issues, State.run_issue_of_issues⟩
  case works =>
    subst hd
    refine ⟨fun h => ?_, fun h => ?_⟩
    · have hop : dOp f.d = opVecStream := h.opcode
      rw [exec_vecStream, execVecStream, State.run_issue_of_issues h, Mod.issueVec_of_mayWork hf hw, Mod.work_of_vecStream hop]
    · have hop : dOp f.d = opVecReduce := h.opcode
      rw [exec_vecReduce, execVecReduce, State.run_issue_of_issues h, Mod.issueVec_of_mayWork hf hw, Mod.work_of_vecReduce hop]

/-- Settles O15. -/
theorem dispatchCompletes : Obligations.DispatchCompletes := by
  intro job c k s
  refine ⟨fun j r hj hr hs hh hp hv hjh => ?dispatch, fun sl h t hs hr hb hst hj hc hn hw m hm => ?lookahead⟩
  case dispatch =>
    have hrun : s.m.Dispatching job.toNat j r := ⟨hj, hr, hs, hh, hp, hv, hjh⟩
    rw [exec_phaseDispatch, execPhaseDispatch, run, Mod.phaseDispatch_of_dispatching hrun]
    refine ⟨fun hd hph hl => ?next, fun hd hph hl hok href => ?update,
      fun hd vs hvs m hm => ⟨fun hst hw hc => ?begin, fun hst => ?resume⟩⟩
    case next =>
      have h3 : r.phase ≠ 3 := by omega
      have h4 : ¬ 4 ≤ r.phase := by omega
      simp [hd, hl, h3, h4]
    case update => simp [hd, hph, hl, hok, href]
    case begin => simp [hd, hm, Mod.firstDispatch_of_unstarted hst hw hc hvs]
    case resume => simp [hd, Mod.firstDispatch_of_started hst hvs hm]
  case lookahead => rw [exec_lookahead, execLookahead, run, Mod.lookahead_of_open hs hr hb hst hj hc hn hw, hm]

/-- Settles O16: one lemma for each event. That a load fills its sets, and a pass computes its rows, in one instant is the model's
choice (log entry 54). -/
theorem engineEventsComplete : Obligations.EngineEventsComplete := by
  intro c a s
  refine ⟨fun id f hq hf hr ht => ?load, fun id f hq hf ho ht => ⟨fun hd hr hl hp => ?pass, fun hd => ?drain⟩,
    fun m id f hf hw m' hm => ⟨fun hop => ?fill, fun hop => ?compute⟩, fun id st f hf hr => ?retire,
    fun dst obj r hr m hm hd => ?signal⟩
  case load => rw [exec_arrLoadBegin, execArrLoadBegin, run, Mod.loadBegin_of_ready hq hf hr ht]
  case pass => rw [exec_arrPassStage0, execArrPassStage0, run, Mod.passBegin_of_ready hq hf ho ht hd hr hl hp]
  case drain => rw [exec_arrPassStage0, execArrPassStage0, run, Mod.passBegin_of_drainOnly hq hf ho ht hd]
  case fill =>
    have hne : dOp f.d ≠ opArrPass := by rw [hop]; decide
    rw [Mod.engineStep_of_mayWork hf hw, if_neg hne, Mod.work_of_arrLoad hop, hm]
  case compute => rw [Mod.engineStep_of_mayWork hf hw, if_pos hop, Mod.work_of_arrPass hop hm]
  case retire => rw [exec_descriptorRetire, execDescriptorRetire, run, Mod.descriptorRetire_of_mayRetire st hf hr]
  case signal => rw [exec_remoteSignalAct, execRemoteSignalAct, run, Mod.remoteAct_of_unfenced hr hm hd]

/-- Settles O51: the row is one `Mod.issue`, and the cause that it takes is the least that fails. -/
theorem listFaultStopsTheStep : Obligations.ListFaultStopsTheStep := by
  intro i c k op s sl d cause m hi h hm
  obtain ⟨act, quench, hexec⟩ := exec_of_issueOf hi
  rw [hexec, run, State.issue_of_faultsAt h, hm]
  rfl

/-- Settles O52: no slot's head is open on such a core. -/
theorem fencedCoreIssuesNothing : Obligations.FencedCoreIssuesNothing := by
  intro i c k op s hi h
  obtain ⟨act, quench, hexec⟩ := exec_of_issueOf hi
  rw [hexec, run, Mod.issue_of_fenced h]

end Sys2Proof.Proofs
end

section
/-! PROOFS of 03_array_repair. A residue mismatch with room in the pending list, the replay of passes, the faults of an update unit,
and a localisation test: what each does where nothing stands in its way. -/
namespace Sys2Proof.Machine

/-! ### The residue check and its replay (R114, R115, R117, R118) -/

section
variable {m m' : Mod} {c a id g ph : Nat} {f : Infl} {pay : List (Nat × Nat × Nat)}
  (hf : ((m.begunPasses c a).find? fun f => f.id = id) = some f) (hp : m.powered c = true) (hq : (m.arr! c a).pend.length < 16)
  (hpay : pay = [(0, 1, c), (1, 1, a), (2, 2, f.job), (4, 4, dSeq f.d), (8, 1, g), (9, 1, f.replays), (10, 2, ph)])
  (hm : m' = ((m.arrCnt c a 0x108 1).ev 0x1101 1 pay).onArr c a fun x => { x with pend := x.pend ++ [(g, ph)] })
include hf hp hq hpay hm

theorem Mod.mismatch_of_runningOut {p : Nat} (hr : (m.arr! c a).runOut = some p) (hle : p ≤ id) : m.mismatch c a id g ph = m' := by
  subst hpay hm
  simp [Mod.mismatch, hf, hp, hq, hr, hle]

theorem Mod.mismatch_of_notRunningOut (hr : ∀ p, (m.arr! c a).runOut = some p → id < p) : m.mismatch c a id g ph =
    if f.replays < 2 then m'.onArr c a fun x => { x with runOut := some id } else m'.coreFault c 0x1102 pay := by
  subst hpay hm
  cases h : (m.arr! c a).runOut with
  | none => simp [Mod.mismatch, hf, hp, hq, h]
  | some p => simp [Mod.mismatch, hf, hp, hq, h, Nat.not_le.2 (hr p h)]

end

theorem Mod.passReplay_of_runOut {m m' : Mod} {c a p : Nat} {fs : List Infl} (hr : (m.arr! c a).runOut = some p)
    (hfs : fs = (m.begunPasses c a).filter fun f => decide (p ≤ f.id))
    (hm : m' = m.onCore c fun x => { x with
      infl := x.infl.map fun (f : Infl) =>
        if (fs.map fun (f : Infl) => f.id).contains f.id then { f with replays := f.replays + 1 } else f }) :
    m.passReplay c a = fs.foldl (fun m f => m.slotsReleased c f) ((m'.onArr c a fun x => { x with
      runOut := none
      replays := fs.map (·.id) }).arrCnt c a 0x110 (fs.map (·.id)).length) := by
  subst hfs hm
  simp only [Mod.passReplay, hr]

/-! ### Update units (R262, R280, R607) -/

theorem Mod.lastAttempt_of_run {m : Mod} {job : Nat} {r : Run} (die : Nat) (hr : m.run? job = some r) : m.lastAttempt job die =
    if 8 ≤ r.attempt ∧ r.halted = false ∧ r.verdict ≠ some false then m.fatalFail 5 die else m := by
  simp [Mod.lastAttempt, hr, and_assoc]

theorem Mod.lastAttempt_of_noRun {m : Mod} {job : Nat} (die : Nat) (hr : m.run? job = none) : m.lastAttempt job die = m := by
  simp [Mod.lastAttempt, hr]

section
variable {m : Mod} {u id l : Nat} {t : List (Nat × Nat)} (hq : (m.unit! u).q = (id, l) :: t)
include hq

theorem Mod.unitFault_of_share {m' : Mod} (hm : m' = ({ m with free := m.free + 1 }.onUnit u fun x => { x with
      resuming := true
      next := m.nextBlock l u
      staged := m.stagedValues l ((m.blocksLeft l u).take stageBlocks) }).ev 0x3031 2 [(0, 1, u), (1, 2, l), (4, 8, m.nextBlock l u)]) :
    m.unitFault u = m'.lastAttempt (m.layer! l).job (u / 8) := by
  subst hm
  simp only [Mod.unitFault, hq]

theorem Mod.unitEcc_uncorrectable {w : Nat} (hs : (m.unit! u).staged ≠ []) (hw : w < blockWords + stageWords) :
    m.unitEcc u w false = ({ m with free := m.free + 1 }.ev 0x3032 3
      [(0, 1, u), (1, 2, l), (4, 8, m.nextBlock l u)]).fatalFail 4 (u / 8) := by
  simp [Mod.unitEcc, hq, hs, Nat.not_le.2 hw]

end

theorem Mod.unitEcc_corrected {m : Mod} {u w : Nat} (ha : m.alive = true) (hw : w < blockWords + stageWords) :
    m.unitEcc u w true = m.ev 0x3030 1 [(0, 1, u), (2, 4, w)] := by
  simp [Mod.unitEcc, ha, Nat.not_le.2 hw]

/-! ### Localisation (R119, R121, R122) -/

theorem Mod.locTest_of_atBoundary {m : Mod} {c a : Nat} (hp : m.powered c = true) (hq : (m.arr! c a).pend ≠ [])
    (ht : (m.arr! c a).testing = false) (hb : m.allAtBoundary = true) (hi : m.arraysIdle c = true) :
    m.locTest c a = m.onArr c a fun x => { x with testing := true } := by
  simp [Mod.locTest, hp, hq, ht, hb, hi]

section
variable {m m' : Mod} {c a : Nat} {e : Nat × Nat} {t : List (Nat × Nat)} (ht : (m.arr! c a).testing = true)
  (hq : (m.arr! c a).pend = e :: t) (hm : m' = m.onArr c a fun x => { x with testing := false, pend := x.pend.drop 1 })
include ht hq hm

theorem Mod.locDone_nothing : m.locDone c a .nothing = m'.ev 0x1110 0 [(0, 1, c), (1, 1, a), (2, 1, 2)] := by
  subst hm
  simp only [Mod.locDone, ht, hq]

theorem Mod.locDone_row {r : Fin 1040} {n : Nat} {m'' : Mod} (hn : n = Tab.get 0 m.nv.mismatch (countKey c a false r) + 1)
    (hm' : m'' = { m' with nv := { m'.nv with mismatch := Tab.set 0 m'.nv.mismatch (countKey c a false r) n } }.ev 0x1110 0
      [(0, 1, c), (1, 1, a), (2, 1, 0), (3, 2, r), (5, 1, n)]) : m.locDone c a (.row r) =
    if n = 4 then (m''.ev 0x1120 0 [(0, 1, c), (1, 1, a), (2, 1, 0), (3, 2, r)]).repair c a false r else m'' := by
  subst hm hn hm'
  simp [Mod.locDone, ht, hq, b2n]

end

end Sys2Proof.Machine
end

section
/-! PROOFS of 03_array_repair: the statements. -/
namespace Sys2Proof.Proofs
open Sys2Proof Sys2Proof.Machine

/-- Settles O19: one lemma for each event. That an update unit's fault in the eighth attempt is fatal, though it asks for no replay, is
deduced from R607 (log entry 91); that the record of such a fault names the unit's die is the model's choice (log entry 84). -/
theorem arrayAndUnitEventsComplete : Obligations.ArrayAndUnitEventsComplete := by
  intro c a s
  refine ⟨fun g ph id f m hf hp hq pay hpay hm =>
      ⟨fun hr hl => ?firstMismatch, fun hr hl => ?replayFailed, fun p hr hle => ?runningOut⟩,
    fun p fs m hr hfs hm => ?replay, fun u id l t m hq hm => ?unitFault, fun u w ha hw => ?corrected,
    fun u w id l t hq hs hw => ?uncorrectable, fun hp hq ht hb hi => ?test, fun e t ht hq => ?nothing⟩
  case firstMismatch =>
    rw [exec_residueMismatch, execResidueMismatch, run, Mod.mismatch_of_notRunningOut hf hp hq hpay hm hr, if_pos hl]
  case replayFailed =>
    rw [exec_residueMismatch, execResidueMismatch, run, Mod.mismatch_of_notRunningOut hf hp hq hpay hm hr, if_neg (Nat.not_lt.2 hl)]
  case runningOut =>
    rw [exec_residueMismatch, execResidueMismatch, run, Mod.mismatch_of_runningOut hf hp hq hpay hm hr hle]
  case replay => rw [exec_passReplay, execPassReplay, run, Mod.passReplay_of_runOut hr hfs hm]
  case unitFault =>
    rw [exec_updUnitFault, execUpdUnitFault, run, Mod.unitFault_of_share hq hm]
    cases hr : m.run? (s.m.layer! l).job with
    | none => rw [Mod.lastAttempt_of_noRun _ hr]
    | some r => rw [Mod.lastAttempt_of_run _ hr]
  case corrected => rw [exec_updBufferEccError, execUpdBufferEccError, run, Mod.unitEcc_corrected ha hw]
  case uncorrectable => rw [exec_updBufferEccError, execUpdBufferEccError, run, Mod.unitEcc_uncorrectable hq hs hw]
  case test => rw [exec_localisationTest, execLocalisationTest, run, Mod.locTest_of_atBoundary hp hq ht hb hi]
  case nothing => rw [exec_localisationTestDone, execLocalisationTestDone, run, Mod.locDone_nothing ht hq rfl]

/-- Settles O20. -/
theorem fourthMismatchRepairs : Obligations.FourthMismatchRepairs := by
  intro c a r s e t m ht hq hm n m' hn hm'
  rw [exec_localisationTestDone, execLocalisationTestDone, run, Mod.locDone_row ht hq hm hn hm']

end Sys2Proof.Proofs
end

section
/-! PROOFS of 04_numerics. Fractions as rationals, the exponent and the nearest integer of one, a grid point's code, and the round trip
of a code through its own format. -/
namespace Sys2Proof.Machine

/-! ### The nearest integer -/

theorem Fr.rne_cases {x : Fr} {q r : Nat} (hq : x.num.natAbs / x.den = q) (hr : x.num.natAbs % x.den = r) :
    (x.rne = q + 1 ∧ (x.den < 2 * r ∨ 2 * r = x.den ∧ q % 2 = 1)) ∨ (x.rne = q ∧ (2 * r < x.den ∨ 2 * r = x.den ∧ q % 2 = 0)) := by
  subst hq hr
  simp only [Fr.rne]
  split <;> omega

/-- R158, R159: within a half of the fraction, and even where a half away. -/
theorem Fr.rne_nearest_even {x : Fr} (hn : 0 ≤ x.num) (hd : 0 < x.den) :
    (2 * ((x.rne : Int) * x.den - x.num)).natAbs ≤ x.den ∧
      ((2 * ((x.rne : Int) * x.den - x.num)).natAbs = x.den → x.rne % 2 = 0) := by
  obtain ⟨q, hq⟩ : ∃ q, x.num.natAbs / x.den = q := ⟨_, rfl⟩
  obtain ⟨r, hr⟩ : ∃ r, x.num.natAbs % x.den = r := ⟨_, rfl⟩
  have hnum : x.num = (q : Int) * x.den + r := by
    have h := Nat.div_add_mod x.num.natAbs x.den
    rw [hq, hr] at h
    rw [← Int.natAbs_of_nonneg hn, ← h]
    push_cast
    ring
  have hlt : r < x.den := hr ▸ Nat.mod_lt _ hd
  obtain ⟨h, hup⟩ | ⟨h, hdown⟩ := Fr.rne_cases hq hr
  · have hdist : ((x.rne : Int) * x.den - x.num) = x.den - r := by rw [h, hnum]; push_cast; ring
    rw [hdist]
    omega
  · have hdist : ((x.rne : Int) * x.den - x.num) = -r := by rw [h, hnum]; ring
    rw [hdist]
    omega

/-! ### Fractions as rationals -/

/-- The rational a fraction stands for. -/
def Fr.toRat (a : Fr) : ℚ := a.num / a.den

theorem Fr.norm_den_pos (n : Int) {d : Nat} (hd : 0 < d) : 0 < (Fr.norm n d).den := by
  simp only [Fr.norm]
  split
  · exact hd
  · exact Nat.div_pos (Nat.gcd_le_right _ hd) (Nat.gcd_pos_of_pos_right _ hd)

theorem Fr.norm_toRat (n : Int) (d : Nat) : (Fr.norm n d).toRat = n / d := by
  simp only [Fr.norm]
  split
  · rfl
  next hg =>
    have hg0 : (Nat.gcd n.natAbs d : ℚ) ≠ 0 := by exact_mod_cast (by omega : Nat.gcd n.natAbs d ≠ 0)
    have hn : (Nat.gcd n.natAbs d : Int) ∣ n := Int.natCast_dvd.2 (Nat.gcd_dvd_left _ _)
    simp only [Fr.toRat]
    rw [Int.cast_div hn (by exact_mod_cast hg0), Nat.cast_div (Nat.gcd_dvd_right _ _) hg0, Int.cast_natCast,
      div_div_div_cancel_right₀ hg0]

theorem Fr.mul_den_pos {a b : Fr} (ha : 0 < a.den) (hb : 0 < b.den) : 0 < (a.mul b).den :=
  Fr.norm_den_pos _ (Nat.mul_pos ha hb)

@[simp] theorem Fr.mul_toRat (a b : Fr) : (a.mul b).toRat = a.toRat * b.toRat := by
  rw [Fr.mul, Fr.norm_toRat, Fr.toRat, Fr.toRat, Int.cast_mul, Nat.cast_mul, mul_div_mul_comm]

@[simp] theorem Fr.ofInt_toRat (n : Int) : (Fr.ofInt n).toRat = n := by simp [Fr.ofInt, Fr.toRat]

@[simp] theorem Fr.neg_toRat (a : Fr) : a.neg.toRat = -a.toRat := by simp [Fr.neg, Fr.toRat, neg_div]

@[simp] theorem Fr.abs_toRat (a : Fr) : a.abs.toRat = |a.toRat| := by simp [Fr.abs, Fr.toRat, abs_div, Nat.cast_natAbs]

theorem Fr.pow2_den_pos (e : Int) : 0 < (Fr.pow2 e).den := by
  unfold Fr.pow2
  split
  · exact Nat.one_pos
  · exact Nat.two_pow_pos _

@[simp] theorem Fr.pow2_toRat (e : Int) : (Fr.pow2 e).toRat = 2 ^ e := by
  unfold Fr.pow2
  split
  next h =>
    lift e to ℕ using h
    simp [Fr.toRat]
  next h =>
    obtain ⟨k, rfl⟩ : ∃ k : ℕ, e = -k := ⟨(-e).toNat, by omega⟩
    simp [Fr.toRat]

theorem Fr.le_iff_toRat_le {a b : Fr} (ha : 0 < a.den) (hb : 0 < b.den) : a.le b = true ↔ a.toRat ≤ b.toRat := by
  have ha' : (0 : ℚ) < a.den := by exact_mod_cast ha
  have hb' : (0 : ℚ) < b.den := by exact_mod_cast hb
  rw [Fr.le, decide_eq_true_iff, Fr.toRat, Fr.toRat, div_le_div_iff₀ ha' hb']
  exact_mod_cast Iff.rfl

theorem Fr.neg?_iff_toRat_neg {a : Fr} (ha : 0 < a.den) : a.neg? = true ↔ a.toRat < 0 := by
  have ha' : (0 : ℚ) < a.den := by exact_mod_cast ha
  rw [Fr.neg?, decide_eq_true_iff, Fr.toRat, div_lt_iff₀ ha', zero_mul, Int.cast_lt_zero]

/-! ### The binade of a fraction -/

theorem natLog2_bounds {n : Nat} (hn : n ≠ 0) : (2 : ℚ) ^ (Nat.log2 n : Int) ≤ n ∧ (n : ℚ) < 2 ^ ((Nat.log2 n : Int) + 1) := by
  constructor
  · exact_mod_cast Nat.log2_self_le hn
  · exact_mod_cast Nat.lt_log2_self (n := n)

theorem Fr.abs_between_pow2 {a : Fr} (hd : 0 < a.den) (ha : a.num ≠ 0) {e : Int}
    (he : e = (Nat.log2 a.num.natAbs : Int) - (Nat.log2 a.den : Int)) : 2 ^ (e - 1) < |a.toRat| ∧ |a.toRat| < 2 ^ (e + 1) := by
  obtain ⟨hn1, hn2⟩ := natLog2_bounds (Int.natAbs_ne_zero.2 ha)
  obtain ⟨hd1, hd2⟩ := natLog2_bounds hd.ne'
  have hd' : (0 : ℚ) < a.den := by exact_mod_cast hd
  rw [← Fr.abs_toRat, Fr.toRat, Fr.abs, Int.cast_natCast, lt_div_iff₀ hd', div_lt_iff₀ hd']
  constructor
  · calc (2 : ℚ) ^ (e - 1) * a.den < 2 ^ (e - 1) * 2 ^ ((Nat.log2 a.den : Int) + 1) := by gcongr
      _ = 2 ^ (Nat.log2 a.num.natAbs : Int) := by rw [← zpow_add₀ two_ne_zero, he]; congr 1; ring
      _ ≤ a.num.natAbs := hn1
  · calc (a.num.natAbs : ℚ) < 2 ^ ((Nat.log2 a.num.natAbs : Int) + 1) := hn2
      _ = 2 ^ (e + 1) * 2 ^ (Nat.log2 a.den : Int) := by rw [← zpow_add₀ two_ne_zero, he]; congr 1; ring
      _ ≤ 2 ^ (e + 1) * a.den := by gcongr

theorem Fr.log2_bounds {a : Fr} (hd : 0 < a.den) (ha : a.num ≠ 0) : 2 ^ a.log2 ≤ |a.toRat| ∧ |a.toRat| < 2 ^ (a.log2 + 1) := by
  obtain ⟨hlo, hhi⟩ := Fr.abs_between_pow2 hd ha rfl
  have hle := Fr.le_iff_toRat_le (b := a.abs) (Fr.pow2_den_pos (Nat.log2 a.num.natAbs - Nat.log2 a.den)) hd
  rw [Fr.pow2_toRat, Fr.abs_toRat] at hle
  unfold Fr.log2
  dsimp only
  split
  next h => exact ⟨hle.1 h, hhi⟩
  next h => exact ⟨hlo.le, by simpa using mt hle.2 h⟩

/-! ### The code of a grid point -/

theorem Fr.rne_of_toRat_natCast {x : Fr} {n : Nat} (hd : 0 < x.den) (h : x.toRat = n) : x.rne = n := by
  have hd' : (x.den : ℚ) ≠ 0 := by exact_mod_cast hd.ne'
  have hnum : x.num = (n * x.den : Nat) := by
    rw [Fr.toRat, div_eq_iff hd'] at h
    exact_mod_cast h
  have hq : x.num.natAbs / x.den = n := by rw [hnum, Int.natAbs_natCast, Nat.mul_div_cancel _ hd]
  have hr : x.num.natAbs % x.den = 0 := by rw [hnum, Int.natAbs_natCast, Nat.mul_mod_left]
  obtain ⟨-, hup⟩ | ⟨h, -⟩ := Fr.rne_cases hq hr
  · omega
  · exact h

/-- A grid point's significand `m` and binade `e`: below 2^(f+1), and at least 2^f but in the lowest binade (R159). -/
structure Fmt.GridPoint (t : Fmt) (m : Nat) (e : Int) : Prop where
  pos : 0 < m
  lt : m < 2 ^ (t.f + 1)
  ge : 1 - t.bias ≤ e
  normal : 2 ^ t.f ≤ m ∨ e = 1 - t.bias

theorem natPow_mul_zpow (f : Nat) (e : Int) : ((2 ^ f : Nat) : ℚ) * 2 ^ e = 2 ^ ((f : Int) + e) := by
  rw [zpow_add₀ two_ne_zero, zpow_natCast, Nat.cast_pow, Nat.cast_ofNat]

theorem Fmt.GridPoint.max_log2 {t : Fmt} {m : Nat} {e : Int} {q : Fr} (g : t.GridPoint m e) (hd : 0 < q.den)
    (hq : |q.toRat| = m * 2 ^ (e - t.f)) : max q.log2 (1 - t.bias) = e := by
  obtain ⟨hpos, hlt, hge, hnormal⟩ := g
  have hnum : q.num ≠ 0 := by
    intro h
    have hzero : q.toRat = 0 := by simp [Fr.toRat, h]
    have hmag : (0 : ℚ) < |q.toRat| := by rw [hq]; positivity
    exact hmag.ne' (by rw [hzero, abs_zero])
  obtain ⟨hlo, hhi⟩ := Fr.log2_bounds hd hnum
  have hle : q.log2 < e + 1 := by
    rw [← zpow_lt_zpow_iff_right₀ (one_lt_two (α := ℚ))]
    calc (2 : ℚ) ^ q.log2 ≤ m * 2 ^ (e - t.f) := hq ▸ hlo
      _ < ((2 ^ (t.f + 1) : Nat) : ℚ) * 2 ^ (e - t.f) := by gcongr
      _ = 2 ^ (e + 1) := by rw [natPow_mul_zpow]; congr 1; push_cast; ring
  obtain hm | he := hnormal
  · have hgt : e < q.log2 + 1 := by
      rw [← zpow_lt_zpow_iff_right₀ (one_lt_two (α := ℚ))]
      calc (2 : ℚ) ^ e = ((2 ^ t.f : Nat) : ℚ) * 2 ^ (e - t.f) := by rw [natPow_mul_zpow, add_sub_cancel]
        _ ≤ m * 2 ^ (e - t.f) := by gcongr
        _ < 2 ^ (q.log2 + 1) := hq ▸ hhi
    omega
  · omega

/-- A grid point takes no rounding: its code counts the points below it. -/
theorem Fmt.gridCode_of_gridPoint {t : Fmt} {m : Nat} {e : Int} {q : Fr} (g : t.GridPoint m e) (hd : 0 < q.den)
    (hq : |q.toRat| = m * 2 ^ (e - t.f)) : t.gridCode .rne q = (e + t.bias - 1).toNat * 2 ^ t.f + m := by
  have hindex : (q.abs.mul (Fr.pow2 (t.f - e))).toRat = m := by
    rw [Fr.mul_toRat, Fr.abs_toRat, Fr.pow2_toRat, hq, mul_assoc, ← zpow_add₀ two_ne_zero]
    simp
  unfold Fmt.gridCode
  rw [g.max_log2 hd hq]
  dsimp only [Rnd.index]
  rw [Fr.rne_of_toRat_natCast (Fr.mul_den_pos (a := q.abs) hd (Fr.pow2_den_pos _)) hindex]

/-! ### A code through its own format -/

theorem b2n_bit_of_lt {w n : Nat} (h : w < 2 ^ (n + 1)) : b2n (bit w n) = w / 2 ^ n := by
  have h2 : w / 2 ^ n < 2 := Nat.div_lt_of_lt_mul (by rwa [pow_succ] at h)
  simp only [bit, fld, b2n, pow_one, decide_eq_true_eq]
  generalize w / 2 ^ n = d at h2 ⊢
  split <;> omega

/-- The magnitude that an exponent field and a fraction field stand for (R132). -/
def Fmt.fieldsFr (t : Fmt) (ex fr : Nat) : Fr :=
  if ex = 0 then (Fr.ofInt fr).mul (Fr.pow2 (1 - t.bias - t.f)) else (Fr.ofInt (fr + 2 ^ t.f)).mul (Fr.pow2 ((ex : Int) - t.bias - t.f))

theorem Fmt.fieldsFr_den_pos (t : Fmt) (ex fr : Nat) : 0 < (t.fieldsFr ex fr).den := by
  unfold Fmt.fieldsFr
  split <;> exact Fr.mul_den_pos Nat.one_pos (Fr.pow2_den_pos _)

/-- The fields of a nonzero magnitude code give a grid point, and the code counts the points below it. -/
theorem Fmt.fieldsFr_gridPoint (t : Fmt) {ex fr : Nat} (hfr : fr < 2 ^ t.f) (h0 : ex * 2 ^ t.f + fr ≠ 0) :
    ∃ (m : Nat) (e : Int), t.GridPoint m e ∧ (t.fieldsFr ex fr).toRat = m * 2 ^ (e - t.f) ∧
      (e + t.bias - 1).toNat * 2 ^ t.f + m = ex * 2 ^ t.f + fr := by
  have hlt : 2 ^ (t.f + 1) = 2 ^ t.f + 2 ^ t.f := by rw [pow_succ, mul_two]
  cases ex with
  | zero =>
    refine ⟨fr, 1 - t.bias, ⟨by omega, by omega, le_rfl, .inr rfl⟩, ?_, ?_⟩
    · simp [Fmt.fieldsFr]
    · simp
  | succ k =>
    refine ⟨fr + 2 ^ t.f, (k + 1 : Nat) - t.bias, ⟨by omega, by omega, by omega, .inl (Nat.le_add_left _ _)⟩, ?_, ?_⟩
    · simp [Fmt.fieldsFr]
    · have hexp : (((k + 1 : Nat) : Int) - t.bias + t.bias - 1).toNat = k := by omega
      rw [hexp]
      ring

theorem Fmt.decode_of_isFinite {t : Fmt} {w mag : Nat} (hm : w % 2 ^ (t.e + t.f) = mag) (h : (t.decode w).isFinite = true) :
    (mag = 0 ∧ t.decode w = .zero (bit w (t.e + t.f))) ∨
    (mag ≠ 0 ∧ mag ≤ t.maxFin ∧ t.decode w = .fin (if bit w (t.e + t.f) then (t.fieldsFr (mag / 2 ^ t.f) (mag % 2 ^ t.f)).neg
      else t.fieldsFr (mag / 2 ^ t.f) (mag % 2 ^ t.f))) := by
  revert h
  simp only [Fmt.decode, hm]
  split
  next h0 => exact fun _ => .inl ⟨h0, rfl⟩
  next h0 =>
    split
    next hle => exact fun _ => .inr ⟨h0, hle, rfl⟩
    next => split <;> intro h <;> cases h

/-- The sign and the grid point of a finite nonzero value, put together again. -/
theorem Fmt.encode_rne_of_gridPoint {t : Fmt} {m : Nat} {e : Int} {q : Fr} (g : t.GridPoint m e) (hd : 0 < q.den) (neg : Bool)
    (hq : q.toRat = m * 2 ^ (e - t.f)) (hmax : (e + t.bias - 1).toNat * 2 ^ t.f + m ≤ t.maxFin) :
    t.encode .rne (.fin (if neg then q.neg else q)) = b2n neg * 2 ^ (t.e + t.f) + ((e + t.bias - 1).toNat * 2 ^ t.f + m) := by
  have hpos : 0 < q.toRat := by
    have hm := g.pos
    rw [hq]
    positivity
  have hden : 0 < (if neg then q.neg else q).den := by split <;> exact hd
  have habs : |(if neg then q.neg else q).toRat| = m * 2 ^ (e - t.f) := by
    rw [← hq, ← abs_of_pos hpos]
    split <;> simp
  have hneg : (if neg then q.neg else q).neg? = neg := by
    rw [Bool.eq_iff_iff, Fr.neg?_iff_toRat_neg hden]
    cases neg
    · simpa using hpos.le
    · simpa using hpos
  simp only [Fmt.encode, Fmt.gridCode_of_gridPoint g hden habs, hneg, if_pos hmax]

/-- Of any format: the value of a finite code, converted to the format, gives the code (R132, R159). -/
theorem Fmt.encode_rne_decode {t : Fmt} {w : Nat} (hw : w < 2 ^ (t.e + t.f + 1)) (hfin : (t.decode w).isFinite = true) :
    t.encode .rne (t.decode w) = w := by
  obtain ⟨mag, hm⟩ : ∃ mag, w % 2 ^ (t.e + t.f) = mag := ⟨_, rfl⟩
  have hsplit : b2n (bit w (t.e + t.f)) * 2 ^ (t.e + t.f) + mag = w := by rw [b2n_bit_of_lt hw, ← hm, Nat.div_add_mod']
  obtain ⟨h0, hdec⟩ | ⟨h0, hmax, hdec⟩ := Fmt.decode_of_isFinite hm hfin
  · rw [hdec]
    simpa [Fmt.encode, h0] using hsplit
  · have hfields := Nat.div_add_mod' mag (2 ^ t.f)
    obtain ⟨m, e, g, hq, hcode⟩ := t.fieldsFr_gridPoint (Nat.mod_lt mag (Nat.two_pow_pos t.f)) (hfields.symm ▸ h0)
    rw [hfields] at hcode
    rw [hdec, Fmt.encode_rne_of_gridPoint g (t.fieldsFr_den_pos _ _) _ hq (hcode ▸ hmax), hcode, hsplit]

/-- The width of an element of a floating-point format (Table 4.1): its sign, exponent and fraction. -/
theorem fmtBits_eq_fmtOf {f : Nat} (hf : f ≤ 7) : fmtBits f = (fmtOf f).e + (fmtOf f).f + 1 := by
  interval_cases f <;> rfl

end Sys2Proof.Machine
end

section
/-! PROOFS of 04_numerics: the statements. -/
namespace Sys2Proof.Proofs
open Sys2Proof Sys2Proof.Machine

/-- Settles O59: the remainder decides the rounded integer; a finite code is a point of its format's grid, which conversion leaves. -/
theorem conversionRoundsToNearest : Obligations.ConversionRoundsToNearest := by
  refine ⟨fun x hn hd => Fr.rne_nearest_even hn hd, fun f w _ hf hw hfin => ?_⟩
  rw [fmtBits_eq_fmtOf hf] at hw
  exact Fmt.encode_rne_decode hw hfin

end Sys2Proof.Proofs
end

section
/-! PROOFS of 05_numeric_watch. What each register row makes of the module where nothing stands in its way. -/
namespace Sys2Proof.Machine

section
variable {m : Mod} {v : Nat}

/-! ### The histogram snapshot (R202) -/

theorem Mod.histSelect_of_class (h : fld v 16 2 ≠ 3) : m.histSelect v = { m with num := { m.num with
    hselBank := fld v 20 1
    hselClass := fld v 16 2
    hselLayer := fld v 0 14
    busy := true
    snapValid := false
    next := m.histWin (decide (fld v 20 1 = 0)) (fld v 0 14) (fld v 16 2) } } := if_neg h

theorem Mod.histDone_of_busy (h : m.num.busy = true) : m.histDone = { m with num := { m.num with
    busy := false
    snap := m.num.next
    snapValid := m.num.hselBank = 0 || m.num.next.closed } } := if_pos h

/-! ### Registers of the Cellar and the Pantry (R299, R307, R330) -/

theorem Mod.celGang_of_noJobs (h : m.jobs = []) : m.celGang v = { m with cel := { m.cel with
    gang := [fld v 0 2, fld v 2 2, fld v 4 2, fld v 6 2] } } := if_pos (List.isEmpty_iff.2 h)

/-- Without BCAST a write reaches the selected stack alone. -/
theorem Mod.celReg_of_notBroadcast {c : Nat} (h : m.cel.bcast = false) :
    m.celReg c v = m.onStack m.cel.stackSel fun x => x.writeReg c (fld v 0 9) (fld v 16 10) := by
  simp [Mod.celReg, Mod.celStacks, h]

/-- On a core that takes writes, the sum of the floors decides between the floors and FLOOR_REJECT. -/
theorem Mod.panFloor_of_notFenced {c : Nat} {f : List Nat} (h : (m.core! c).fenced = false)
    (hf : f = [fld v 0 6, fld v 8 6, fld v 16 6, fld v 24 6]) : m.panFloor c v = m.onCore c fun x => { x with
      pan := if 32 < f.sum then { x.pan with floorReject := true } else { x.pan with floors := f } } := by
  subst hf
  simp only [Mod.panFloor, h, List.sum_eq_foldl, Bool.false_eq_true, if_false]

/-! ### MET_ENERGY (R670) -/

theorem Mod.metLatch_of_held {f : MetFrame} (h : m.met.held = some f) : m.metLatch = { m with met := { m.met with
    latFrame := f.frame.toNat
    latTb := m.met.heldAt
    latPower := f.power } } := by
  simp only [Mod.metLatch, h]

end

/-! ### Rows with a condition of their own -/

theorem execRegulatorChangeEffect_of_pending {st : Stack} {c : Fin 5} {s : State} {rb : Nat × Nat}
    (h : Tab.find (s.m.stack! st).pendReg c = some rb) : execRegulatorChangeEffect st c s =
      .next (s.commit (s.m.onStack st fun x => { x with
        pendReg := Tab.del x.pendReg c
        inForceRate := x.inForceRate.set c rb.1
        inForceBurst := x.inForceBurst.set c rb.2
        tokens := x.tokens.set c (min (x.tokens.getD c 0) (5120 * rb.2)) })) := by
  simp only [execRegulatorChangeEffect, run, h]

theorem execDebugLockWrite_of_unlocked {v : W32} {s : State} (hr : s.m.reachable = true) (hb : bit v.toNat 0 = true)
    (ho : s.m.dbgOpen = true) : execDebugLockWrite v s = .next (s.commit (s.m.relock 2)) := by
  simp [execDebugLockWrite, run, hr, hb, ho]

end Sys2Proof.Machine
end

section
/-! PROOFS of 05_numeric_watch: the statements. -/
namespace Sys2Proof.Proofs
open Sys2Proof Sys2Proof.Machine

/-- Settles O12: one lemma for each register row. -/
theorem registerRowsComplete : Obligations.RegisterRowsComplete := by
  intro v s hr
  refine ⟨fun h => ?select, fun h => ?done, fun h => ?gang, fun c h => ?regulator, fun st c rb h => ?inForce,
    fun c hc hsum => ?floors, fun hb ho => ?lock, fun f h => ?energy⟩
  case select => rw [exec_histogramSnapshotSelect, execHistogramSnapshotSelect, run, if_pos hr, Mod.histSelect_of_class h]
  case done => rw [exec_histogramSnapshotDone, execHistogramSnapshotDone, run, Mod.histDone_of_busy h]
  case gang => rw [exec_celGangWrite, execCelGangWrite, run, if_pos hr, Mod.celGang_of_noJobs h]
  case regulator => rw [exec_celRegWrite, execCelRegWrite, run, if_pos hr, Mod.celReg_of_notBroadcast h]
  case inForce => rw [exec_regulatorChangeEffect, execRegulatorChangeEffect_of_pending h]
  case floors =>
    have hle : ¬ 32 < [fld v.toNat 0 6, fld v.toNat 8 6, fld v.toNat 16 6, fld v.toNat 24 6].sum := by
      simpa [Nat.add_assoc] using hsum
    rw [exec_panFloorWrite, execPanFloorWrite, run, if_pos hr, Mod.panFloor_of_notFenced hc rfl]
    simp only [if_neg hle]
  case lock => rw [exec_debugLockWrite, execDebugLockWrite_of_unlocked hr hb ho, Mod.relock]
  case energy => rw [exec_metEnergyRead, execMetEnergyRead, run, if_pos hr, Mod.metLatch_of_held h]

end Sys2Proof.Proofs
end

section
/-! PROOFS of 06_backward_pass. A command that is accepted does its own work; what the commands of a step come to once checked. -/
namespace Sys2Proof.Machine

/-- An accepted command passes the checks of R542 and does its own work. -/
theorem State.accepts.command_eq {s : State} {op : Nat} {q : Queue} {p : Packet} (h : s.accepts op q p) (f : Mod → Mod) :
    s.m.command op q p f = f s.m := by
  obtain ⟨htakes, hcheck⟩ := h
  simp [Mod.command, htakes, hcheck]

section
variable {mem : List Host.Cell} {m : Mod} {q : Nat} {p : Packet} {j : Job}

/-! ### What a command binds (R226, R287, R561) -/

theorem Mod.taskLoad_of_loadTask (hj : m.job? (pktJob p) = some j) (hrun : j.run = none) (hroom : j.tasks.length < 16) {m' : Mod}
    (hload : m.loadTask (fun off n => Memory.readN mem (pkt p 16 8 + off) n) (pkt p 24 4) (pktJob p) j.tasks.length
      (bit (pkt p 28 1) 0) = .ok m') :
    m.taskLoad mem q p = m'.reply q (pktId p) stOK 0 [(16, 1, j.tasks.length)] := by
  simp [Mod.taskLoad, hj, hrun, hroom, hload]

theorem Mod.layerSet_of_layerChange {w : Nat} (hw : w = Memory.readN mem (pkt p 32 8) 128) (hrsv : recordRsv w = none) {m' : Mod}
    (hchange : m.layerChange (pktJob p) (pkt p 16 2) (pkt p 24 8) w (m.run? (pktJob p)).isNone = .ok m') :
    m.layerSet mem q p = m'.reply q (pktId p) stOK := by
  simp only [Mod.layerSet, ← hw, hrsv, hchange]

theorem Sched.owner_of_pend_eq_none {x : Sched} (h : x.pend = none) : x.owner = x.job := by
  by_cases hj : x.job = 0 <;> simp [Sched.owner, h, hj]

/-- While a step of the job runs, a good schedule of an entry that no other job owns waits for the step's end. -/
theorem Mod.schedSet_of_running {w : Nat} {old : Sched} (hw : w = Memory.readN mem (pkt p 24 8) 176)
    (hold : old = Tab.get {} m.upd.scheds (pkt p 16 1)) (hgood : schedOk w = true) (howner : old.owner = 0 ∨ old.owner = pktJob p)
    (hrun : (m.run? (pktJob p)).isSome = true) : m.schedSet mem q p =
      { m with upd := { m.upd with scheds := Tab.put m.upd.scheds (pkt p 16 1) { old with
        pend := some (byf w 0 4, byf w 8 8, (List.range (byf w 4 1)).map (segOf w), pktJob p) } } }.reply q (pktId p) stOK := by
  have hother : (old.owner ≠ 0 && old.owner ≠ pktJob p) = false := by
    rcases howner with h | h <;> simp [h]
  have hwaits (u : Upd) : (({ m with upd := u } : Mod).run? (pktJob p)).isNone = false :=
    Option.isNone_eq_false_iff.2 hrun
  simp only [Mod.schedSet, ← hw, ← hold, hother, hgood, hwaits, Bool.not_true, Bool.or_self, Bool.false_eq_true, if_false]

/-! ### The start and the end of a step (R550, R554) -/

theorem Mod.stepRun_of_loaded (hj : m.job? (pktJob p) = some j) (hrun : j.run = none)
    (hstep : pkt p 24 8 = 0xFFFFFFFFFFFFFFFF ∨ pkt p 24 8 = j.step)
    (htasks : ∀ t ∈ maskList 16 (pkt p 16 2), (Tab.find j.tasks t).isSome = true) : m.stepRun q p =
      (m.onJob (pktJob p) fun j' => { j' with run := some {
        queue := q
        cmdId := pktId p
        mask := pkt p 16 2
        tasks := maskList 16 (pkt p 16 2)
        variantOf := []
        step := j.step } }).hold q := by
  have hexpected : ¬ (pkt p 24 8 ≠ 0xFFFFFFFFFFFFFFFF ∧ pkt p 24 8 ≠ j.step) := by tauto
  have hloaded : ((maskList 16 (pkt p 16 2)).any fun t => (Tab.find j.tasks t).isNone) = false := by
    simpa [List.any_eq_false, Option.isSome_iff_ne_none] using htasks
  simp only [Mod.stepRun, hj, hrun, if_neg hexpected, hloaded, Option.isSome_none, Bool.false_eq_true, if_false]

theorem Mod.stepAbort_of_noVerdict {r : Run} (hr : m.run? (pktJob p) = some r) (hv : r.verdict = none) : m.stepAbort q p =
    ((m.stopStep (pktJob p) stAborted 0).onRun (pktJob p) fun r => { r with replay := none }).reply q (pktId p) stOK 0
      [(16, 1, 1)] := by
  simp [Mod.stepAbort, hr, hv, b2n]

theorem Mod.stepAbort_of_noneToEnd (h : ∀ r, m.run? (pktJob p) = some r → r.verdict ≠ none) :
    m.stepAbort q p = m.reply q (pktId p) stOK 0 [(16, 1, 0)] := by
  cases hr : m.run? (pktJob p) with
  | none => simp [Mod.stepAbort, hr, b2n]
  | some r => simp [Mod.stepAbort, hr, Option.isNone_eq_false_iff.2 (Option.isSome_iff_ne_none.2 (h r hr)), b2n]

end

end Sys2Proof.Machine
end

section
/-! PROOFS of 06_backward_pass: the statements. -/
namespace Sys2Proof.Proofs
open Sys2Proof Sys2Proof.Machine

/-- Settles O6: one lemma for each outcome of a command. -/
theorem stepCommandsComplete : Obligations.StepCommandsComplete := by
  intro q p s
  refine ⟨fun ha j hj hrun hroom m hload => ?load, fun ha w hw hrsv m hchange => ?layer,
    fun ha w hw hgood old hold howner hpend hrun => ?sched, fun ha j hj hrun hstep htasks r hr => ?start,
    fun ha r hr hv => ?ends, fun ha hnone => ?noEnd⟩
  case load => rw [exec_taskLoad, execTaskLoad, runH, ha.command_eq, Mod.taskLoad_of_loadTask hj hrun hroom hload]
  case layer => rw [exec_layerSet, execLayerSet, runH, ha.command_eq, Mod.layerSet_of_layerChange hw hrsv hchange]
  case sched =>
    rw [exec_schedSet, execSchedSet, runH, ha.command_eq,
      Mod.schedSet_of_running hw hold hgood (by rwa [Sched.owner_of_pend_eq_none hpend]) hrun]
  case start =>
    subst hr
    rw [exec_stepRun, execStepRun, run, ha.command_eq, Mod.stepRun_of_loaded hj hrun hstep htasks]
  case ends => rw [exec_stepAbort, execStepAbort, run, ha.command_eq, Mod.stepAbort_of_noVerdict hr hv]
  case noEnd => rw [exec_stepAbort, execStepAbort, run, ha.command_eq, Mod.stepAbort_of_noneToEnd hnone]

end Sys2Proof.Proofs
end

section
/-! PROOFS of 09_cellar_and_pantry. The read of a poisoned sector and what it does to the step; temperatures, errors and re-hashes of
the stacks, each where nothing stands in its way; register writes that are refused. -/
namespace Sys2Proof.Machine

section
variable {m : Mod}

/-! ### Poisoned sectors (R315, R316) -/

theorem isCellar_homeStack {n : Nat} (h : n < 32) : isCellar (homeStack n) = true := by
  have hrange : 64 ≤ homeStack n ∧ homeStack n ≤ 127 := by unfold homeStack; omega
  exact decide_eq_true hrange

theorem homeStack_sub (n : Nat) : homeStack n - 64 = n := Nat.add_sub_cancel_left 64 n

/-- The record of a read in a stack names the stack, the pseudo-channel and the offset of the sector (Table 9.20). -/
theorem Mod.poisonRead_of_stack {job h t sec n off : Nat} {e : Ext} (hn : n < 32) (he : e.home = homeStack n)
    (hoff : off = (e.frame + (t - e.tile)) * 1048576 + sec * 64) : m.poisonRead job h t sec (some e) =
      m.ev 0x4011 0 [(0, 1, n), (1, 1, (m.stack! n).pcOf off), (2, 8, off), (10, 2, job), (12, 8, m.stepOf job), (20, 4, h)] := by
  subst hoff
  simp only [Mod.poisonRead, he, isCellar_homeStack hn, homeStack_sub, if_true]

/-- A descriptor in flight that pins a tile at a home where the sector is poisoned. -/
theorem Mod.poisonConsumed_of_poisoned {id sec obj t h : Nat} {f : Infl} {o : Obj} {e : Ext} {p : Nat × Nat × Nat}
    (hh : h = m.handle obj) (hf : cores.findSome? (fun c => m.infl? c id) = some f) (ho : m.objAny h = some o)
    (hp : (f.pins.find? fun p => p.1 = h && p.2.1 = t) = some p)
    (he : ((m.extsOf h t).find? fun e => meets e.home p.2.2) = some e) (hbad : o.poisonedIn e.home t sec = true) :
    m.poisonConsumed id sec obj t =
      if dOp f.d = opUpdLayer then (m.poisonRead f.job h t sec (some e)).stepFlag f.job flagPoison
      else (m.poisonRead f.job h t sec (some e)).stopStep f.job stMemPoison 0 := by
  subst hh
  simp [Mod.poisonConsumed, hf, ho, hp, he, hbad]

/-! ### Temperature (R309) -/

theorem refreshOf_zero {t : Int} (h : t ≤ 85) : refreshOf 0 t = 0 := by
  have h85 : ¬ 85 < t := by omega
  have h95 : ¬ 95 < t := by omega
  simp [refreshOf, h85, h95]

theorem Mod.stackTemp_of_cool {st : Nat} {t : Int} (hc : (m.stack! st).hot = false) (ht : t ≤ 85) (hr : (m.stack! st).refresh = 0) :
    m.stackTemp st t = m.onStack st fun x => { x with temp := t, refresh := 0 } := by
  have h105 : ¬ 105 < t := by omega
  have h110 : ¬ 110 ≤ t := by omega
  simp [Mod.stackTemp, hc, hr, refreshOf_zero ht, h105, h110]

/-! ### Errors of the stacks (R313, R314, R317) -/

/-- Where no sector has more bad symbols than the code corrects, each sector of the first list is a correction. -/
theorem Mod.scrub_of_correctable {opsec st : Nat} {l : List (Nat × Nat)} {b : List Nat} (h : ∀ p ∈ l, p.2 ≤ 4) {m' : Mod}
    (hm : m' = m.rollHour opsec) : m.scrub opsec st l b =
      (b.filter fun p => p < (m'.stack! st).active * 1610612736).foldl (fun m p => m.sectorBad opsec st p)
        ((l.filter fun p => p.1 < (m'.stack! st).active * 1610612736).foldl (fun m p => m.sectorCorr st p.1 p.2) m') := by
  subst hm
  have hcorr : ∀ (x : Mod), ∀ p ∈ l.filter fun p => p.1 < ((m.rollHour opsec).stack! st).active * 1610612736,
      (if p.2 ≤ 4 then x.sectorCorr st p.1 p.2 else x.sectorBad opsec st p.1) = x.sectorCorr st p.1 p.2 :=
    fun _ p hp => if_pos (h p (List.mem_of_mem_filter hp))
  simp only [Mod.scrub, List.foldl_ext _ _ _ hcorr]

theorem Mod.scrub_one_bad {opsec st off : Nat} (h : off < ((m.rollHour opsec).stack! st).active * 1610612736) :
    m.scrub opsec st [] [off] = (m.rollHour opsec).sectorBad opsec st off := by
  simp [Mod.scrub, h]

theorem Mod.rowRepaired_of_notMapped {st h row : Nat} (hp : (Tab.get {} (m.stack! st).pc h).mapped = false) :
    m.rowRepaired st h row = if m.pprLeft st h = 0 then m.suspect st h 1 else
      { m with nv := { m.nv with pprUsed := Tab.upd 0 m.nv.pprUsed (32 * st + h) (· + 1) } }.ev 0x4030 1
        [(0, 1, st), (1, 1, h), (2, 2, row), (4, 1, m.pprLeft st h - 1)] := by
  simp only [Mod.rowRepaired, hp, Bool.false_eq_true, if_false]

/-! ### Re-hash (R319) -/

theorem Mod.rehashBegin_of_drained {st : Nat} (hd : (m.stack! st).draining = true) (hr : (m.stack! st).rehash = false)
    (hb : m.allAtBoundary = true) (he : ∀ e ∈ m.res.ext ++ m.res.releasing, e.home ≠ homeStack st)
    (hv : ∀ v ∈ m.res.moves, v.home ≠ homeStack st) (hc : ((m.copyReserved st).stack! st).reservedIn.isSome = true) :
    m.rehashBegin st = (m.copyReserved st).onStack st fun x => { x with rehash := true } := by
  have htiles : ((m.res.ext ++ m.res.releasing).any fun e => e.home = homeStack st) = false := by
    simpa only [List.any_eq_false, decide_eq_true_eq] using he
  have hmoves : (m.res.moves.any fun v => v.home = homeStack st) = false := by simpa using hv
  simp only [Mod.rehashBegin, hd, hr, hb, htiles, hmoves, hc, Bool.not_false, Bool.and_self, if_true]

/-! ### Refused register writes (R299) -/

theorem Mod.celGang_of_jobs {v : Nat} (h : m.jobs ≠ []) : m.celGang v = m := if_neg (mt List.isEmpty_iff.1 h)

end

end Sys2Proof.Machine
end

section
/-! PROOFS of 09_cellar_and_pantry: the statements. -/
namespace Sys2Proof.Proofs
open Sys2Proof Sys2Proof.Machine

/-- Settles O26: the pin leads to the copy that is read, and so to its place. -/
theorem poisonConsumptionCompletes : Obligations.PoisonConsumptionCompletes := by
  intro id sec obj tile s f o e p n hf ho hp he hbad hn hhome off m hoff hm
  rw [exec_poisonConsumed, execPoisonConsumed, run, Mod.poisonConsumed_of_poisoned rfl hf ho hp he hbad,
    Mod.poisonRead_of_stack hn hhome hoff, hm]

/-- Settles O25: one lemma for each event. That the reserved area can be copied as late as the re-hash begins is deduced from R319
(log entry 46). -/
theorem cellarEventsComplete : Obligations.CellarEventsComplete := by
  intro st s
  refine ⟨fun t ha hc ht hr => ?temperature, fun l b ha hl => ?scrub, fun off ha ho => ?uncorrectable,
    fun h row ha hp => ?rowRepair, exec_correctionWindowRoll s, fun hd hr hb he hv hc => ?rehash, fun _ => exec_rehashDone s⟩
  case temperature => rw [exec_stackTempRead, execStackTempRead, run, if_pos ha, Mod.stackTemp_of_cool hc ht hr]
  case scrub => rw [exec_scrub, execScrub, run, if_pos ha, Mod.scrub_of_correctable hl rfl]
  case uncorrectable => rw [exec_cellarUncorrectable, execCellarUncorrectable, run, if_pos ha, Mod.scrub_one_bad ho]
  case rowRepair => rw [exec_rowRepaired, execRowRepaired, run, if_pos ha, Mod.rowRepaired_of_notMapped hp]
  case rehash => rw [exec_stackRehash, execStackRehash, run, Mod.rehashBegin_of_drained hd hr hb he hv hc]

/-- Settles O57: the jobs decide the first write, the sum of the floors the second. -/
theorem refusedConfigurationWrites : Obligations.RefusedConfigurationWrites := by
  intro c v s
  refine ⟨fun hj => ?gang, fun f hf hr hc => ?floors⟩
  case gang => rw [exec_celGangWrite, execCelGangWrite, run, Mod.celGang_of_jobs hj, ite_self]
  case floors =>
    rw [exec_panFloorWrite, execPanFloorWrite, run, if_pos hr, Mod.panFloor_of_notFenced hc hf, ← List.sum_eq_foldl]
    exact ⟨fun hsum => by simp only [if_pos hsum], fun hsum => by simp only [if_neg (Nat.not_lt.2 hsum)]⟩

end Sys2Proof.Proofs
end

section
/-! PROOFS of 10_residency_and_attic. Jobs, objects and their transfers, the residency engine's events, the Attic's, the capture of an
image, the supply of the module and its resets: what each does where nothing stands in its way. -/
namespace Sys2Proof.Machine

section
variable {mem : List Host.Cell} {m m' : Mod} {q : Nat} {p : Packet} {o : Obj}

/-! ### Jobs and objects (R337, R339, R548, R556) -/

theorem Mod.jobOpen_of_makeLog {m1 m2 : Mod} {h : Nat} (hj : m.job? (pktJob p) = none) (hroom : m.jobs.length < 16)
    (hm1 : m1 = { m with jobs := Tab.put m.jobs (pktJob p) (jobOfPkt p) }) (hlog : m1.makeLog (pktJob p) (pkt p 44 4) = .ok (m2, h))
    {r : Mod × Nat} (hr : r = (m2.onJob (pktJob p) fun j => { j with log := h }).reading (pktJob p) 0) :
    m.jobOpen q p = r.1.power.reply q (pktId p) stOK 0 [(16, 4, h), (24, 8, r.2)] := by
  subst hm1 hr
  simp only [Mod.jobOpen, hj, Option.isSome_none, Bool.false_eq_true, if_false, if_neg (Nat.not_le.2 hroom), hlog]

theorem Mod.jobClose_of_mayClose (hrun : m.run? (pktJob p) = none) (hclose : m.mayClose (pktJob p) = true) :
    m.jobClose q p = m.closeNow q (pktId p) (pktJob p) := by
  simp only [Mod.jobClose, hrun, hclose, Option.isSome_none, Bool.false_eq_true, if_false, if_true]

/-- Borrowed or ordinary, an object that fits is told to the host by its handle. -/
theorem Mod.objCreate_of_create {h : Nat} (hc : m.create (objOfPkt p) = .ok (m', h)) :
    m.objCreate q p = m'.reply q (pktId p) stOK 0 [(16, 4, h)] := by
  simp only [Mod.objCreate, hc]

theorem Mod.objFree_of_owned (ho : m.obj? (pkt p 16 4) = some o) (hown : o.job = pktJob p ∨ (o.image = true ∧ o.job = 0)) :
    m.objFree q p = ((m.freeObj (pkt p 16 4)).drive.reply q (pktId p) stOK).settleHints := by
  simp only [Mod.objFree, ho, if_pos hown]

/-! ### Hints (R365, R366) -/

/-- A hint that asks for no directed move is answered at once. -/
theorem Mod.objHint_of_atOnce (ho : m.objOfJob (pkt p 16 4) (pktJob p) = some o) (hlo : pkt p 20 4 < o.tiles)
    (hhi : pkt p 24 4 < o.tiles) (harg : m.hintArgOk (pkt p 28 1) (pkt p 29 1) = true)
    (honce : m.directed o.job = false ∨ pkt p 28 1 = 0 ∨ 3 < pkt p 28 1 ∨ o.borrowed.isSome = true) :
    m.objHint q p = (((List.range (pkt p 24 4 + 1 - pkt p 20 4)).map (· + pkt p 20 4)).foldl
      (fun x t => x.hintTile (m.directed o.job) o (pkt p 16 4) (pkt p 28 1) (pkt p 29 1) t)
        (m.markPinned q (pkt p 16 4) (pkt p 20 4) (pkt p 24 4))).reply q (pktId p) stOK 0 [(16, 4, 0)] := by
  have hnow : (m.directed o.job && decide (1 ≤ pkt p 28 1 ∧ pkt p 28 1 ≤ 3) && o.borrowed.isNone) = false := by
    rcases honce with hauto | hzero | hhigh | hborrowed
    · simp [hauto]
    · simp [hzero]
    · simp [Nat.not_le.2 hhigh]
    · simp [Option.isNone_eq_false_iff.2 hborrowed]
  simp only [Mod.objHint, ho, if_neg (Nat.not_le.2 hlo), if_neg (Nat.not_le.2 hhi), harg, hnow, Bool.not_true, Bool.false_eq_true,
    if_false]

/-! ### OBJ_WRITE and OBJ_READ (R559) -/

theorem Mod.objWrite_tiles (hrun : m.run? (pktJob p) = none) (hpart : m.partBad p = none) (himage : m.isImage (pkt p 16 4) = false)
    (htiles : pkt p 20 1 = 0) (hattic : m.heldByAttic (pkt p 16 4) (pktTiles p) = false)
    (hpins : m.hostPins (pkt p 16 4) true (pktTiles p) = some m') : m.objWrite mem q p =
      (((((pktTiles p).foldl (fun m t => m.hostTraffic (pkt p 16 4) t false) m').onObj (pkt p 16 4) fun o => (pktTiles p).foldl
        (fun o t => o.loadTile mem (pkt p 32 8 + 1048576 * (t - pkt p 24 4)) t) o).pump.drive).reply q (pktId p) stOK).settleHints := by
  simp only [Mod.objWrite, hrun, hpart, himage, htiles, hattic, hpins, Option.isSome_none, Bool.false_eq_true, if_false]

theorem Mod.objWrite_history (hrun : m.run? (pktJob p) = none) (hpart : m.partBad p = none) (himage : m.isImage (pkt p 16 4) = false)
    (hhist : pkt p 20 1 = 2) (hok : historyOk (Memory.readN mem (pkt p 32 8) 72) = true) : m.objWrite mem q p =
      (m.onObj (pkt p 16 4) fun o => o.setHistory (Memory.readN mem (pkt p 32 8) 72)).reply q (pktId p) stOK := by
  simp only [Mod.objWrite, hrun, hpart, himage, hhist, hok, Option.isSome_none, Bool.false_eq_true, if_false, if_true]

theorem Mod.objRead_tiles (hpart : m.partBad p = none) (ho : m.obj? (pkt p 16 4) = some o) (himage : o.image = false)
    (htiles : pkt p 20 1 = 0) (hpins : m.hostPins (pkt p 16 4) false (pktTiles p) = some m')
    (hgood : ∀ x ∈ o.poisonHere fun t => m'.homeOf (pkt p 16 4) t, x / 16384 ∉ pktTiles p) : m.objRead q p =
      ((((pktTiles p).foldl (fun m t => m.hostWrite (pkt p 32 8 + 1048576 * (t - pkt p 24 4)) (o.tileBytes t))
        ((pktTiles p).foldl (fun m t => m.hostTraffic (pkt p 16 4) t true) m')).pump.drive).reply q (pktId p) stOK).settleHints := by
  have hnone : ((o.poisonHere fun t => m'.homeOf (pkt p 16 4) t).find? fun x => (pktTiles p).contains (x / 16384)) = none :=
    List.find?_eq_none.2 fun x hx => by simpa using hgood x hx
  simp only [Mod.objRead, hpart, ho, htiles, hpins, hnone, himage, Bool.false_eq_true, if_false]

theorem Mod.objRead_scales (hpart : m.partBad p = none) (ho : m.obj? (pkt p 16 4) = some o) (hscales : pkt p 20 1 = 1) :
    m.objRead q p =
      (m.hostWrite (pkt p 32 8) ((pktTiles p).flatMap fun t => leBytes 4 (o.tileScale t))).reply q (pktId p) stOK := by
  simp only [Mod.objRead, hpart, ho, hscales]

end

section
variable {m : Mod}

/-! ### Residency (R353 to R363) -/

/-- A move of ordinary tiles from another home than the Attic to one that keeps them: the source waits for its release. -/
theorem Mod.commitMove_of_kept {v : Mv} {e : Ext} (he : (m.extsOf v.req.obj v.tile0).head? = some e)
    (himage : m.isImage v.req.obj = false) (hattic : e.home ≠ homeAttic) (hleaving : m.leaving v.home = false) {m' : Mod}
    (hm : m' = ({ m with res := { m.res with moves := m.res.moves.filter (· != v) } }.cutExt v.req.obj e.home v.tile0 v.n))
    {x : Mod × Nat} (hx : x = ({ m' with res := { m'.res with
      releasing := m'.res.releasing ++ [{ e with tile := v.tile0, n := v.n, frame := e.frame + (v.tile0 - e.tile) }] } }.land v)) :
    m.commitMove v = (((((x.1.addExt { obj := v.req.obj, tile := v.tile0, n := v.n, home := v.home, frame := x.2 }).resCnt 0x28 1).resCnt
      0x40 (1048576 * v.n)).tileTraffic e.home v.req.cls (1048576 * v.n) true).tileTraffic v.home v.req.cls (1048576 * v.n) false).pump := by
  subst hm hx
  have hexts (r : List Mv) : ({ m with res := { m.res with moves := r } } : Mod).extsOf = m.extsOf := rfl
  have himg (r : List Mv) : ({ m with res := { m.res with moves := r } } : Mod).isImage = m.isImage := rfl
  have hleav (r : List Mv) : ({ m with res := { m.res with moves := r } } : Mod).leaving = m.leaving := rfl
  simp only [Mod.commitMove, hexts, he, himg, himage, hleav, hleaving, if_neg hattic, Bool.false_eq_true, if_false]

theorem Mod.policyMove_of_auto {obj tile dest : Nat} {o : Obj} (ho : m.obj? (m.handle obj) = some o) (hown : o.borrowed = none)
    (hauto : m.directed o.job = false) (htile : tile < o.tiles) (hhome : m.homeOk dest = true) :
    m.policyMove obj tile dest = m.request (tileReq (m.handle obj) tile dest 6 0 o.job) := by
  simp [Mod.policyMove, ho, hown, hauto, hhome, Nat.not_le.2 htile]

theorem Mod.faultTimeout_of_overdue {obj tile : Nat} {r : Req} (hr : (m.res.waiting.find? fun r =>
      r.kind = 1 && handleIdx r.obj = obj && r.tile = tile && decide (r.since + 100000000 < m.now)) = some r) {m' : Mod}
    (hm : m' = ({ m with res := { m.res with waiting := m.res.waiting.filter (· != r) } }.ev 0x5012 0
      [(0, 1, r.dest), (1, 2, r.job), (4, 4, r.obj), (8, 4, r.tile), (12, 8, m.stepOf r.job)]).stopStep r.job stResExhausted 0) :
    m.faultTimeout obj tile = (cores.foldl (fun m c => ((m.core! c).infl.filter fun f =>
      f.pins.any fun p => p.1 = r.obj && p.2.1 = r.tile && !m.at? p.1 p.2.1 p.2.2).foldl (fun m f => m.abandon c f) m) m').drive := by
  subst hm
  have hstep (x : List Req) : ({ m with res := { m.res with waiting := x } } : Mod).stepOf = m.stepOf := rfl
  simp only [Mod.faultTimeout, hr, hstep]

/-! ### Images (R369, R371, R557) -/

theorem Mod.ckptCapture_of_room {job : Nat} {j : Job} {k : CkptOp} {objs : List (Nat × Obj)} {tiles h : Nat} {m1 m2 x : Mod}
    (hj : m.job? job = some j) (hk : j.ckpt = some k) (hwaits : k.image = none) (hb : m.atBoundary job = true)
    (hattic : m.attic.readOnly = false) (hgood : m.badHandle job k.handles = none)
    (hobjs : objs = k.handles.filterMap fun h => (m.obj? h).map fun o => (h, o))
    (htiles : tiles = max 1 (objs.foldl (fun a x => a + x.2.tiles) 0))
    (hadd : m.addObj { job := job, fmt := 8, rows := 1024 * tiles, cols := 1024, image := true, copies := imagePoison objs } =
      some (m1, h)) (hplace : m1.placeImage h tiles = some m2)
    (hx : x = (objs.foldl (fun m x => m.readTiles x.1 x.2.allTiles) m2).atcCnt 0x30 (1048576 * tiles)) :
    m.ckptCapture job = { x with images := x.images ++ [({
      obj := h
      job := job
      step := j.step
      objs := objs
      layers := x.layersIn job k.lo k.hi
      scheds := x.schedsIn job k.schedMask
      record := x.attic.appended } : Image)] }.onJob job fun j => { j with ckpt := some { k with image := some h, step := j.step } } := by
  subst hobjs htiles hx
  simp only [Mod.ckptCapture, hj, hk, hwaits, hb, hattic, hgood, hadd, hplace, Option.isSome_none, Bool.not_true, Bool.or_self,
    Bool.false_eq_true, if_false]

/-! ### The Attic (R377 to R382) -/

theorem Mod.collect_of_sparse {k n : Nat} (hn : m.attic.sparse k = some n) {x : Mod}
    (hx : x = (((m.relocate n).attic.blocks.filter fun (p : Nat × EBlock) => p.2.use = some n).map fun (p : Nat × EBlock) => p.1).foldl
      (fun m b => m.onBlk b EBlock.erase) (m.relocate n)) :
    m.collect k = { x with attic := { x.attic with log := Tab.del x.attic.log n } } := by
  subst hx
  simp only [Mod.collect, hn]

theorem Mod.disturb_of_worn {ch block k : Nat} {m' : Mod} (hk : k = blkKey ch block) (hreads : 50000 ≤ (m.attic.blk k).reads)
    (hm : m' = match (m.attic.blk k).use with | some n => m.relocate n | none => m) : m.disturb ch block =
      ((m'.onBlk k EBlock.erase).atcCnt 0x48 1).ev 0x5110 1 [(0, 1, ch), (4, 4, block)] := by
  subst hk hm
  exact if_neg (Nat.not_lt.2 hreads)

theorem Mod.wearMove_of_leastWorn {src dst n e : Nat} {m' : Mod} (huse : (m.attic.blk src).use = some n)
    (he : e = (m.attic.blk src).erases) (hleast : e = m.attic.wearRange.1) (hrange : e + 500 < m.attic.wearRange.2)
    (hfree : (m.attic.blk dst).isFree = true) (hworn : e < (m.attic.blk dst).erases) (hchan : dst % 16 = src % 16)
    (hdst : dst < 16 * chanBlocks)
    (hm : m' = { m with attic := m.attic.closeLog.openLog (some (dst % 16, dst / 16)) }.relocate n) : m.wearMove src dst =
      ({ m' with attic := m'.attic.closeLog }.onBlk src EBlock.erase).ev 0x5111 0
        [(0, 1, src % 16), (4, 4, src / 16), (8, 4, e)] := by
  subst he hm
  have hmoves : (m.attic.wearRange.2 ≤ m.attic.wearRange.1 + 500 || (m.attic.blk src).erases ≠ m.attic.wearRange.1 ||
      !(m.attic.blk dst).isFree || (m.attic.blk dst).erases ≤ (m.attic.blk src).erases || dst % 16 ≠ src % 16 ||
      decide (16 * chanBlocks ≤ dst)) = false := by
    simp only [Bool.or_eq_false_iff, decide_eq_false_iff_not, Bool.not_eq_false', ne_eq, not_not, Nat.not_le]
    exact ⟨⟨⟨⟨⟨hleast ▸ hrange, hleast⟩, hfree⟩, hworn⟩, hchan⟩, hdst⟩
  simp only [Mod.wearMove, huse, hmoves, Bool.false_eq_true, if_false]

theorem Mod.pageBad_of_lost {ch block page obj tile : Nat} {o : Obj} (ho : m.objAny (m.handle obj) = some o)
    (hat : m.at? (m.handle obj) tile homeAttic = true) : m.pageBad ch block page false obj tile =
      (m.loseTile (m.handle obj) tile).ev 0x5124 0 [(0, 4, m.handle obj), (4, 4, tile), (8, 2, o.job)] := by
  simp [Mod.pageBad, ho, hat]

/-- The open log block closes where it holds the failing block (R381). -/
theorem Mod.blockRetired_of_notRetired {ch block : Nat} {x m' m'' : Mod}
    (hr : (Tab.get {} m.attic.blocks (blkKey ch block)).retired = false)
    (hx : x = if (m.attic.blk (blkKey ch block)).use = some (m.attic.head / logTiles) then { m with attic := m.attic.closeLog } else m)
    (hm : m' = x.onBlk (blkKey ch block) fun b => { b with retired := true })
    (hm' : m'' = { m' with attic := { m'.attic with retiredMib := m'.attic.retiredMib + 16 } }.atcCnt 0x50 1) :
    m.blockRetired ch block = (m''.ev 0x5121 1 [(0, 1, ch), (4, 4, block), (8, 2, m''.attic.spare)]).spareCheck := by
  subst hx hm hm'
  simp only [Mod.blockRetired, hr, Bool.false_eq_true, if_false]

theorem Mod.journalFlush_of_buffered (h : 0 < m.attic.buf) : m.journalFlush =
    { m with attic := { m.attic.settle m.attic.appended with buf := 0 } }.journalWrite m.attic.buf :=
  if_neg (Nat.pos_iff_ne_zero.1 h)

@[simp] theorem Mod.journalWrite_pins (n : Nat) : (m.journalWrite n).pins = m.pins := by
  unfold Mod.journalWrite
  simp only [Mod.nand, Mod.atcCnt]
  split <;> simp only [Mod.reservedTraffic_pins]

@[simp] theorem Mod.journalFlush_pins : m.journalFlush.pins = m.pins := by
  unfold Mod.journalFlush
  split
  · rfl
  · rw [Mod.journalWrite_pins]

/-! ### Supply, reset and flush (R383, R616, R655, R681 to R685) -/

theorem Mod.goOff_of_on (h : m.phase ≠ .off) {x : Mod} (hx : x = m.survivors true) : m.goOff = { x with
    pins := { x.pins with flushing := true, modFault := false }
    nv := { x.nv with flushDue := true, flushOk := false, flushBytes := x.attic.buf } } := by
  subst hx
  exact if_neg h

theorem Mod.mayBoot_of_perst (h : m.pins.perst = true) : m.mayBoot = false := by
  simp [Mod.mayBoot, h]

/-- What MOD_PGOOD needs beside the rails stands in the condition of BOOT (R681, R686). -/
theorem Mod.powered_of_mayBoot (h : m.mayBoot = true) :
    (m.pins.pwrEn && !m.pins.thermTrip && decide (44000 < m.pins.inputMv ∧ m.pins.inputMv ≤ 58000)) = true := by
  simp only [Mod.mayBoot, Bool.and_eq_true] at h
  obtain ⟨⟨⟨⟨⟨⟨_, hen⟩, _⟩, _⟩, _⟩, htrip⟩, hinput⟩ := h
  simp only [hen, htrip, hinput, Bool.and_self]

theorem tryBoot_of_mayBoot {e : Evr} (h : m.mayBoot = true) : tryBoot e m = (m.bootEntry, e.boot) := if_pos h

theorem tryBoot_of_held {e : Evr} (h : m.mayBoot = false) : tryBoot e m = (m, e) := if_neg (by rw [h]; decide)

theorem Evr.preserve_cntLost (e : Evr) (r : Rec) : (e.preserve r).cntLost = e.cntLost := by
  simp only [Evr.preserve]

theorem Evr.foldl_preserve_cntLost (l : List Rec) (e : Evr) : (l.foldl Evr.preserve e).cntLost = e.cntLost := by
  induction l generalizing e with
  | nil => rfl
  | cons r l ih => rw [List.foldl_cons, ih, Evr.preserve_cntLost]

theorem Evr.flush_cntLost (e : Evr) : e.flush.cntLost = e.cntLost := Evr.foldl_preserve_cntLost _ e

theorem Evr.moved_self (e : Evr) : e.moved e = 0 := by
  simp only [Evr.moved, Nat.sub_self, Nat.mul_zero]

/-- A row that loses no record raises no asynchronous event of the recorder. -/
theorem runE_of_cntLost_le {f : Evr → Mod → Mod × Evr} {s : State} {e : Evr} (hf : f s.evr s.m = (m, e))
    (hl : e.cntLost ≤ s.evr.cntLost) : runE f s = .next ({ s with evr := e }.commit (m.evrTraffic s.evr e)) := by
  simp only [runE, hf, if_neg (Nat.not_lt.2 hl)]

/-- A row that leaves the recorder is one commit. -/
theorem runE_of_evr_same {f : Evr → Mod → Mod × Evr} {s : State} (hf : f s.evr s.m = (m, s.evr)) : runE f s = .next (s.commit m) := by
  rw [runE_of_cntLost_le hf (Nat.le_refl _), Mod.evrTraffic, if_pos (Evr.moved_self s.evr)]

/-- A flush that ends under PERST# makes its images durable and leaves the module off. -/
theorem Mod.flushDone_of_perst {e : Evr} (hflush : m.pins.flushing = true) (hperst : m.pins.perst = true) {m' x : Mod}
    (hm : m' = { m with
      phase := if m.sec.restart then .off else m.phase
      pins := { m.pins with flushing := false, inputCut := false }
      nv := { m.nv with flushOk := true } }.journalFlush)
    (hx : x = { m' with images := m'.images.map fun (x : Image) => { x with durable := true }, freed := [] }) :
    m.flushDone e = (x, e.flush) := by
  have hends : m.flushDone e = tryBoot e.flush x := by
    simp only [Mod.flushDone, hflush, hx, hm, Bool.not_true, Bool.false_eq_true, if_false]
  have hpins : x.pins.perst = true := by
    simp only [hx, hm, Mod.journalFlush_pins]
    exact hperst
  rw [hends, tryBoot_of_held (Mod.mayBoot_of_perst hpins)]

end

/-! ### Rows of the supply that branch -/

theorem execRailsInRegulation_of_mayBoot {s : State} {m : Mod} (hm : m = { s.m with pins := { s.m.pins with
      pwrGood := true
      flushing := s.m.pins.flushing && !s.m.pins.inputCut
      inputCut := false
      coreRails := true
      perimRails := true } }) (h : m.mayBoot = true) :
    execRailsInRegulation s = .next ({ s with evr := s.evr.boot }.commit (m.bootEntry.evrTraffic s.evr s.evr.boot)) := by
  have hpower : (s.m.pins.pwrEn && !s.m.pins.thermTrip && decide (44000 < s.m.pins.inputMv ∧ s.m.pins.inputMv ≤ 58000)) = true := by
    have := Mod.powered_of_mayBoot h
    rwa [hm] at this
  have hcut : (s.m.pins.flushing && !(s.m.pins.flushing && s.m.pins.inputCut)) = (s.m.pins.flushing && !s.m.pins.inputCut) := by
    cases s.m.pins.flushing <;> rfl
  rw [execRailsInRegulation]
  refine runE_of_cntLost_le ?_ (Nat.zero_le _)
  simp only [if_pos hpower, hcut]
  rw [← hm, tryBoot_of_mayBoot h]

theorem execPerstDeassert_of_held {s : State} {m : Mod} (hm : m = { s.m with pins := { s.m.pins with perst := false } })
    (h : m.mayBoot = false) : execPerstDeassert s = .next (s.commit m) := by
  subst hm
  exact runE_of_evr_same (tryBoot_of_held h)

theorem execPerstDeassert_of_mayBoot {s : State} {m : Mod} (hm : m = { s.m with pins := { s.m.pins with perst := false } })
    (h : m.mayBoot = true) :
    execPerstDeassert s = .next ({ s with evr := s.evr.boot }.commit (m.bootEntry.evrTraffic s.evr s.evr.boot)) := by
  subst hm
  exact runE_of_cntLost_le (tryBoot_of_mayBoot h) (Nat.zero_le _)

theorem execInputApplied_of_supplied {mv : Nat} {s : State} (hlow : 44000 < mv) (hhigh : mv ≤ 58000) (hb : s.sbx.supplied = true) :
    execInputApplied mv s = .next (s.commit { s.m with pins := { s.m.pins with inputMv := mv } }) := by
  have hin : ¬ (mv ≤ 44000 ∨ 58000 < mv) := by omega
  simp only [execInputApplied, if_neg hin, hb, Bool.true_or, if_true, run]

end Sys2Proof.Machine
end

section
/-! PROOFS of 10_residency_and_attic: the statements. -/
namespace Sys2Proof.Proofs
open Sys2Proof Sys2Proof.Machine

/-- Settles O4: one lemma for each command; a borrowed object and an ordinary one share theirs. -/
theorem jobAndObjectCommandsComplete : Obligations.JobAndObjectCommandsComplete := by
  intro q p s
  refine ⟨fun ha hj hroom m1 m2 h hm1 hlog r hr => ?opens, fun ha hrun hclose => ?closes,
    fun ha _ m h hc => ?ordinary, fun ha c _ _ m h hc => ?borrowed, fun ha o ho hown => ?free⟩
  case opens => rw [exec_jobOpen, execJobOpen, run, ha.command_eq, Mod.jobOpen_of_makeLog hj hroom hm1 hlog hr]
  case closes => rw [exec_jobClose, execJobClose, run, ha.command_eq, Mod.jobClose_of_mayClose hrun hclose, Mod.closeNow]
  case ordinary => rw [exec_objCreate, execObjCreate, run, ha.command_eq, Mod.objCreate_of_create hc]
  case borrowed => rw [exec_objCreate, execObjCreate, run, ha.command_eq, Mod.objCreate_of_create hc]
  case free => rw [exec_objFree, execObjFree, run, ha.command_eq, Mod.objFree_of_owned ho hown]

/-- Settles O5: one lemma for each part that a command moves. That a hint which asks for no directed move completes at once, with
count 0, is deduced (log entry 25), as is that no tile is written in an Attic that takes no write (log entry 86). -/
theorem transferCommandsComplete : Obligations.TransferCommandsComplete := by
  intro q p s
  refine ⟨fun ha o ho hlo hhi harg honce => ?hint,
    fun ha hrun hpart himage htiles hattic m m' hpins hm' => ?writeTiles, fun ha hrun hpart himage hhist hok => ?writeHistory,
    fun ha hpart o ho himage htiles m m' hpins hgood hm' => ?readTiles, fun ha hpart o ho hscales => ?readScales⟩
  case hint => rw [exec_objHint, execObjHint, run, ha.command_eq, Mod.objHint_of_atOnce ho hlo hhi harg honce]
  case writeTiles =>
    rw [exec_objWrite, execObjWrite, runH, ha.command_eq, Mod.objWrite_tiles hrun hpart himage htiles hattic hpins, hm']
  case writeHistory => rw [exec_objWrite, execObjWrite, runH, ha.command_eq, Mod.objWrite_history hrun hpart himage hhist hok]
  case readTiles =>
    rw [exec_objRead, execObjRead, run, ha.command_eq, Mod.objRead_tiles hpart ho himage htiles hpins hgood, hm']
  case readScales => rw [exec_objRead, execObjRead, run, ha.command_eq, Mod.objRead_scales hpart ho hscales]

/-- Settles O22. -/
theorem ckptCaptureCompletes : Obligations.CkptCaptureCompletes := by
  intro job s j k objs tiles m h p hj hk hwaits hb hattic hgood hobjs htiles hadd hplace x hx
  rw [exec_ckptCapture, execCkptCapture, run,
    Mod.ckptCapture_of_room hj hk hwaits hb hattic hgood hobjs htiles hadd hplace hx]

/-- Settles O24: one lemma for each event. -/
theorem residencyEventsComplete : Obligations.ResidencyEventsComplete := by
  intro obj tile dest s
  refine ⟨fun v e m hv => ⟨?commits, fun he himage hattic hleaving hm x hx => ?kept⟩, fun e he => ?release,
    fun o ho hown hauto htile hhome => ?policy, fun r hr m hm => ?timeout⟩
  case commits => simp only [exec_moveCommit, execMoveCommit, run, hv]
  case kept => exact Mod.commitMove_of_kept he himage hattic hleaving hm hx
  case release => simp only [exec_sourceFrameRelease, execSourceFrameRelease, run, he]
  case policy => rw [exec_autoPolicyMove, execAutoPolicyMove, run, Mod.policyMove_of_auto ho hown hauto htile hhome]
  case timeout => rw [exec_tileFaultTimeout, execTileFaultTimeout, run, Mod.faultTimeout_of_overdue hr hm]

/-- Settles O27: one lemma for each event. The numbering of blocks is the model's choice (log entry 45), and so are the relocation
of the whole log block of a disturbed block and the closing of the open log block around a wear move (log entry 70). -/
theorem atticEventsComplete : Obligations.AtticEventsComplete := by
  intro ch block dst b page obj tile s ha
  have hopen (hacc : s.m.attic.accepting = true) : (s.m.alive && s.m.attic.accepting) = true := by rw [ha, hacc]; rfl
  refine ⟨fun n m hacc hn hm x hx => ?collect, fun k m hk hacc hreads hm => ?disturb,
    fun n e m hacc huse he hleast hrange hfree hworn hchan hdst hm => ?wear, ?rebuilt, fun o ho hat => ?lost,
    fun hr x m hx hm m' hm' => ?retired, fun hacc hbuf => ?flush⟩
  case collect =>
    subst hm
    rw [exec_atticGarbageCollect, execAtticGarbageCollect, run, if_pos (hopen hacc), Mod.collect_of_sparse hn hx]
  case disturb =>
    rw [exec_atcDisturb, execAtcDisturb, run, if_pos (hopen hacc), Mod.disturb_of_worn hk hreads hm]
  case wear =>
    rw [exec_atcWearMove, execAtcWearMove, run, if_pos (hopen hacc),
      Mod.wearMove_of_leastWorn huse he hleast hrange hfree hworn hchan hdst hm]
  case rebuilt => rw [exec_atcPageUncorrectable, execAtcPageUncorrectable, run, if_pos ha, Mod.pageBad, if_pos rfl]
  case lost => rw [exec_atcPageUncorrectable, execAtcPageUncorrectable, run, if_pos ha, Mod.pageBad_of_lost ho hat]
  case retired => rw [exec_atcBlockRetired, execAtcBlockRetired, run, if_pos ha, Mod.blockRetired_of_notRetired hr hx hm hm']
  case flush => rw [exec_journalFlush, execJournalFlush, run, if_pos (hopen hacc), Mod.journalFlush_of_buffered hbuf]

/-- Settles O34: the three ways to OFF share one step. That what does not outlive a reset goes at once on the way to OFF, that a rail
out of regulation drops MOD_PGOOD alone, and that the end of a flush makes its images durable, is deduced (log entry 21); so is that
the return of the rails ends a flush which a loss of input cut short (log entry 90). -/
theorem pinEventsComplete : Obligations.PinEventsComplete := by
  intro s
  refine ⟨fun hon x m hx hm => ?off, rfl, rfl, fun m hm hboot => ?rails,
    fun m hm => ⟨fun hheld => ?held, fun hboot => ?released⟩, fun mv hlow hhigh hb => ?applied,
    fun hflush hperst m x hm hx => ?flushed⟩
  case off =>
    have hoff : s.m.goOff = m := hm ▸ Mod.goOff_of_on hon hx
    have hflushing : m.pins.flushing = true := by rw [hm]
    refine ⟨?_, ?_, ?_⟩
    · rw [exec_perstAssert, execPerstAssert, run, hoff]
    · rw [exec_modPwrenFall, execModPwrenFall, run, hoff]
    · simp only [exec_inputLoss, execInputLoss, run, hoff, hflushing]
  case rails => rw [exec_railsInRegulation, execRailsInRegulation_of_mayBoot hm hboot]
  case held => rw [exec_perstDeassert, execPerstDeassert_of_held hm hheld]
  case released => rw [exec_perstDeassert, execPerstDeassert_of_mayBoot hm hboot]
  case applied => rw [exec_inputApplied, execInputApplied_of_supplied hlow hhigh hb]
  case flushed =>
    rw [exec_flushDone]
    exact runE_of_cntLost_le (Mod.flushDone_of_perst hflush hperst hm hx) (Nat.le_of_eq (Evr.flush_cntLost s.evr))

end Sys2Proof.Proofs
end

section
/-! PROOFS of 11_synchronisation. Commands that hold their queue and SYNC_FORCE, each where no condition of its own stops it; SYNC_WAITs,
barriers and collectives at their deadline, and the release of a core barrier. -/
namespace Sys2Proof.Machine

section
variable {m : Mod} {q : Nat} {p : Packet}

/-! ### TIME_JOIN and TOPO_SET (R437, R438, R459) -/

theorem Mod.timeJoin_of_notFree (h : m.tb.state ≠ .free) : m.timeJoin q p =
    ({ m with tb := { m.tb with joins := m.tb.joins ++ [(q, m.now + 1000000 * pkt p 16 4)] } }.hold q).finishJoins :=
  if_neg h

theorem Mod.topoSet_of_good {mem : List Host.Cell} {w : Nat} {m' : Mod}
    (hw : w = Memory.readN mem (pkt p 16 8) (min (pkt p 24 4) 524824))
    (hlen : 536 + 128 * min 4096 (topoEntries w) ≤ pkt p 24 4) (hchecks : ∀ c ∈ topoChecks w, c.2 = true)
    (hgood : m.topoReject w = none) (hm : m' = m.replyTopo.commitTopo w) : m.topoSet mem q p =
      ({ m' with lnk := { m'.lnk with
        helloQ := some (q, pktId p, m'.now + 1000000 * (if byf w 12 2 = 0 then 20 else byf w 12 2)) } }.hold q).checkHello := by
  have hlong : ¬ (pkt p 24 4 < 536 ∨ pkt p 24 4 < 536 + 128 * min 4096 (topoEntries w)) := by omega
  have hnone : ((topoChecks w).find? fun c => !c.2) = none := List.find?_eq_none.2 fun c hc => by simp [hchecks c hc]
  simp only [Mod.topoSet, ← hw, if_neg hlong, hnone, hgood, ← hm]

/-! ### CORE_FENCE and CORE_UNFENCE (R596, R597) -/

theorem Mod.unfenced_of_mem_liveCores {c : Nat} (h : c ∈ m.liveCores) :
    (m.core! c).fenced = false ∧ (m.core! c).fencing = none := by
  simpa using (List.mem_filter.1 h).2

/-- A fence that waits for its core begins at a step boundary, unless it would leave no core. -/
theorem Mod.fenceNow_of_boundary {c : Nat} {d : Nat × Nat × Nat} (hd : (m.deferFence.find? fun d => d.1 = c) = some d)
    (hlive : c ∈ m.liveCores) (hmore : 1 < m.liveCores.length) (hb : m.allAtBoundary = true) : m.fenceNow c = m.startFence c 1 0 := by
  obtain ⟨hfenced, hfencing⟩ := Mod.unfenced_of_mem_liveCores hlive
  simp [Mod.fenceNow, hd, hfenced, hfencing, hb, hmore]

theorem Mod.coreFence_of_boundary (hlive : m.liveCores.contains (pkt p 16 1) = true) (hmore : 1 < m.liveCores.length)
    (hfirst : m.deferFence = []) (hb : m.allAtBoundary = true) : m.coreFence q p =
      ({ m with deferFence := [(pkt p 16 1, q, pktId p)] }.hold q).startFence (pkt p 16 1) 1 0 := by
  have hmay : (!m.liveCores.contains (pkt p 16 1) || decide (m.liveCores.length ≤ 1)) = false := by
    simpa using And.intro (List.contains_iff_mem.1 hlive) hmore
  simp only [Mod.coreFence, hmay, hfirst, Bool.false_eq_true, if_false]
  exact Mod.fenceNow_of_boundary (List.find?_cons_of_pos (by simp)) (List.contains_iff_mem.1 hlive) hmore hb

theorem Mod.coreUnfence_of_fenced (hf : (m.core! (pkt p 16 1)).fenced = true) (hx : m.exhausted (pkt p 16 1) = false) :
    m.coreUnfence q p = { m with deferUnfence := m.deferUnfence ++ [(pkt p 16 1, q, pktId p)] }.hold q := by
  simp [Mod.coreUnfence, hf, hx]

/-! ### SYNC_FORCE (R413, R640) -/

theorem Mod.dbgOpen_eq_false (h : m.sec.dbgEnd ≤ m.now) : m.dbgOpen = false := decide_eq_false (Nat.not_lt.2 h)

theorem Mod.syncForce_of_locked (h : m.dbgOpen = false) : m.syncForce q p = m.reply q (pktId p) stDebugLocked := by
  simp only [Mod.syncForce, h, Bool.not_false, if_true]

theorem Mod.syncForce_of_unlocked {o : SyncObj} (ho : o = m.sync! (pkt p 16 1) (pkt p 17 1)) (hopen : m.dbgOpen = true)
    (hbound : o.job ≠ 0) (hle : pkt p 20 4 ≤ o.limit) : m.syncForce q p =
      (((((m.signal (pkt p 16 1) (pkt p 17 1) true (pkt p 20 4)).onCore (pkt p 16 1) fun x => { x with synForced := true }).ev
        0x6030 0 [(0, 1, pkt p 16 1), (1, 1, pkt p 17 1), (2, 2, o.job), (4, 4, o.value), (8, 4, pkt p 20 4)]).settle
          (pkt p 16 1)).reply q (pktId p) stOK 0 [(16, 4, o.value)]) := by
  simp only [Mod.syncForce, ← ho, hopen, if_neg hbound, if_neg (Nat.not_lt.2 hle), Bool.not_true, Bool.false_eq_true, if_false]

end

section
variable {m : Mod} {c k : Nat}

/-! ### A SYNC_WAIT at its deadline (R399 to R401) -/

section
variable {id : Nat} {sl : SlotSt} {f : Infl} (hs : Tab.find (m.core! c).slots k = some sl) (hblocked : sl.blocked = some id)
  (hf : m.infl? c id = some f) (hop : dOp f.d = opSyncWait) (hdue : f.overdue m.now = true)
include hs hblocked hf hop hdue

theorem Mod.waitTimeout_of_act (hact : (waitOp f.d).act = true) : m.waitTimeout c k =
    (if (waitOp f.d).toEn = true then ((m.synCnt c 0x20 1).retireCore c f.id false).signal c (waitOp f.d).toId false 1
      else (m.synCnt c 0x20 1).retireCore c f.id false).settle c := by
  simp [Mod.waitTimeout, hs, hblocked, hf, hop, hdue, hact]

theorem Mod.waitTimeout_of_noAct (hact : (waitOp f.d).act = false) {m' m'' : Mod} (hm' : m' = m.synCnt c 0x20 1)
    (hm'' : m'' = m'.ev 0x6010 0 [(0, 1, c), (1, 1, (waitOp f.d).obj), (2, 2, f.job), (4, 4, dSeq f.d), (8, 8, m'.stepOf f.job),
      (16, 4, (m'.sync! c (waitOp f.d).obj).value)]) : m.waitTimeout c k =
      ((m''.onSlot c k fun s => { s with stopped := true }).stopStep f.job stSyncTimeout 0).retire c f.id false := by
  subst hm' hm''
  simp [Mod.waitTimeout, hs, hblocked, hf, hop, hdue, hact]

end

/-! ### Barriers and collectives (R407, R411, R501) -/

/-- The oldest complete episode of a core barrier, none of whose parties is past its deadline, is released. -/
theorem Mod.releaseCore_of_inTime {ps : List (Nat × Nat)} {pay : Payload} {first last count ep : Nat} {rest} {m' : Mod}
    (hr : (m.bar! c k).releasable = (ps, pay, first, last, count, ep) :: rest) (hlate : m.tooLate ps = none)
    (hm : m' = (m.onBar c k fun b => { b with releasable := rest }).synCnt c 0x30 1) :
    m.releaseCore c k = m'.releaseParties ps pay first last m'.lnk.chip count ep := by
  simp only [Mod.releaseCore, hr, hlate, ← hm]

theorem Mod.barTimeout_of_overdue {id : Nat} {f : Infl} (hf : m.infl? c id = some f) (hop : dOp f.d = opBarrier)
    (hdue : f.overdue m.now = true) : m.barTimeout c id = m.failBarrier (barOp f.d).scope c (barOp f.d).bar (c, id) := by
  simp only [Mod.barTimeout, hf, if_pos (And.intro hop hdue)]

theorem Mod.collTimeout_of_overdue {job coll id : Nat} {x : Ctx} {f : Infl} (hx : m.ctx? (ctxKey job coll) = some x)
    (hlocal : x.local_ = some id) (hf : m.infl? x.core id = some f) (hdue : f.overdue m.now = true) :
    m.collTimeout job coll = m.endColl (ctxKey job coll) 0x8020 stCollTimeout 0 := by
  simp only [Mod.collTimeout, hx, hlocal, Option.bind_some, hf, if_pos hdue]

end

end Sys2Proof.Machine
end

section
/-! PROOFS of 11_synchronisation: the statements. -/
namespace Sys2Proof.Proofs
open Sys2Proof Sys2Proof.Machine

/-- Settles O2: one lemma for each command. That a TOPO_SET which still waits for its hellos completes when a later one commits is the
model's choice (log entry 19). -/
theorem waitingDeviceCommandsComplete : Obligations.WaitingDeviceCommandsComplete := by
  intro q p s
  refine ⟨fun ha hstate => ?join, fun ha w hw hlen hchecks hgood m hm => ?topo, fun ha hlive hmore hfirst hb => ?fence,
    fun ha hfenced hspare => ?unfence, fun ha hopen hbound hle => ?force⟩
  case join => rw [exec_timeJoin, execTimeJoin, run, ha.command_eq, Mod.timeJoin_of_notFree hstate]
  case topo => rw [exec_topoSet, execTopoSet, runH, ha.command_eq, Mod.topoSet_of_good hw hlen hchecks hgood hm]
  case fence => rw [exec_coreFence, execCoreFence, run, ha.command_eq, Mod.coreFence_of_boundary hlive hmore hfirst hb]
  case unfence => rw [exec_coreUnfence, execCoreUnfence, run, ha.command_eq, Mod.coreUnfence_of_fenced hfenced hspare]
  case force => rw [exec_syncForce, execSyncForce, run, ha.command_eq, Mod.syncForce_of_unlocked rfl hopen hbound hle]

/-- Settles O17: one lemma for each event; a SYNC_WAIT has one for each value of ACT. -/
theorem timeoutsComplete : Obligations.TimeoutsComplete := by
  intro c s
  refine ⟨fun k sl id f hs hblocked hf hop hdue =>
      ⟨fun hact hto => ?quiet, fun hact hto => ?signals, fun hact m m' hm hm' => ?stops⟩,
    fun b ps pay first last count ep rest hr hlate m hm => ?release, fun id f hf hop hdue => ?barrier,
    fun job coll x id f hx hlocal hf hdue => ?coll⟩
  case quiet =>
    rw [exec_syncWaitTimeout, execSyncWaitTimeout, run, Mod.waitTimeout_of_act hs hblocked hf hop hdue hact,
      if_neg (by rw [hto]; decide)]
  case signals =>
    rw [exec_syncWaitTimeout, execSyncWaitTimeout, run, Mod.waitTimeout_of_act hs hblocked hf hop hdue hact, if_pos hto]
  case stops =>
    rw [exec_syncWaitTimeout, execSyncWaitTimeout, run, Mod.waitTimeout_of_noAct hs hblocked hf hop hdue hact hm hm']
  case release => rw [exec_coreBarrierRelease, execCoreBarrierRelease, run, Mod.releaseCore_of_inTime hr hlate hm]
  case barrier => rw [exec_barrierTimeout, execBarrierTimeout, run, Mod.barTimeout_of_overdue hf hop hdue]
  case coll => rw [exec_collTimeout, execCollTimeout, run, Mod.collTimeout_of_overdue hx hlocal hf hdue]

/-- Settles O60: once the end of its interval has come, debug is locked, and a command that is accepted only replies. -/
theorem lockedSyncForceIsRefused : Obligations.LockedSyncForceIsRefused := by
  intro q p s ha hend
  rw [exec_syncForce, execSyncForce, run, ha.command_eq, Mod.syncForce_of_locked (Mod.dbgOpen_eq_false hend)]

end Sys2Proof.Proofs
end

section
/-! PROOFS of 12_links_and_time_base. Lanes, training, flits and CONTROL messages of a port; hellos; the time base; packets: what each
event does where nothing stands in its way. -/
namespace Sys2Proof.Machine

section
variable {m : Mod} {p : Nat}

/-! ### Lanes, training and retraining (R419 to R421, R426) -/

section
variable {lane : Nat} (hfailed : bit (m.port! p).failed lane = false)
include hfailed

theorem Mod.laneFail_of_up (hup : (m.port! p).link = .up) {y : PortSt} {m' : Mod}
    (hy : y = { m.port! p with failed := (m.port! p).failed + 2 ^ lane }) (hm : m' = (m.setPort p y).sendLaneHealth p) :
    m.laneFail p lane = if (m.port! p).used.contains lane then
      ((m'.sendRetrain p 1).startRetrain p).ev 0x7003 1 [(0, 1, p), (1, 1, lane), (2, 1, y.newWidth)] else m' := by
  subst hy hm
  by_cases hu : lane ∈ (m.port! p).used <;> simp [Mod.laneFail, hup, hfailed, hu]

theorem Mod.laneFail_of_training (ht : (m.port! p).link = .training) :
    m.laneFail p lane = m.setPort p { m.port! p with failed := (m.port! p).failed + 2 ^ lane } := by
  simp [Mod.laneFail, ht, hfailed]

end

section
variable (hr : (m.port! p).link = .retraining)
include hr

theorem Mod.retrainDone_of_failed (hbad : (m.port! p).badRetrains < 2) : m.retrainDone p false =
    (m.startRetrain p).onPort p fun x => { x with badRetrains := x.badRetrains + 1 } := by
  have h3 : ¬ 3 ≤ (m.port! p).badRetrains := by omega
  simp [Mod.retrainDone, hr, h3, Nat.not_le.2 hbad]

theorem Mod.retrainDone_of_ok (hbad : (m.port! p).badRetrains < 3) (hw : 0 < (m.port! p).newWidth) :
    m.retrainDone p true = m.trained p := by
  simp [Mod.retrainDone, hr, Nat.not_le.2 hbad, hw.ne']

end

/-! ### A port goes UP and DOWN (R419, R421, R436) -/

theorem Mod.portUp_of_training {l : Nat} {x : PortSt} (hx : x = { m.port! p with peerLanes := l }) (ht : x.link = .training)
    (hw : 0 < x.newWidth) (hlit : m.lit = true) : m.portUp p l = ((m.setPort p { x with
      retrains := 0
      txLseq := 0
      rxLseq := 0
      turns := []
      asm := []
      replay := []
      waiting := []
      resends := 0
      delays := [] }).trained p).ev 0x7001 0 [(0, 1, p), (1, 1, x.newWidth)] := by
  have hopen : ¬ (x.link ≠ .training || x.newWidth = 0 || !m.lit) = true := by simp [ht, hw.ne', hlit]
  subst hx
  exact if_neg hopen

theorem Mod.portDown_of_dark {m' : Mod} (h : (m.port! p).link = .up ∨ (m.port! p).link = .retraining)
    (hm : m' = (m.dropPort p).ev 0x7002 0 [(0, 1, p), (1, 1, 1)]) : m.portDown p .dark =
      (m'.afterDown p (m.streamsVia p) ((m.port! p).verify = .verified) (m.port! p).expChip).parentGone p := by
  subst hm
  obtain h | h := h <;> simp [Mod.portDown, h, downCode]

/-! ### Flits (R422 to R424) -/

section
variable {f : Flit}

theorem badFlit_of_crcBad (hc : crcOk f = false) : badFlit f = true := by simp [badFlit, hc]

theorem badFlit_of_crcOk (hc : crcOk f = true) (ht : f.type ≤ 4) : badFlit f = false := by simp [badFlit, hc, ht]

variable (hup : (m.port! p).link = .up)
include hup

theorem Mod.dataFlit_of_crcBad (hc : crcOk f = false) : m.dataFlit p f = (m.portCnt p 0x210 1).sendNak p := by
  simp [Mod.dataFlit, hup, badFlit_of_crcBad hc]

/-- A DATA flit that carries the LSEQ which the port expects next is in order (R424). -/
theorem Mod.dataFlit_of_expected (hc : crcOk f = true) (ht : f.type = 1) (hl : f.lseq = ((m.flitAck p f).port! p).rxLseq) :
    m.dataFlit p f = ((((m.flitAck p f).onPort p fun x => { x with rxLseq := (x.rxLseq + 1) % 4096 }).portCnt p 0x208 1).assemble p f) := by
  have hahead : (f.lseq + 4096 - ((m.flitAck p f).port! p).rxLseq) % 4096 = 0 := by omega
  simp [Mod.dataFlit, hup, badFlit_of_crcOk hc (by omega), ht, hahead]

/-! ### CONTROL messages (R426) -/

theorem Mod.control_of_named {msg : Nat} {act : Mod → Mod} (hc : crcOk f = true) (ht : f.type = 4) (hn : ctrlNamed f = true)
    (hmsg : ctrlMsg f = msg) : m.control p msg f act = act (m.flitAck p f) := by
  simp [Mod.control, hup, badFlit_of_crcOk hc (by omega), ht, hn, hmsg]

theorem Mod.control_of_refused {msg : Nat} {act : Mod → Mod} (h : crcOk f = false ∨ (f.type = 4 ∧ ctrlNamed f = false)) :
    m.control p msg f act = m.portCnt p 0x210 1 := by
  obtain hc | ⟨ht, hn⟩ := h
  · simp [Mod.control, hup, badFlit_of_crcBad hc]
  · simp [Mod.control, hup, ht, hn]

end

theorem Mod.creditInit_of_first {f : Flit} (h : (m.port! p).gotCredit = false) : m.creditInit p f =
    (m.onPort p fun x => { x with
      gotCredit := true
      credits := (List.range 8).map fun i => 16 * byf f.body (1 + i) 1 }).pumpPort p :=
  if_neg (by rw [h]; exact Bool.false_ne_true)

end

section
variable {m m' : Mod} {p : Nat}

/-! ### Hellos (R439 to R442) -/

theorem Mod.helloSend_of_up (hup : (m.port! p).link = .up) (hmap : (m.port! p).mapped = true) : m.helloSend p =
    m.putFlit p 3 false (pack [(0, 4, m.lnk.chip), (4, 1, p), (5, 1, if (m.port! p).actEn then (m.port! p).actId + 128 else 0),
      (8, 8, m.lnk.epoch), (16, 1, verifyCode (m.port! p).verify)]) :=
  if_neg (by simp [hup, hmap])

/-- A hello of the epoch decides the state of the port that it reaches. -/
theorem Mod.hello_of_current {hdr : W64} {b : HelloBody} (hup : (m.port! p).link = .up) (hrsv : b.rsvZero = true)
    (hm : m' = (m.flitAck p { hdr := hdr, body := 0, crc := 0 }).onPort p fun x => { x with
      nChip := b.chip.toNat
      nPort := b.port.val
      nBundle := b.bundle.val + 32 * b2n b.member })
    (hmap : (m'.port! p).mapped = true) (hepoch : b.epoch.toNat = m'.lnk.epoch) :
    m.hello p hdr b = (m'.helloCurrent p b (b.bundle.val + 32 * b2n b.member)).checkHello := by
  have hopen : ¬ ((m.port! p).link ≠ .up ∨ b.rsvZero = false) := by simp [hup, hrsv]
  have hmapped : ¬ (m'.port! p).mapped = false := by simp [hmap]
  simp only [Mod.hello, ← hm, if_neg hopen, if_neg hmapped, if_pos hepoch]

section
variable {b : HelloBody} {bundle : Nat} (hv : (m.port! p).verify = .waiting)
include hv

theorem Mod.helloCurrent_of_wrong (hw : m.helloWrong p b bundle = true) : m.helloCurrent p b bundle =
    (m.onPort p fun x => { x with verify := .mismatch }).ev 0x7010 0
      [(0, 1, p), (1, 3, b.chip.toNat), (4, 1, b.port.val), (5, 8, b.epoch.toNat)] := by
  simp [Mod.helloCurrent, hv, hw]

theorem Mod.helloCurrent_of_expected (hw : m.helloWrong p b bundle = false)
    (hm : m' = (m.onPort p fun x => { x with verify := .verified }).pumpPort p) : m.helloCurrent p b bundle =
    (m'.lnk.tx.filter fun kt => kt.2.due).foldl (fun m kt => m.reroute kt.1) m' := by
  subst hm
  simp [Mod.helloCurrent, hv, hw]

end

theorem Mod.helloOver_of_dark (hv : (m.port! p).verify = .waiting) (hl : (m.port! p).link = .down ∨ (m.port! p).link = .training) :
    m.helloOver p = m.onPort p fun x => { x with verify := .dark } := by
  simp [Mod.helloOver, hv, hl]

theorem Mod.helloOver_of_linkUp (hv : (m.port! p).verify = .waiting) (hl : (m.port! p).link = .up ∨ (m.port! p).link = .retraining) :
    m.helloOver p = if (m.port! p).olderHello then m.onPort p fun x => { x with verify := .late } else m := by
  obtain hl | hl := hl <;> simp [Mod.helloOver, hv, hl]

theorem Mod.helloOver_of_decided (hv : (m.port! p).verify ≠ .waiting) : m.helloOver p = m := if_pos hv

theorem Mod.helloTimeout_of_due {q c t : Nat} (hq : m.lnk.helloQ = some (q, c, t)) (ht : t ≤ m.now)
    (hm : m' = ((List.range 64).foldl Mod.helloOver m).replyTopo) {x : Mod} (hx : x = { m' with lnk := { m'.lnk with helloQ := none } }) :
    m.helloTimeout = (x.lnk.tx.filter fun kt => kt.2.due).foldl (fun m kt => m.reroute kt.1) x := by
  subst hx
  simp only [Mod.helloTimeout, hq, if_neg (Nat.not_lt.2 ht), ← hm]

theorem Mod.foldl_helloOver_of_decided (h : ∀ q : Port, (m.port! q).verify ≠ .waiting) :
    (List.range 64).foldl Mod.helloOver m = m :=
  List.foldlRecOn (motive := (· = m)) _ _ rfl fun _ hb q hq => by
    subst hb
    exact Mod.helloOver_of_decided (h ⟨q, List.mem_range.1 hq⟩)

/-- A reply speaks to the host alone. -/
@[simp] theorem Mod.reply_lnk (m : Mod) (q id st d : Nat) (res : List (Nat × Nat × Nat)) (fl : Nat) :
    (m.reply q id st d res fl).lnk = m.lnk := by
  unfold Mod.reply
  split
  · rfl
  · dsimp only
    split <;> rfl

theorem Mod.replyTopo_tx (m : Mod) : m.replyTopo.lnk.tx = m.lnk.tx := by
  unfold Mod.replyTopo
  split
  · dsimp only
    split
    · rw [Mod.reply_lnk, Mod.hostWrite_lnk]
    · rfl
  · rfl

theorem Mod.helloTimeout_of_settled {q c t : Nat} (hq : m.lnk.helloQ = some (q, c, t)) (ht : t ≤ m.now)
    (hv : ∀ q : Port, (m.port! q).verify ≠ .waiting) (htx : ∀ kt ∈ m.lnk.tx, kt.2.due = false) :
    m.helloTimeout = { m.replyTopo with lnk := { m.replyTopo.lnk with helloQ := none } } := by
  have hdue : (m.replyTopo.lnk.tx.filter fun kt => kt.2.due) = [] := by
    rw [Mod.replyTopo_tx, List.filter_eq_nil_iff]
    exact fun kt hkt => by simp [htx kt hkt]
  rw [Mod.helloTimeout_of_due hq ht rfl rfl, Mod.foldl_helloOver_of_decided hv]
  simp only [hdue, List.foldl_nil]

/-! ### Beacons (R450 to R455) -/

theorem Mod.beaconSend_of_notFollowing (hup : (m.port! p).link = .up) (hf : m.tb.following = false) : m.beaconSend p =
    m.putFlit p 2 false (pack [(0, 8, m.now), (8, 1, m.frac), (9, 1, tbCode m.tb.state), (12, 4, m.lnk.chip), (16, 8, m.tb.gmSeq),
      (24, 8, m.lnk.epoch), (32, 8, (m.port! p).lastTx), (40, 1, (m.port! p).lastTxF), (48, 8, (m.port! p).lastRx),
      (56, 1, (m.port! p).lastRxF)]) := by
  simp [Mod.beaconSend, hup, hf]

theorem Mod.heed_of_silentParent {b : BeaconBody} (hf : m.tb.following = true) (hp : m.tb.parent = some p)
    (hs : ((m.hear p b).port! p).advHeard = false) : m.heed p b = (m.hear p b).loseParent := by
  simp [Mod.heed, hf, hp, hs]

theorem Mod.heed_of_other {b : BeaconBody} (h : m.tb.parent ≠ some p ∨ ((m.hear p b).port! p).advHeard = true) :
    m.heed p b = (m.hear p b).elect := by
  obtain h | h := h <;> simp [Mod.heed, h]

section
variable {hdr : W64} {b : BeaconBody} (hup : (m.port! p).link = .up)
  (hm : m' = (m.flitAck p { hdr := hdr, body := 0, crc := 0 }).onPort p fun x => { x with
    lastTx := b.txTime.toNat
    lastTxF := b.txFrac.toNat
    lastRx := m.now
    lastRxF := m.frac })
  (hv : (m'.port! p).verify = .verified) (hepoch : b.epoch.toNat = m'.lnk.epoch)
include hup hm hv hepoch

/-- A BEACON whose echo is older than 8 µs measures no path delay; from a port that is not the parent then, it is heeded and
no more. -/
theorem Mod.beacon_of_oldEcho (hold : (b.echoTx.toNat * 256 + b.echoTxF.toNat) + 2048000 < m'.now * 256 + m'.frac)
    (hpar : (m'.heed p b).tb.parent ≠ some p) : m.beacon p hdr b = m'.heed p b := by
  have hunusable : ¬ (0 ≤ m'.stamp - (b.echoTx.toNat * 256 + b.echoTxF.toNat : Int) ∧
      m'.stamp - (b.echoTx.toNat * 256 + b.echoTxF.toNat : Int) ≤ 2048000) := by
    rw [Mod.stamp]; omega
  have hcurrent : ¬ ((m'.port! p).verify ≠ .verified ∨ b.epoch.toNat ≠ m'.lnk.epoch) := by simp [hv, hepoch]
  simp only [Mod.beacon, ← hm, if_neg (not_not_intro hup), if_neg hcurrent, decide_eq_false hunusable, Bool.false_eq_true,
    Bool.false_and, if_false, if_neg hpar]

theorem Mod.beacon_of_parent {d e : Int} {n : Mod} (he : e = m'.stamp - (b.echoTx.toNat * 256 + b.echoTxF.toNat : Int)) (h0 : 0 ≤ e)
    (hle : e ≤ 2048000)
    (hd : d = (e - ((b.txTime.toNat * 256 + b.txFrac.toNat : Int) - (b.echoRx.toNat * 256 + b.echoRxF.toNat : Int))) / 2)
    (hn : n = ((m'.onPort p fun x => { x with delays := (x.delays ++ [d]).drop ((x.delays ++ [d]).length - 16) }).bundleSkew p).heed p b)
    (hpar : n.tb.parent = some p) (hf : n.tb.following = true) : m.beacon p hdr b =
      { n with tb := { n.tb with gmSeq := (n.port! p).advSeq } }.offset
        ((b.txTime.toNat * 256 + b.txFrac.toNat : Int) + d - m'.stamp) := by
  have hcurrent : ¬ ((m'.port! p).verify ≠ .verified ∨ b.epoch.toNat ≠ m'.lnk.epoch) := by simp [hv, hepoch]
  subst he
  simp only [Mod.beacon, ← hm, if_neg (not_not_intro hup), if_neg hcurrent, decide_eq_true (And.intro h0 hle), if_true, ← hd, ← hn,
    if_pos hpar, Bool.true_and]
  exact if_pos (Bool.and_eq_true_iff.2 ⟨hf, decide_eq_true hpar⟩)

end

/-! ### A lost parent, and TIME_JOIN at its deadline (R454, R459) -/

theorem Mod.loseParent_of_alone (hf : m.tb.following = true) (hb : m.bestPort m.tb.gm = none) : m.loseParent =
    { m with tb := { m.tb with
      state := .holdover
      parent := none
      holdFrom := m.now
      rho := clampRate m.tb.f
      lockRun := 0 } }.ev 0x7031 0 [(1, 3, m.tb.gm)] := by
  simp [Mod.loseParent, hf, hb]

theorem Mod.joinTimeout_of_due {q t : Nat} (hj : m.tb.joins.find? (fun j => j.1 = q) = some (q, t)) (ht : t ≤ m.now) :
    m.joinTimeout q = { m with tb := { m.tb with joins := m.tb.joins.erase (q, t) } }.replyHeld q stTimeJoin 0
      [(16, 1, tbCode m.tb.state)] := by
  simp [Mod.joinTimeout, hj, Nat.not_lt.2 ht]

end

section
variable {m : Mod} {p h body : Nat}

/-! ### A packet leaves the receive buffer (R427, R433, R435) -/

theorem Mod.arrival_of_notHeld (hn : ∀ x ∈ m.lnk.inbox, x.port ≠ p ∨ x.bytes ≠ h + 2 ^ 320 * body) :
    m.arrival p h body = if (m.port! p).link = .up then some (m, m.lnk.epoch) else none := by
  have hnone : (m.lnk.inbox.find? fun x => x.port = p && x.bytes = h + 2 ^ 320 * body) = none := by
    refine List.find?_eq_none.2 fun x hx hmatch => ?_
    obtain ⟨hp, hb⟩ := Bool.and_eq_true_iff.1 hmatch
    exact (hn x hx).elim (· (of_decide_eq_true hp)) (· (of_decide_eq_true hb))
  simp only [Mod.arrival, hnone, Mod.silent, decide_eq_true_eq, ne_eq, ite_not]

theorem Mod.arrival_of_first {x : InPkt} (hx : (m.lnk.inbox.find? fun x => x.port = p && x.bytes = h + 2 ^ 320 * body) = some x)
    (hfirst : (m.lnk.inbox.find? fun y => y.key = x.key) = some x) : m.arrival p h body =
      some ({ m with lnk := { m.lnk with inbox := m.lnk.inbox.erase x } }.freeBuf p x.vc x.owe, x.epoch) := by
  simp only [Mod.arrival, hx]
  exact if_neg (not_not_intro hfirst)

/-! ### Receiving (R432, R433, R445, R446) -/

/-- A packet that is the next of its stream is delivered, and with it those held behind it. -/
theorem State.receive_of_inOrder {s : State} (hin : s.inOrder p h body m) (gate : Mod → HeldPkt → Mod × Bool)
    (act : Mod → HeldPkt → Mod) (src : SnapSrc) : s.m.receive gate act p h body src =
      deliverRun gate act (streamKey (hSrc h) (hJob h) (hVc h)) 4096 m (heldOf p h body src) := by
  obtain ⟨⟨epoch, ha, hd⟩, hdst, hlost, hseq⟩ := hin
  have hmine : ¬ (hDst h ≠ m.lnk.chip ∨ m.lostFor (hSrc h) (hJob h) = true) := by simp [hdst, hlost]
  have hahead : (hSeq h + 2 ^ 32 - (m.rx! (streamKey (hSrc h) (hJob h) (hVc h))).next) % 2 ^ 32 = 0 := by omega
  simp only [Mod.receive, ha, hd, Bool.false_eq_true, if_false, if_neg hmine, hahead, if_true, heldOf]

/-- An acknowledgement for this module frees what it covers; where no in-place PERMUTE holds back a write (R496), that is all. -/
theorem Mod.e2eAck_of_arrived {m0 m' : Mod} {epoch : Nat} (ha : m.arrival p h 0 = some (m0, epoch)) (hd : m0.portDrops p h epoch = false)
    (hk : hKind h = kAck) (hdst : hDst h = m0.lnk.chip) (hlost : m0.lostFor (hSrc h) (hJob h) = false)
    (hm : m' = m0.ackedTo (hSrc h) (hJob h) (hVc h) (hSeq h)) (hstage : ∀ x ∈ m'.col.ctx, x.stagePend = []) : m.e2eAck p h = m' := by
  have hmine : ¬ (hDst h ≠ m0.lnk.chip ∨ m0.lostFor (hSrc h) (hJob h) = true) := by simp [hdst, hlost]
  have hnone : (m'.col.ctx.filter fun x => !x.stagePend.isEmpty) = [] := by
    rw [List.filter_eq_nil_iff]
    exact fun x hx => by simp [hstage x hx]
  simp only [Mod.e2eAck, if_neg (not_not_intro hk), ha, hd, Bool.false_eq_true, if_false, if_neg hmine, ← hm, hnone, List.foldl_nil]

/-! ### Forwarding (R432, R433, R484) -/

theorem Mod.forward_of_hopUp {m' : Mod} {epoch : Nat} (ha : m.arrival p h body = some (m', epoch)) (hd : m'.portDrops p h epoch = false)
    (hdst : hDst h ≠ m'.lnk.chip) (hlast : hHop h ≤ hLast h) {e : Nat × Nat} (he : e = hRoute h (hHop h)) (hup : m'.hopUp e.1 = true)
    (hk : hKind h ≠ kReduce) : m.forward p h body =
      { m' with lnk := { m'.lnk with fwd := m'.lnk.fwd ++ [(e.1, hopOn h, body)] } }.emit e.1 e.2 (hKind h) (hLen h)
        (hopOn h + 2 ^ 320 * body) true := by
  have hopen : ¬ (hLast h < hHop h ∨ (!m'.hopUp e.1) = true) := by simp [hup, hlast]
  have hsound : ¬ (hKind h = kReduce ∧ (!collCheckOk kReduce body) = true) := fun hn => hk hn.1
  simp only [Mod.forward, ha, hd, Bool.false_eq_true, if_false, if_neg hdst, ← he, if_neg hopen, if_neg hsound]

/-! ### Sending and acknowledging in time (R446 to R448, R469) -/

theorem Mod.treeSend_of_formed {k : Nat} {x : OutPkt} (hx : m.lnk.formed[k]? = some x) :
    m.treeSend k = { m with lnk := { m.lnk with formed := m.lnk.formed.eraseIdx k } }.send x := by
  simp only [Mod.treeSend, hx]

theorem Mod.ackTimer_of_due {src job vc : Nat} (hn : 0 < (m.rx! (streamKey src job vc)).unackedN)
    (ht : (m.rx! (streamKey src job vc)).firstAt + 2000 ≤ m.now) : m.ackTimer src job vc = m.ackStream src job vc :=
  if_pos ⟨hn, ht⟩

theorem Mod.reroute_of_maxRetx {k : Nat} {t : TxStream} (ht : m.tx! k = t) (hu : t.unacked ≠ []) (hr : t.unreachable = false)
    (hmax : m.lnk.maxRetx ≤ t.retx) : m.reroute k = m.destUnreachable k := by
  simp [Mod.reroute, ht, hu, hr, hmax]

/-- A stream whose oldest packet waits for its acknowledgement past TIMEOUT is sent again; the route of a packet that had been sent
again already is spent. -/
theorem Mod.e2eRetx_of_overdue {dst job vc k : Nat} {t : TxStream} (hk : k = streamKey dst job vc) (ht : m.tx! k = t)
    (hu : t.unacked ≠ []) (hr : t.unreachable = false) (hd : t.due = false) (hlate : t.oldestAt + 1000 * m.lnk.timeout < m.now) :
    m.e2eRetx dst job vc = (if t.unacked.head?.map (·.retx) = some true then
      m.onTx k fun t => { t with badRoutes := t.route :: t.badRoutes } else m).reroute k := by
  obtain ⟨x, xs, hx⟩ := List.exists_cons_of_ne_nil hu
  simp [Mod.e2eRetx, ← hk, ht, hx, hr, hd, hlate]

end

end Sys2Proof.Machine
end

section
/-! PROOFS of 12_links_and_time_base: the statements. -/
namespace Sys2Proof.Proofs
open Sys2Proof Sys2Proof.Machine

/-- Settles O28: one lemma for each event. That a lane which fails while its port trains counts in that training, and that the LSEQ of
a port that trains from DOWN starts at 0, is deduced (log entry 9). -/
theorem portEventsComplete : Obligations.PortEventsComplete := by
  intro p s
  refine ⟨fun lane hup hfailed y m hy hm => ?laneUp, fun lane ht hfailed => ?laneTraining, fun hr hbad => ?retrainFailed,
    fun hr hbad hw => ?retrained, fun hdown hheld hlit => ?retry, fun l x hx ht hw hlit => ?up, fun h m hm => ?down⟩
  case laneUp => rw [exec_laneFail, execLaneFail, run, Mod.laneFail_of_up hfailed hup hy hm]
  case laneTraining => rw [exec_laneFail, execLaneFail, run, Mod.laneFail_of_training hfailed ht]
  case retrainFailed => rw [exec_retrainDone, execRetrainDone, run, Mod.retrainDone_of_failed hr hbad]
  case retrained => rw [exec_retrainDone, execRetrainDone, run, Mod.retrainDone_of_ok hr hbad hw]
  case retry => rw [exec_portTrainRetry, execPortTrainRetry, run, if_pos ⟨hdown, hheld, hlit⟩]
  case up => rw [exec_portUp, execPortUp, run, Mod.portUp_of_training hx ht hw hlit]
  case down => rw [exec_portDown, execPortDown, run, Mod.portDown_of_dark h hm]

/-- Settles O29: one lemma for each kind of flit; the CONTROL rows share one for a message that is named and one for what they refuse.
That a NAK answers a DATA flit whose CRC fails, and that a CONTROL flit which Table 12.22 does not name is discarded whole, is deduced
(log entry 9). -/
theorem flitAndControlEventsComplete : Obligations.FlitAndControlEventsComplete := by
  intro p s hup
  refine ⟨fun f hc => ⟨?badData, ?badIdle⟩, fun f hc ht hl => ?data, fun f hc ht => ?idle, fun hdue => ?replay,
    fun f hc ht hn => ⟨fun hmsg hfirst => ?credit, fun hmsg => ?health, fun hmsg => ?retrain⟩, fun f h r hr => ?refused,
    fun hleft hdue => ?copies, fun hgot hdue => ?noCredit⟩
  case badData => rw [exec_dataFlitReceive, execDataFlitReceive, run, Mod.dataFlit_of_crcBad hup hc]
  case badIdle =>
    rw [exec_idleFlitReceive, execIdleFlitReceive, run, if_neg (not_not_intro hup), if_pos (badFlit_of_crcBad hc)]
  case data => rw [exec_dataFlitReceive, execDataFlitReceive, run, Mod.dataFlit_of_expected hup hc ht hl]
  case idle =>
    have hgood : badFlit f = false := badFlit_of_crcOk hc (by omega)
    rw [exec_idleFlitReceive, execIdleFlitReceive, run, if_neg (not_not_intro hup), hgood, if_neg Bool.false_ne_true, if_pos ht]
  case replay => rw [exec_linkReplayTimeout, execLinkReplayTimeout, run, if_pos ⟨hup, hdue⟩]
  case credit =>
    rw [exec_creditInit, execCreditInit, run, Mod.control_of_named hup hc ht hn hmsg, Mod.creditInit_of_first hfirst]
  case health => rw [exec_laneHealth, execLaneHealth, run, Mod.control_of_named hup hc ht hn hmsg]
  case retrain => rw [exec_retrain, execRetrain, run, Mod.control_of_named hup hc ht hn hmsg]
  case refused =>
    subst hr
    refine ⟨?_, ?_, ?_⟩
    · rw [exec_creditInit, execCreditInit, run, Mod.control_of_refused hup h]
    · rw [exec_laneHealth, execLaneHealth, run, Mod.control_of_refused hup h]
    · rw [exec_retrain, execRetrain, run, Mod.control_of_refused hup h]
  case copies => simp only [exec_controlRepeat, execControlRepeat, run, if_pos (And.intro hup (And.intro hleft hdue))]
  case noCredit => simp only [exec_creditInitTimeout, execCreditInitTimeout, run, if_pos (And.intro hup (And.intro hgot hdue))]

/-- Settles O30: one lemma for each event. That a port which still trains counts as DOWN at the end of the hello time, and that streams
which wait leave once a port is VERIFIED or the hello time ends, is deduced (log entry 9); so is that a parent in FREE or HOLDOVER
advertises no grandmaster, and is lost (log entry 11). -/
theorem helloAndTimeBaseEventsComplete : Obligations.HelloAndTimeBaseEventsComplete := by
  intro p s
  refine ⟨fun hup hmap => ?helloSend, fun b hdr m hup hrsv hm hmap hepoch hv => ⟨fun hw => ?mismatch, fun hw x hx => ?verified⟩,
    fun q c t m hq ht hm x hx => ?hellosEnd, fun x => ⟨fun hv hl => ?dark, fun hv hl => ?late, fun hv => ?decided⟩,
    fun q c t hq ht hv htx => ?settled, fun hup hf => ?beaconSend, fun b hdr m hup hm hv hepoch hold hpar => ?oldEcho,
    fun b m => ⟨fun hf hp hs => ?silentParent, fun h => ?elects⟩,
    fun b hdr m d e n hup hm hv hepoch he h0 hle hd hn hpar hf => ?steers, fun hg => ?advances,
    fun hp hl hf hb => ?holdover, fun q t hj ht => ?joinEnds⟩
  case helloSend => rw [exec_helloSend, execHelloSend, run, Mod.helloSend_of_up hup hmap]
  case mismatch =>
    rw [exec_helloReceive, execHelloReceive, run, Mod.hello_of_current hup hrsv hm hmap hepoch, Mod.helloCurrent_of_wrong hv hw]
  case verified =>
    rw [exec_helloReceive, execHelloReceive, run, Mod.hello_of_current hup hrsv hm hmap hepoch, Mod.helloCurrent_of_expected hv hw hx]
  case hellosEnd => rw [exec_helloTimeout, execHelloTimeout, run, Mod.helloTimeout_of_due hq ht hm hx]
  case dark => exact Mod.helloOver_of_dark hv hl
  case late => exact Mod.helloOver_of_linkUp hv hl
  case decided => exact Mod.helloOver_of_decided hv
  case settled => rw [exec_helloTimeout, execHelloTimeout, run, Mod.helloTimeout_of_settled hq ht hv htx]
  case beaconSend => rw [exec_beaconSend, execBeaconSend, run, Mod.beaconSend_of_notFollowing hup hf]
  case oldEcho => rw [exec_beaconReceive, execBeaconReceive, run, Mod.beacon_of_oldEcho hup hm hv hepoch hold hpar]
  case silentParent => exact Mod.heed_of_silentParent hf hp hs
  case elects => exact Mod.heed_of_other h
  case steers => rw [exec_beaconReceive, execBeaconReceive, run, Mod.beacon_of_parent hup hm hv hepoch he h0 hle hd hn hpar hf]
  case advances => rw [exec_gmSeqAdvance, execGmSeqAdvance, run, if_pos hg]
  case holdover =>
    simp only [exec_gmLivenessTimeout, execGmLivenessTimeout, run, hp, hl, Bool.false_eq_true, if_false, Mod.loseParent_of_alone hf hb]
  case joinEnds => rw [exec_timeJoinTimeout, execTimeJoinTimeout, run, Mod.joinTimeout_of_due hj ht]

/-- Settles O31: the five kinds of tracked packet share the one rule of reception, and each other event has its lemma. That a packet
whose flits were not given arrives as its row comes is the model's choice (log entry 10); that a route is spent where its oldest
packet had been sent again already, and that MAX_RETX is looked at before each retransmission, is deduced (log entry 9). -/
theorem packetEventsComplete : Obligations.PacketEventsComplete := by
  intro p h body s
  refine ⟨fun m k hin hk => ⟨fun hkind => ?exchange, fun ok hkind => ?reduce, fun hkind => ?barrier, fun hkind => ?pace,
      fun src hkind => ?snapshot⟩, fun m0 epoch ha hd hk hdst hlost m hm hstage => ?ack,
    fun m epoch ha hd hdst hlast e he hup hk => ?forward, fun hn => ?notHeld, fun x hx hfirst => ?held, fun k x hx => ?treeSend,
    fun src job vc hn ht => ?ackTimer, fun dst job vc k t hk ht hu hr hd hlate => ⟨fun hfresh => ?fresh, fun hagain => ?again⟩⟩
  case exchange =>
    rw [exec_exchange, execExchange, run, Mod.exchangePkt, if_pos hkind, State.receive_of_inOrder hin, hk]
  case reduce => rw [exec_reduce, execReduce, run, Mod.reducePkt, if_pos hkind, State.receive_of_inOrder hin, hk]
  case barrier => rw [exec_barrierPacket, execBarrierPacket, run, if_pos hkind, State.receive_of_inOrder hin, hk]
  case pace => rw [exec_pace, execPace, run, if_pos hkind, State.receive_of_inOrder hin, hk]
  case snapshot => rw [exec_snapshot, execSnapshot, run, if_pos hkind, State.receive_of_inOrder hin, hk]
  case ack => rw [exec_e2eAck, execE2eAck, run, Mod.e2eAck_of_arrived ha hd hk hdst hlost hm hstage]
  case forward => rw [exec_packetForward, execPacketForward, run, Mod.forward_of_hopUp ha hd hdst hlast he hup hk]
  case notHeld => exact Mod.arrival_of_notHeld hn
  case held => exact Mod.arrival_of_first hx hfirst
  case treeSend => rw [exec_treePacketSend, execTreePacketSend, run, Mod.treeSend_of_formed hx]
  case ackTimer => rw [exec_e2eAckTimer, execE2eAckTimer, run, Mod.ackTimer_of_due hn ht]
  case fresh =>
    have hkeep : ¬ t.unacked.head?.map (·.retx) = some true := by rw [hfresh]; decide
    rw [exec_e2eRetx, execE2eRetx, run, Mod.e2eRetx_of_overdue hk ht hu hr hd hlate, if_neg hkeep]
    exact ⟨rfl, fun hmax => by rw [Mod.reroute_of_maxRetx ht hu hr hmax]⟩
  case again => rw [exec_e2eRetx, execE2eRetx, run, Mod.e2eRetx_of_overdue hk ht hu hr hd hlate, if_pos hagain]

end Sys2Proof.Proofs
end

section
/-! PROOFS of 13_gradient_reduction. The trees of a collective: relabelled ranks, parents and children. -/
namespace Sys2Proof.Machine

/-! ### Relabelled ranks (R467) -/

section
variable {g : Group} {s r c : Nat}

theorem Group.rel_lt (hr : r < g.size) : g.rel s r < g.size := Nat.mod_lt _ (Nat.zero_lt_of_lt hr)

theorem Group.rel_add_shard (hr : r < g.size) : (g.rel s r + s) % g.size = r := by
  have hs : s % g.size < g.size := Nat.mod_lt s (Nat.zero_lt_of_lt hr)
  calc (g.rel s r + s) % g.size
    _ = (r + g.size - s % g.size + s % g.size) % g.size := by rw [Group.rel, Nat.mod_add_mod, Nat.add_mod_mod]
    _ = r := by rw [Nat.sub_add_cancel (by omega), Nat.add_mod_right, Nat.mod_eq_of_lt hr]

/-- Below the size of the group, `rel` is the inverse of the shift by the shard, by which `parent` and `children` come back to
ranks. -/
theorem Group.add_shard_eq_iff_rel_eq {q : Nat} (hr : r < g.size) (hq : q < g.size) : (q + s) % g.size = r ↔ g.rel s r = q := by
  constructor
  · intro h
    have hmod : g.rel s r + s ≡ q + s [MOD g.size] := (Group.rel_add_shard hr).trans h.symm
    exact (hmod.add_right_cancel' s).eq_of_lt_of_lt (Group.rel_lt hr) hq
  · rintro rfl
    exact Group.rel_add_shard hr

/-! ### Parents and children (R467) -/

theorem Group.parent_eq_none_iff : g.parent s c = none ↔ g.rel s c = 0 := by simp [Group.parent]

theorem Group.parent_eq_some_iff (hr : r < g.size) (hc : c < g.size) :
    g.parent s c = some r ↔ 0 < g.rel s c ∧ g.rel s r = (g.rel s c - 1) / g.f := by
  have hq : (g.rel s c - 1) / g.f < g.size :=
    ((Nat.div_le_self _ _).trans (Nat.sub_le _ _)).trans_lt (Group.rel_lt hc)
  rw [← Group.add_shard_eq_iff_rel_eq hr hq]
  simp [Group.parent, Nat.pos_iff_ne_zero]

theorem Group.mem_children_iff (hc : c < g.size) :
    c ∈ g.children s r ↔ g.f * g.rel s r + 1 ≤ g.rel s c ∧ g.rel s c ≤ g.f * g.rel s r + g.f := by
  have hmem : c ∈ g.children s r ↔
      ∃ i < g.f, g.f * g.rel s r + 1 + i < g.size ∧ (g.f * g.rel s r + 1 + i + s) % g.size = c := by
    simp [Group.children]
  rw [hmem]
  constructor
  · rintro ⟨i, hi, hlt, hshift⟩
    have hrel := (Group.add_shard_eq_iff_rel_eq hc hlt).1 hshift
    omega
  · rintro ⟨hlo, hhi⟩
    have hsub : g.f * g.rel s r + 1 + (g.rel s c - (g.f * g.rel s r + 1)) = g.rel s c := Nat.add_sub_cancel' hlo
    exact ⟨g.rel s c - (g.f * g.rel s r + 1), by omega, by rw [hsub]; exact ⟨Group.rel_lt hc, Group.rel_add_shard hc⟩⟩

/-- The two sides of R467 agree: the block of F relabelled ranks after F·r′ is what the parent's division sends to r′. -/
theorem Group.mem_children_iff_parent_eq (hf : 0 < g.f) (hr : r < g.size) (hc : c < g.size) :
    c ∈ g.children s r ↔ g.parent s c = some r := by
  rw [Group.mem_children_iff hc, Group.parent_eq_some_iff hr hc, eq_comm, Nat.div_eq_iff hf, Nat.mul_comm]
  omega

end

end Sys2Proof.Machine
end

section
/-! PROOFS of 13_gradient_reduction: the statement. -/
namespace Sys2Proof.Proofs
open Sys2Proof Sys2Proof.Machine

/-- Settles O58: for members of the group, relabelling and the shift by the shard are inverse to each other, so the rule's figures of
the parent and of the children carry over to ranks. -/
theorem treeParentsAndChildren : Obligations.TreeParentsAndChildren := fun _ _ _ _ hf hr hc =>
  ⟨Group.rel_add_shard hr, Group.parent_eq_none_iff, Group.parent_eq_some_iff hr hc, Group.mem_children_iff hc,
    Group.mem_children_iff_parent_eq hf hr hc⟩

end Sys2Proof.Proofs
end

section
/-! PROOFS of what every step keeps (15_host_interface, 19_event_recorder, 20_metrology): host memory canonical, nothing emitted left
over, the recorder within its sizes and numbered, the Strongbox out of reach. -/
namespace Sys2Proof.Machine

/-! ### What the recorder's operations keep (R645 to R647) -/

/-- The recorder comes from `e` to `e'` by its own operations: its sizes and its numbering are kept, and the preserved area only
grows at its end. -/
structure Evr.Leads (e e' : Evr) : Prop where
  good : e.good → e'.good
  presGrows : e.pres.length ≤ 1024 → e.presGrows e'

section
variable {e e' e'' : Evr}

theorem Evr.Leads.refl : e.Leads e := ⟨id, fun h => Evr.presGrows_rfl e e h rfl rfl⟩

theorem Evr.Leads.trans (h : e.Leads e') (h' : e'.Leads e'') : e.Leads e'' :=
  ⟨h'.good ∘ h.good, fun hl =>
    have hg := h.presGrows hl
    Evr.presGrows_trans hg (h'.presGrows (Evr.presGrows_length hg))⟩

theorem Evr.leads_ite {p : Prop} [Decidable p] (h : e.Leads e') : e.Leads (if p then e' else e) := by
  split
  · exact h
  · exact .refl

variable (e) (m : Mod)

theorem Evr.leads_thaw : e.Leads (e.thaw m) := ⟨Evr.good_thaw e m, Evr.presGrows_thaw e m⟩
theorem Evr.leads_freeze (now : Nat) : e.Leads (e.freeze now) := ⟨Evr.good_freeze e now, Evr.presGrows_freeze e now⟩
theorem Evr.leads_clear : e.Leads (e.clear m) := ⟨Evr.good_clear e m, Evr.presGrows_clear e m⟩
theorem Evr.leads_flush : e.Leads e.flush := ⟨Evr.good_flush e, Evr.presGrows_flush e⟩
theorem Evr.leads_boot : e.Leads e.boot := ⟨Evr.good_boot e, Evr.presGrows_boot e⟩
theorem Evr.leads_start : e.Leads (e.start m) := ⟨Evr.good_start e m, Evr.presGrows_start e m⟩
theorem Evr.leads_persist : e.Leads e.persist := ⟨Evr.good_persist e, Evr.presGrows_persist e⟩
theorem Evr.leads_roll (t : Nat) (u : Bool) : e.Leads (e.roll t u) := ⟨Evr.good_roll e t u, Evr.presGrows_roll e t u⟩
theorem Evr.leads_freezeExpired : e.Leads (m.freezeExpired e) := ⟨Evr.good_freezeExpired e m, Evr.presGrows_freezeExpired e m⟩

theorem Evr.leads_tick : e.Leads e.tick :=
  ⟨Evr.good_tick e, fun h => by unfold Evr.tick; split <;> exact Evr.presGrows_rfl _ _ h rfl rfl⟩

theorem Evr.leads_tryBoot : e.Leads (tryBoot e m).2 := by
  cases h : m.mayBoot with
  | true => rw [tryBoot_of_mayBoot h]; exact Evr.leads_boot e
  | false => rw [tryBoot_of_held h]; exact .refl

theorem Evr.leads_evrCommand (op q : Nat) (p : Packet) {f : Evr → Evr} (h : e.Leads (f e)) :
    e.Leads (m.evrCommand e op q p f).2 := Evr.leads_ite h

theorem Evr.leads_evrClear (mem : List Host.Cell) (q : Nat) (p : Packet) (g : Sig) : e.Leads (m.evrClear mem e q p g).2 := by
  unfold Mod.evrClear
  split
  · exact .refl
  · split
    · exact .refl
    · exact Evr.leads_clear e m

theorem Evr.leads_flushDone : e.Leads (m.flushDone e).2 := by
  unfold Mod.flushDone
  split
  · exact .refl
  · exact (Evr.leads_flush e).trans (Evr.leads_tryBoot e.flush _)

end

/-! ### What every row keeps -/

/-- What holds from a state to the one that a row leaves: the canonical form of host memory, nothing emitted left over, the recorder
led by its own operations. -/
structure State.Keeps (s t : State) : Prop where
  wf : Memory.wf s.mem = true → Memory.wf t.mem = true
  out : s.m.out = {} → t.m.out = {}
  evr : s.evr.Leads t.evr

section
variable {s t u : State}

theorem State.Keeps.refl : s.Keeps s := ⟨id, id, .refl⟩

theorem State.Keeps.trans (h : s.Keeps t) (h' : t.Keeps u) : s.Keeps u := ⟨h'.wf ∘ h.wf, h'.out ∘ h.out, h.evr.trans h'.evr⟩

theorem State.keeps_commit (s : State) (m : Mod) : s.Keeps (s.commit m) :=
  ⟨State.commit_wf s m, fun _ => State.commit_out s m, State.commit_good s m, State.commit_presGrows s m⟩

theorem State.keeps_withSbx (s : State) (b : Strongbox) : s.Keeps { s with sbx := b } := ⟨id, id, .refl⟩

theorem State.keeps_withPending (s : State) (l : List Instr) : s.Keeps { s with pending := l } := ⟨id, id, .refl⟩

theorem State.keeps_withEvr {e : Evr} (h : s.evr.Leads e) : s.Keeps { s with evr := e } := ⟨id, id, h⟩

theorem State.keeps_withEvr_commit {e : Evr} (h : s.evr.Leads e) (m : Mod) : s.Keeps ({ s with evr := e }.commit m) :=
  (State.keeps_withEvr h).trans (State.keeps_commit _ m)

end

theorem exec_of_recorder_leads {c : Instr} (h : rowKind c = .recorder) (s : State) :
    ∃ f, exec c s = runE f s ∧ s.evr.Leads (f s.evr s.m).2 := by
  cases c with
  | evrClear => exact ⟨_, exec_evrClear s, Evr.leads_evrClear ..⟩
  | evrFreeze => exact ⟨_, exec_evrFreeze s, Evr.leads_evrCommand _ _ _ _ _ (Evr.leads_freeze _ _)⟩
  | evrThaw => exact ⟨_, exec_evrThaw s, Evr.leads_evrCommand _ _ _ _ _ (Evr.leads_ite (Evr.leads_thaw _ _))⟩
  | flushDone => exact ⟨_, exec_flushDone s, Evr.leads_flushDone ..⟩
  | freezeExpired => exact ⟨_, exec_freezeExpired s, Evr.leads_freezeExpired ..⟩
  | opsecPersist => exact ⟨_, exec_opsecPersist s, Evr.leads_ite (Evr.leads_persist _)⟩
  | perstDeassert => exact ⟨_, exec_perstDeassert s, Evr.leads_tryBoot ..⟩
  | railsInRegulation => exact ⟨_, exec_railsInRegulation s, by dsimp only; split; exacts [Evr.leads_tryBoot .., .refl]⟩
  | rateWindowClose => exact ⟨_, exec_rateWindowClose s, by dsimp only; split; exacts [.refl, Evr.leads_roll ..]⟩
  | _ => cases h

/-! ### The Strongbox (R659, R661) -/

/-- What a command does to the Strongbox: its own rows act on it, the return of the input supplies it, and no other command
reaches it. -/
def Strongbox.after (b : Strongbox) : Instr → Strongbox
  | .strongboxFrameSend power => b.send power
  | .energyAccumulate microJ power =>
    if b.supplied && decide (b.params.startW ≤ power) then { b with microJ := b.microJ + microJ } else b
  | .energyNvmWrite => if b.supplied then { b with nvmMilliJ := b.energy } else b
  | .busbarBelow40v holdUpOk => b.supplyLost holdUpOk
  | .metrologySignedTransfer sigOk op => if b.supplied && sigOk then b.transfer op else b
  | .sealLoopOpen => { b with loopOpen := true, tamper := b.tamper || b.supplied }
  | .inputApplied mv => if b.supplied || decide (mv < 40000) then b else { b with supplied := true, tamper := b.tamper || b.loopOpen }
  | _ => b

theorem Strongbox.after_of_other (b : Strongbox) {c : Instr} (h : rowKind c ≠ .strongbox) (hi : ∀ mv, c ≠ .inputApplied mv) :
    b.after c = b := by
  cases c with
  | busbarBelow40v | energyAccumulate | energyNvmWrite | metrologySignedTransfer | sealLoopOpen | strongboxFrameSend =>
    exact absurd rfl h
  | inputApplied mv => exact absurd rfl (hi mv)
  | _ => rfl

theorem exec_of_strongbox_after {c : Instr} (h : rowKind c = .strongbox) (s : State) :
    exec c s = .next { s with sbx := s.sbx.after c } := by
  cases c with
  | busbarBelow40v | energyAccumulate | energyNvmWrite | metrologySignedTransfer | sealLoopOpen | strongboxFrameSend => rfl
  | _ => cases h

theorem Strongbox.energy_transfer (b : Strongbox) (op : MetOp) : (b.transfer op).energy = b.energy := by cases op <;> rfl

/-- The hold-up that works stores whole millijoules: the register loses at most what it does not show. -/
theorem Strongbox.energy_supplyLost (b : Strongbox) : (b.supplyLost true).energy = b.energy := by
  cases h : b.supplied with
  | true => simp [Strongbox.supplyLost, Strongbox.energy, h]
  | false => simp [Strongbox.supplyLost, h]

theorem Strongbox.energy_le_after (b : Strongbox) {c : Instr} (h : c ≠ .busbarBelow40v false) : b.energy ≤ (b.after c).energy := by
  cases c with
  | energyAccumulate microJ power =>
    show b.energy ≤ (ite _ _ _ : Strongbox).energy
    split
    · exact Nat.div_le_div_right (Nat.le_add_right _ _)
    · exact Nat.le_refl _
  | busbarBelow40v holdUpOk =>
    cases holdUpOk with
    | true => exact Nat.le_of_eq (Strongbox.energy_supplyLost b).symm
    | false => exact absurd rfl h
  | strongboxFrameSend power =>
    show b.energy ≤ (b.send power).energy
    unfold Strongbox.send
    split <;> exact Nat.le_refl _
  | energyNvmWrite =>
    show b.energy ≤ (ite _ _ _ : Strongbox).energy
    split <;> exact Nat.le_refl _
  | metrologySignedTransfer sigOk op =>
    show b.energy ≤ (ite _ _ _ : Strongbox).energy
    split
    · exact Nat.le_of_eq (Strongbox.energy_transfer b op).symm
    · exact Nat.le_refl _
  | inputApplied mv =>
    show b.energy ≤ (ite _ _ _ : Strongbox).energy
    split <;> exact Nat.le_refl _
  | _ => exact Nat.le_refl _

/-! ### What every command and every step leaves -/

section
variable {s t : State}

theorem execBootComplete_leaves (h : execBootComplete s = .next t) : s.Keeps t ∧ t.sbx = s.sbx := by
  unfold execBootComplete at h
  split at h
  · cases h; exact ⟨.refl, rfl⟩
  · have hs1 := State.keeps_commit s s.m.bootWork
    have hsbx := State.commit_sbx s s.m.bootWork
    generalize s.commit s.m.bootWork = s1 at h hs1 hsbx
    dsimp only at h
    split at h
    · cases h; exact ⟨hs1, hsbx⟩
    · cases h; exact ⟨hs1.trans (State.keeps_withEvr_commit (Evr.leads_start _ _) _), hsbx⟩

theorem execStartupFail_leaves (h : execStartupFail s = .next t) : s.Keeps t ∧ t.sbx = s.sbx := by
  unfold execStartupFail at h
  split at h
  · cases h; exact ⟨State.keeps_commit s _, rfl⟩
  · split at h
    · have hs1 := State.keeps_commit s (s.m.trialFails s.m.phase.code 2)
      have hsbx := State.commit_sbx s (s.m.trialFails s.m.phase.code 2)
      generalize s.commit (s.m.trialFails s.m.phase.code 2) = s1 at h hs1 hsbx
      cases h
      exact ⟨hs1.trans (State.keeps_withEvr_commit (Evr.leads_boot _) _), hsbx⟩
    · cases h; exact ⟨State.keeps_commit s _, rfl⟩

theorem execStrongboxPrivateRead_leaves {off len : Nat} (h : execStrongboxPrivateRead off len s = .next t) :
    s.Keeps t ∧ t.sbx = s.sbx := by
  unfold execStrongboxPrivateRead at h
  split at h
  · cases h; exact ⟨State.keeps_commit s _, rfl⟩
  · cases h; exact ⟨.refl, rfl⟩

theorem execInputApplied_leaves {mv : Nat} (h : execInputApplied mv s = .next t) :
    s.Keeps t ∧ t.sbx = s.sbx.after (.inputApplied mv) := by
  unfold execInputApplied at h
  dsimp only at h
  split at h
  · cases h; exact ⟨State.keeps_withSbx s _, rfl⟩
  · cases h; exact ⟨(State.keeps_withSbx s _).trans (State.keeps_commit _ _), rfl⟩

theorem execRegisterWrite_leaves {bar2 wide : Bool} {off : W32} {v : W64} (h : execRegisterWrite bar2 off wide v s = .next t) :
    s.Keeps t ∧ t.sbx = s.sbx := by
  cases hk : s.accessOk bar2 off.toNat wide with
  | false => rw [execRegisterWrite_of_broken hk] at h; cases h
  | true =>
    cases hr : s.m.reachable with
    | false => rw [execRegisterWrite_of_unreachable hk hr] at h; cases h; exact ⟨.refl, rfl⟩
    | true =>
      cases bar2 with
      | true => rw [execRegisterWrite_doorbell hk hr] at h; cases h; exact ⟨State.keeps_commit s _, rfl⟩
      | false =>
        by_cases ho : off.toNat = 0x40000
        · rw [execRegisterWrite_evrStatus hk hr ho] at h
          cases h
          exact ⟨State.keeps_withEvr ⟨fun hg => Evr.good_of_same hg rfl rfl rfl rfl rfl,
            fun hl => Evr.presGrows_rfl _ _ hl rfl rfl⟩, rfl⟩
        · rw [execRegisterWrite_register hk hr ho] at h; cases h; exact ⟨State.keeps_commit s _, rfl⟩

theorem exec_composite_leaves {c : Instr} (hk : rowKind c = .composite) (h : exec c s = .next t) :
    s.Keeps t ∧ t.sbx = s.sbx.after c := by
  cases c with
  | bootComplete => exact execBootComplete_leaves h
  | startupFail => exact execStartupFail_leaves h
  | inputApplied => exact execInputApplied_leaves h
  | strongboxPrivateRead => exact execStrongboxPrivateRead_leaves h
  | registerWrite => exact execRegisterWrite_leaves h
  | _ => cases hk

theorem inputApplied_composite {c : Instr} (h : rowKind c ≠ .composite) (mv : Nat) : c ≠ .inputApplied mv :=
  fun hc => h (hc ▸ rfl)

/-- What a command that runs leaves of host memory, of the recorder and of the Strongbox. -/
theorem exec_leaves {c : Instr} (h : exec c s = .next t) : s.Keeps t ∧ t.sbx = s.sbx.after c := by
  have hother (hs : rowKind c ≠ .strongbox) (hc : rowKind c ≠ .composite) : s.sbx.after c = s.sbx :=
    Strongbox.after_of_other _ hs (inputApplied_composite hc)
  cases hk : rowKind c with
  | moduleOnly =>
    obtain ⟨m, hm⟩ := exec_of_moduleOnly hk s
    cases hm.symm.trans h
    exact ⟨State.keeps_commit s m, (hother (by simp [hk]) (by simp [hk])).symm⟩
  | recorder =>
    obtain ⟨f, hf, hl⟩ := exec_of_recorder_leads hk s
    cases hf.symm.trans h
    exact ⟨State.keeps_withEvr_commit hl _, (hother (by simp [hk]) (by simp [hk])).symm⟩
  | strongbox =>
    cases (exec_of_strongbox_after hk s).symm.trans h
    exact ⟨State.keeps_withSbx s _, rfl⟩
  | composite => exact exec_composite_leaves hk h

theorem step_of_front {c : Instr} {rest : List Instr} (h : s.pending = c :: rest) : step s = exec c { s with pending := rest } := by
  unfold step; rw [h]

theorem step_of_empty (h : s.pending = []) : step s = .next (tick s) := by unfold step; rw [h]

theorem tick_keeps (s : State) : s.Keeps (tick s) := by
  unfold tick
  extract_lets s1
  have hsec : s.Keeps s1 := by
    dsimp only [s1]
    split
    · exact .refl
    · exact State.keeps_withEvr (Evr.leads_tick _)
  split
  · exact hsec
  · exact hsec.trans (State.keeps_commit _ _)

theorem step_keeps (h : step s = .next t) : s.Keeps t := by
  cases hp : s.pending with
  | nil => cases (step_of_empty hp).symm.trans h; exact tick_keeps s
  | cons c rest =>
    exact (State.keeps_withPending s rest).trans (exec_leaves ((step_of_front hp).symm.trans h)).1

end

/-! ### Host memory: what a row's writes leave and make (R545) -/

/-- After the writes of a row, each byte of the last one reads as it was written. -/
theorem Memory.read_lastWrite {ws : List HWrite} {w : HWrite} {mem : List Host.Cell} (h : Memory.wf mem = true) {i : Nat}
    (hi : i < w.bytes.length) :
    Memory.read ((ws ++ [w]).foldl (fun mem w => Memory.writeMany mem w.addr w.bytes) mem) (w.addr + i) = w.bytes[i] := by
  rw [List.foldl_append, List.foldl_cons, List.foldl_nil, Memory.read_writeMany _ _ _ _ (Memory.writes_wf ws mem h), if_pos (by omega)]
  simp [hi]

theorem ofBytes_leBytes (n w : Nat) : ofBytes (leBytes n w) = w % 2 ^ (8 * n) := by
  induction n generalizing w with
  | zero => simp [leBytes, ofBytes, Nat.mod_one]
  | succ n ih =>
    have hstep : leBytes (n + 1) w = BitVec.ofNat 8 w :: leBytes n (w / 256) := by
      unfold leBytes
      rw [List.range_succ_eq_map, List.map_cons, List.map_map]
      congr 1
      · simp
      · refine List.map_congr_left fun i _ => ?_
        rw [Function.comp_apply, Nat.div_div_eq_div_mul, show 2 ^ (8 * (i + 1)) = 256 * 2 ^ (8 * i) by rw [Nat.mul_add, Nat.pow_add, Nat.mul_comm]]
    rw [hstep, ofBytes, ih, BitVec.toNat_ofNat, Nat.mul_add, Nat.add_comm (8 * n), Nat.pow_add]
    exact (Nat.mod_mul).symm

theorem leBytes_length (n w : Nat) : (leBytes n w).length = n := by simp [leBytes]

/-- A number that was written as its bytes reads back. -/
theorem Memory.readN_of_bytes {mem : List Host.Cell} {a n w : Nat}
    (h : ∀ i (hi : i < (leBytes n w).length), Memory.read mem (a + i) = (leBytes n w)[i]) :
    Memory.readN mem a n = w % 2 ^ (8 * n) := by
  have hbytes : (List.range n).map (fun i => Memory.read mem (a + i)) = leBytes n w := by
    refine List.ext_getElem (by simp [leBytes_length]) fun i _ hi => ?_
    simpa using h i hi
  rw [Memory.readN, hbytes, ofBytes_leBytes]

/-- A reply alone writes the 32 bytes of its entry (Table 15.5), to the queue's next completion slot. -/
theorem Mod.reply_writes {m : Mod} (h : m.out = {}) (q : Queue) (id st d : Nat) (res : List (Nat × Nat × Nat)) (fl : Nat) :
    (m.reply q id st d res fl).out.writes = [] ++ [{
      addr := (m.q! q).cqBase + 32 * (m.q! q).cqTail
      bytes := leBytes 32 (pack ([(0, 4, id), (4, 2, st), (6, 1, q.val + (if (m.q! q).phase then 128 else 0)),
        (8, 2, (m.q! q).sqHead), (10, 2, fl), (12, 4, d)] ++ res)) }] := by
  rw [Mod.reply_out m q id st d res fl q.isLt, h]

end Sys2Proof.Machine
end

section
/-! PROOFS of what every step keeps: the statements. -/
namespace Sys2Proof.Proofs
open Sys2Proof Sys2Proof.Machine

/-- Settles O43: every command and the tick keep the model's canonical form (log entry 2). -/
theorem memoryStaysCanonical : Obligations.MemoryStaysCanonical := fun _ _ hwf hout h =>
  ⟨(step_keeps h).wf hwf, (step_keeps h).out hout⟩

/-- Settles O44: every command and the tick lead the recorder by its own operations. -/
theorem recorderStaysNumbered : Obligations.RecorderStaysNumbered := fun _ _ hb hn h => (step_keeps h).evr.good ⟨hb, hn⟩

/-- Settles O45: `Strongbox.after` says what each command does to the Strongbox. That a hold-up which fails resumes from the last
energy written is the model's choice (log entry 29). -/
theorem strongboxIsOutOfReach : Obligations.StrongboxIsOutOfReach := by
  intro c s t h
  rw [(exec_leaves h).2]
  refine ⟨fun hsend haccumulate hwrite hbusbar htransfer hseal hinput => ?_, Strongbox.energy_le_after s.sbx⟩
  refine Strongbox.after_of_other s.sbx (fun hk => ?_) hinput
  cases c with
  | strongboxFrameSend => exact hsend _ rfl
  | energyAccumulate => exact haccumulate _ _ rfl
  | energyNvmWrite => exact hwrite rfl
  | busbarBelow40v => exact hbusbar _ rfl
  | metrologySignedTransfer => exact htransfer _ _ rfl
  | sealLoopOpen => exact hseal rfl
  | _ => cases hk

/-- Settles O47: the writes of a row go to host memory in order. -/
theorem hostMemoryFrame : Obligations.HostMemoryFrame := by
  intro s m a hwf
  refine ⟨fun hout => ?_, fun ws w hlast i hi => ?_⟩
  · rw [State.commit_mem]; exact Memory.read_writes _ a _ hwf hout
  · rw [State.commit_mem, hlast]; exact Memory.read_lastWrite hwf hi

/-- Settles O48: a reply emits one write, of the 32 bytes of Table 15.5. -/
theorem replyReachesHost : Obligations.ReplyReachesHost := by
  rintro s q id st d res fl b hwf hout rfl t rfl
  rw [State.commit_mem, Mod.reply_writes hout]
  refine ⟨Memory.readN_of_bytes fun i hi => Memory.read_lastWrite (w := { addr := _, bytes := leBytes 32 _ }) hwf hi, fun a ha => ?_⟩
  refine Memory.read_writes _ a _ hwf fun w hw => ?_
  rw [List.nil_append, List.mem_singleton] at hw
  subst hw
  rw [leBytes_length]
  exact ha

/-- Settles O55: every command leads the recorder by its own operations, which only add to the preserved area. -/
theorem preservedAreaIsNeverCleared : Obligations.PreservedAreaIsNeverCleared := fun _ _ _ hl h =>
  (exec_leaves h).1.evr.presGrows hl

/-- Settles O40. That one tick passes on an empty queue is the model's choice (log entry 1). -/
theorem stepRunsTheFront : Obligations.StepRunsTheFront := ⟨fun _ _ _ => step_of_front, fun _ => step_of_empty⟩

/-- Settles O41: the machine starts with the fields that module reset leaves. -/
theorem moduleResetValues : Obligations.ModuleResetValues := by
  rintro x (rfl | ⟨m, rfl⟩)
  · decide
  · refine ⟨rfl, rfl, rfl, rfl, rfl, rfl, rfl, rfl, rfl, rfl, rfl, rfl, rfl, rfl, rfl, rfl, rfl, rfl, rfl⟩

/-- Settles O42. -/
theorem invariantsHoldAtReset : Obligations.InvariantsHoldAtReset := by
  refine ⟨rfl, rfl, ⟨Nat.zero_le _, Nat.zero_le _, Nat.zero_le _⟩, ⟨?_, ?_⟩⟩ <;> exact ⟨Nat.zero_le _, rfl⟩

end Sys2Proof.Proofs
end

section
/-! PROOFS of 14_job_mapping. What acts at a step boundary; commands that hold their queue until then, and the restore of an image, each
where no condition of its own stops it. -/
namespace Sys2Proof.Machine

section
variable {m : Mod} {job : Nat}

/-! ### The end of a step (R550) -/

theorem Mod.stepEnd_of_over {r : Run} {st d : Nat} {m' : Mod} (hr : m.run? job = some r) (hm : m' = m.endWaits job)
    (hover : m'.stepOver job r = some (st, d)) : m.stepEnd job = (m'.finishStep job st d r).closeIfDue job := by
  simp only [Mod.stepEnd, show (m.job? job).bind (·.run) = some r from hr, ← hm, hover]

theorem Mod.endWaits_of_notAborted {r : Run} (hr : m.run? job = some r) (h : ∀ c ∈ r.causes, c.2.1 ≠ stAborted) :
    m.endWaits job = m := by
  have hnone : (r.causes.any fun c => c.2.1 = stAborted) = false := by simpa using h
  simp [Mod.endWaits, hr, hnone]

theorem Mod.endWaits_of_aborted {r : Run} (hr : m.run? job = some r) (h : ∃ c ∈ r.causes, c.2.1 = stAborted)
    (hwait : ∀ c ∈ cores, ∀ f ∈ (m.core! c).inflOf job, f.endless = true) : m.endWaits job = m.abandonWaiting job := by
  have hsome : (r.causes.any fun c => c.2.1 = stAborted) = true := by simpa using h
  have hall : (cores.all fun c => ((m.core! c).inflOf job).all Infl.endless) = true := by simpa using hwait
  simp only [Mod.endWaits, hr, hsome, hall, Bool.and_self, if_true]

/-! ### Fences that waited for the boundary (R596, R597) -/

theorem Mod.mem_liveCores {c : Core} (hfencing : (m.core! c).fencing = none) (hfenced : (m.core! c).fenced = false) :
    c.val ∈ m.liveCores := by
  have hc : c.val ∈ cores := by fin_cases c <;> decide
  simp [Mod.liveCores, hc, hfencing, hfenced]

theorem Mod.unfenceNow_of_boundary {c : Nat} {failing : Option Nat} {d : Nat × Nat × Nat}
    (hd : (m.deferUnfence.find? fun d => d.1 = c) = some d) (hb : m.allAtBoundary = true) (hfenced : (m.core! c).fenced = true)
    (hspare : m.exhausted c = false) : m.unfenceNow c failing =
      ({ m with deferUnfence := m.deferUnfence.erase d }.unfence c failing).replyLate d.2.1 d.2.2 stOK := by
  have hspare' : ({ m with deferUnfence := m.deferUnfence.erase d } : Mod).exhausted c = false := hspare
  have hfenced' : (({ m with deferUnfence := m.deferUnfence.erase d } : Mod).core! c).fenced = true := hfenced
  simp only [Mod.unfenceNow, hd, hb, hspare', hfenced', Bool.not_true, Bool.or_self, Bool.false_eq_true, if_false]

/-! ### Checkpoints and exports (R371, R514, R519, R557, R558) -/

section
variable {j : Job} (hj : m.job? job = some j)
include hj

theorem Mod.ckptDurable_of_onNand {k : CkptOp} {h : Nat} (hk : j.ckpt = some k) (hh : k.image = some h)
    (hdone : ∀ x ∈ m.images, x.obj = h → x.record ≤ m.attic.onNand) : m.ckptDurable job =
      ((({ m with images := m.images.map fun (x : Image) => if x.obj = h then { x with durable := true } else x }.onJob
        job fun j => { j with ckpt := none }).reply k.queue k.cmdId stOK 0 [(16, 4, h), (24, 8, k.step)]).closeIfDue job) := by
  have hnone : (m.images.any fun (x : Image) => x.obj = h && decide (m.attic.onNand < x.record)) = false := by
    simpa using hdone
  simp only [Mod.ckptDurable, hj, Option.bind_some, hk, hh, hnone, Bool.false_eq_true, if_false]

theorem Mod.snapCapture_of_boundary {x : SnapExp} (hx : j.snap = some x) (hc : x.captured = none) (hb : m.atBoundary job = true) :
    m.snapCapture job = m.onJob job fun j => { j with snap := some { x with
      captured := some j.step
      unread := m.snapLayers job x.lo x.hi } } := by
  simp [Mod.snapCapture, hj, hx, hc, hb]

theorem Mod.snapDone_of_written {x : SnapExp} {st : Nat} (hx : j.snap = some x) (hc : x.captured = some st) (hall : x.unread = [])
    (hlink : x.link = false) : m.snapDone job = m.finishSnap job x st := by
  simp [Mod.snapDone, hj, hx, hc, hall, hlink]

end

section
variable {mem : List Host.Cell} {q : Nat} {p : Packet} {j : Job} (hj : m.job? (pktJob p) = some j)
include hj

theorem Mod.ckptWrite_of_good {hs : List Nat} (hfree : j.ckpt = none) (hw : m.attic.readOnly = false)
    (hhs : hs = (List.range (pkt p 24 4)).map fun i => Memory.readN mem (pkt p 16 8 + 4 * i) 4)
    (hgood : m.badHandle (pktJob p) hs = none) : m.ckptWrite mem q p =
      (m.onJob (pktJob p) fun j => { j with ckpt := some (ckptOfPkt q p hs) }).hold q := by
  simp [Mod.ckptWrite, hj, hfree, hw, ← hhs, hgood]

theorem Mod.ckptRestore_of_durable {o : Obj} {im : Image} {m' : Mod} {map : List (Nat × Nat)} (hrun : j.run = none)
    (ho : m.obj? (pkt p 16 4) = some o)
    (him : (m.images.find? fun x => x.obj = pkt p 16 4 && x.durable && (x.job = 0 || x.job = pktJob p)) = some im)
    (hres : m.restoreImage (pktJob p) im = .ok (m', map)) (hkeep : bit (pkt p 20 1) 0 = false) : m.ckptRestore q p =
      (m'.hostWrite (pkt p 24 8) (map.flatMap fun x => leBytes 4 x.1 ++ leBytes 4 x.2)).drive.reply q (pktId p) stOK 0
        [(16, 4, map.length), (24, 8, im.step)] := by
  have hidle : m.run? (pktJob p) = none := by simp [Mod.run?, hj, hrun]
  simp [Mod.ckptRestore, hidle, ho, him, hres, hkeep]

theorem Mod.snapshotExport_of_link {x : SnapExp} (hfree : j.snap = none) (hlink : pkt p 20 1 = 1)
    (hroom : 4 * (pkt p 18 2 + 1 - pkt p 16 2) ≤ pkt p 32 8) (hx : x = {
      queue := q
      cmdId := pktId p
      lo := pkt p 16 2
      hi := pkt p 18 2
      link := true
      vc := pkt p 21 1
      syncObj := pkt p 22 1
      syncCore := pkt p 23 1
      addr := pkt p 24 8
      len := pkt p 32 8
      dstChip := pkt p 40 4
      dstJob := pkt p 44 2
      id := m.ids }) : m.snapshotExport q p =
      ({ m with ids := m.ids + 1 }.onJob (pktJob p) fun j => { j with snap := some x }).hold q := by
  subst hx
  simp [Mod.snapshotExport, hj, hfree, hlink, hroom]

end

end

end Sys2Proof.Machine
end

section
/-! PROOFS of 14_job_mapping: the statements. -/
namespace Sys2Proof.Proofs
open Sys2Proof Sys2Proof.Machine

/-- Settles O21: one lemma for each event. That an aborted step's waits without a deadline end with it is the model's reading (log
entry 32). -/
theorem boundaryEventsComplete : Obligations.BoundaryEventsComplete := by
  intro job c s
  refine ⟨fun r st d m hr hm hover => ?stepEnd, fun r hr => ⟨fun h => ?notAborted, fun h hwait => ?aborted⟩,
    fun d hd hfencing hfenced hmore hb => ?fence, fun d f hd hb hfenced hspare => ?unfence,
    fun j k h hj hk hh hdone => ?durable, fun j x hj hx hc hb => ?capture, fun j x st hj hx hc hall hlink => ?done⟩
  case stepEnd => rw [exec_stepEnd, execStepEnd, run, Mod.stepEnd_of_over hr hm hover]
  case notAborted => exact Mod.endWaits_of_notAborted hr h
  case aborted => exact Mod.endWaits_of_aborted hr h hwait
  case fence =>
    rw [exec_deferredCoreFence, execDeferredCoreFence, run,
      Mod.fenceNow_of_boundary hd (Mod.mem_liveCores hfencing hfenced) hmore hb]
  case unfence =>
    rw [exec_deferredCoreUnfence, execDeferredCoreUnfence, run, Mod.unfenceNow_of_boundary hd hb hfenced hspare]
  case durable => rw [exec_ckptDurable, execCkptDurable, run, Mod.ckptDurable_of_onNand hj hk hh hdone]
  case capture =>
    rw [exec_snapshotCapture, execSnapshotCapture, run, Mod.snapCapture_of_boundary hj hx hc hb]
  case done => rw [exec_snapshotDone, execSnapshotDone, run, Mod.snapDone_of_written hj hx hc hall hlink]

/-- Settles O7: one lemma for each command. -/
theorem savingCommandsComplete : Obligations.SavingCommandsComplete := by
  intro q p s j hj
  refine ⟨fun ha hfree hw hs hhs hgood => ?write, fun ha hrun o im m map ho him hres hkeep => ?restore,
    fun ha hfree hlink hroom x hx => ?sends⟩
  case write => rw [exec_ckptWrite, execCkptWrite, runH, ha.command_eq, Mod.ckptWrite_of_good hj hfree hw hhs hgood]
  case restore => rw [exec_ckptRestore, execCkptRestore, run, ha.command_eq, Mod.ckptRestore_of_durable hj hrun ho him hres hkeep]
  case sends => rw [exec_snapshotExport, execSnapshotExport, run, ha.command_eq, Mod.snapshotExport_of_link hj hfree hlink hroom hx]

end Sys2Proof.Proofs
end

section
/-! PROOFS of 15_host_interface. The checks of R542 for every host command; queues, doorbells and fetching; the PCI Express events and FLR;
the commands that answer from what the module holds, each where nothing stands in its way. -/
namespace Sys2Proof.Machine

/-! ### The checks of R542 -/

section
variable {m : Mod} {op q st d : Nat} {p : Packet}

theorem Mod.pktOp_of_takes (h : m.takes op q p = true) : pktOp p = op := by
  unfold Mod.takes at h
  split at h
  · cases h
  · simp only [Bool.and_eq_true, decide_eq_true_eq] at h
    obtain ⟨⟨⟨-, hop⟩, -⟩, -⟩ := h
    exact hop

theorem Mod.command_of_fails (ht : m.takes op q p = true) (hc : m.checkPkt p = some (st, d)) (f : Mod → Mod) :
    m.command op q p f = m.reply q (pktId p) st d := by
  simp [Mod.command, ht, hc]

theorem Mod.evrCommand_of_fails (ht : m.takes op q p = true) (hc : m.checkPkt p = some (st, d)) (e : Evr) (f : Evr → Evr) :
    m.evrCommand e op q p f = (m.reply q (pktId p) st d, e) := by
  simp [Mod.evrCommand, Mod.command_of_fails ht hc, hc]

theorem Mod.checkPkt_of_notServing (hop : pktOp p ∈ hostOps) (hs : m.serving = false) (ha : pktOp p ∉ anyStateOps) :
    m.checkPkt p = some (stDeviceState, m.phase.code) := by
  simp [Mod.checkPkt, hop, hs, ha]

/-- The state does not stop the command: the checks go on to SIGNED, the fields and the job. -/
theorem Mod.checkPkt_of_taken (hop : pktOp p ∈ hostOps) (hs : m.serving = true ∨ pktOp p ∈ anyStateOps) : m.checkPkt p =
    if pktSigned p ≠ signedOps.contains (pktOp p) then some (stSignature, 0)
    else match badField p with
      | some a => some (stInvalidField, a)
      | none => if pktJob p ≠ 0 && pktOp p ≠ 0x08 && (m.job? (pktJob p)).isNone then some (stJobNotOpen, 0) else none := by
  have hstate : (!m.serving && !anyStateOps.contains (pktOp p)) = false := by rcases hs with h | h <;> simp [h]
  simp only [Mod.checkPkt, List.contains_iff_mem.2 hop, hstate, Bool.not_true, Bool.false_eq_true, if_false] <;> rfl

theorem Mod.checkPkt_ne_deviceState (hop : pktOp p ∈ hostOps) (hs : m.serving = true ∨ pktOp p ∈ anyStateOps) (d : Nat) :
    m.checkPkt p ≠ some (stDeviceState, d) := by
  rw [Mod.checkPkt_of_taken hop hs]
  split
  · simp [stSignature, stDeviceState]
  · split
    · simp [stInvalidField, stDeviceState]
    · split
      · simp [stJobNotOpen, stDeviceState]
      · simp

theorem Mod.signedStatus_of_notServing {mem : List Host.Cell} (hs : m.serving = false) (ha : pktOp p ∉ anyStateOps) (g : Sig) :
    m.signedStatus mem p g = some (stDeviceState, m.phase.code, 0) := by
  simp [Mod.signedStatus, hs, ha]

theorem Mod.signedFail_of_noFault : m.signedFail q p (st, d, 0) = (m.reply q (pktId p) st d).renewNonce := rfl

section
variable {mem : List Host.Cell} {g : Sig} {f : Nat × Nat × Nat} (hf : m.signedStatus mem p g = some f)
include hf

theorem Mod.evrClear_of_fails {e : Evr} (ht : m.takes 0x53 q p = true) : m.evrClear mem e q p g = (m.signedFail q p f, e) := by
  simp [Mod.evrClear, ht, hf]

theorem Mod.fwActivate_of_fails {a : ImageAuth} (ht : m.takes 0x59 q p = true) : m.fwActivate mem q p g a = m.signedFail q p f := by
  simp [Mod.fwActivate, ht, hf]

theorem Mod.debugUnlock_of_fails (ht : m.takes 0x5B q p = true) : m.debugUnlock mem q p g = m.signedFail q p f := by
  simp [Mod.debugUnlock, ht, hf]

end

theorem Mod.serving_eq_false (hr : m.phase ≠ .ready) (hd : m.phase ≠ .degraded) : m.serving = false := by
  simp [Mod.serving, hr, hd]

end

section
variable {i : Instr} {q : Queue} {p : Packet} {op : Nat} {s : State}

theorem Instr.hostOpcode_mem (h : i.hostOpcode = some (q, p, op)) : op ∈ hostOps := by
  cases i <;> cases h <;> decide

/-- The row of an unsigned host command, but for the two that act on the recorder, is one command of its opcode. -/
theorem exec_of_unsigned (h : i.hostOpcode = some (q, p, op)) (hu : op ∉ signedOps) (hfreeze : op ≠ 0x51) (hthaw : op ≠ 0x52) :
    ∃ f, exec i s = .next (s.commit (s.m.command op q p f)) := by
  cases i with
  | evrClear | fwActivate | debugUnlock => cases h; exact absurd (by decide) hu
  | evrFreeze | evrThaw => cases h; contradiction
  | _ => cases h <;> exact ⟨_, rfl⟩

theorem Instr.eq_of_freezeOrThaw (h : i.hostOpcode = some (q, p, op)) (hop : op = 0x51 ∨ op = 0x52) :
    (op = 0x51 ∧ i = .evrFreeze q p) ∨ (op = 0x52 ∧ i = .evrThaw q p) := by
  cases i with
  | evrFreeze => cases h; exact .inl ⟨rfl, rfl⟩
  | evrThaw => cases h; exact .inr ⟨rfl, rfl⟩
  | _ => cases h <;> exact absurd hop (by decide)

/-- An unsigned host command whose packet fails a check of R542 has no other effect than its reply. -/
theorem exec_of_checkPkt {st d : Nat} (h : i.hostOpcode = some (q, p, op)) (hu : op ∉ signedOps) (ht : s.m.takes op q p = true)
    (hc : s.m.checkPkt p = some (st, d)) : exec i s = .next (s.commit (s.m.reply q (pktId p) st d)) := by
  by_cases hrec : op = 0x51 ∨ op = 0x52
  · obtain ⟨rfl, rfl⟩ | ⟨rfl, rfl⟩ := Instr.eq_of_freezeOrThaw h hrec
    · rw [exec_evrFreeze, execEvrFreeze]; exact runE_of_evr_same (Mod.evrCommand_of_fails ht hc _ _)
    · rw [exec_evrThaw, execEvrThaw]; exact runE_of_evr_same (Mod.evrCommand_of_fails ht hc _ _)
  · obtain ⟨hfreeze, hthaw⟩ := not_or.1 hrec
    obtain ⟨f, hf⟩ := exec_of_unsigned (s := s) h hu hfreeze hthaw
    rw [hf, Mod.command_of_fails ht hc]

theorem Instr.eq_of_signed (h : i.hostOpcode = some (q, p, op)) (hsig : op ∈ signedOps) :
    (op = 0x53 ∧ ∃ g, i = .evrClear q p g) ∨ (op = 0x59 ∧ ∃ g a, i = .fwActivate q p g a) ∨
      (op = 0x5B ∧ ∃ g, i = .debugUnlock q p g) := by
  cases i with
  | evrClear _ _ g => cases h; exact .inl ⟨rfl, g, rfl⟩
  | fwActivate _ _ g a => cases h; exact .inr (.inl ⟨rfl, g, a, rfl⟩)
  | debugUnlock _ _ g => cases h; exact .inr (.inr ⟨rfl, g, rfl⟩)
  | _ => cases h <;> exact absurd hsig (by decide)

/-- A signed host command that the module's state does not take answers so, and renews the nonce (R633). -/
theorem exec_of_signed_notServing (h : i.hostOpcode = some (q, p, op)) (hsig : op ∈ signedOps) (ht : s.m.takes op q p = true)
    (hs : s.m.serving = false) :
    exec i s = .next (s.commit (s.m.reply q (pktId p) stDeviceState s.m.phase.code).renewNonce) := by
  have ha : pktOp p ∉ anyStateOps := by
    rw [Mod.pktOp_of_takes ht]
    exact (by decide : ∀ op ∈ signedOps, op ∉ anyStateOps) op hsig
  have hstatus := Mod.signedStatus_of_notServing (mem := s.mem) hs ha
  obtain ⟨rfl, g, rfl⟩ | ⟨rfl, g, a, rfl⟩ | ⟨rfl, g, rfl⟩ := Instr.eq_of_signed h hsig
  · rw [exec_evrClear, execEvrClear]
    exact runE_of_evr_same (by simp only [Mod.evrClear_of_fails (hstatus g) ht, Mod.signedFail_of_noFault])
  · rw [exec_fwActivate, execFwActivate, runH, Mod.fwActivate_of_fails (hstatus g) ht, Mod.signedFail_of_noFault]
  · rw [exec_debugUnlock, execDebugUnlock, runH, Mod.debugUnlock_of_fails (hstatus g) ht, Mod.signedFail_of_noFault]

end

/-! ### Doorbells and queue controls (R531 to R537) -/

section
variable {m : Mod} {q v : Nat}

theorem Mod.sqDoorbell_of_notEnabled (h : (m.q! q).en = false) : m.sqDoorbell q v = m := by simp [Mod.sqDoorbell, h]

theorem Mod.cqDoorbell_of_notEnabled (h : (m.q! q).en = false) : m.cqDoorbell q v = m := by simp [Mod.cqDoorbell, h]

section
variable (hen : (m.q! q).en = true) (hruns : (m.q! q).halted = false)
include hen hruns

theorem Mod.sqDoorbell_of_outside (h : (m.q! q).size < v % 4096) : m.sqDoorbell q v = m.queueError q 1 (v % 4096) := by
  simp [Mod.sqDoorbell, hen, hruns, Nat.succ_le_of_lt h]

theorem Mod.cqDoorbell_of_outside (h : (m.q! q).size < v % 4096) : m.cqDoorbell q v = m.queueError q 1 (v % 4096) := by
  simp [Mod.cqDoorbell, hen, hruns, h]

/-- A tail inside the ring is refused only where it moves without going forward. -/
theorem Mod.sqDoorbell_of_inside (h : v % 4096 ≤ (m.q! q).size) : m.sqDoorbell q v =
    if v % 4096 ≠ (m.q! q).sqTail ∧ (v % 4096 + ((m.q! q).size + 1) - (m.q! q).sqHead) % ((m.q! q).size + 1) ≤
        ((m.q! q).sqTail + ((m.q! q).size + 1) - (m.q! q).sqHead) % ((m.q! q).size + 1) then m.queueError q 2 (v % 4096)
    else m.onQ q fun x => { x with sqTail := v % 4096 } := by
  have hin : ¬ (m.q! q).size + 1 ≤ v % 4096 := by omega
  simp only [Mod.sqDoorbell, hen, hruns, if_neg hin, Bool.not_true, Bool.or_self, Bool.false_eq_true, if_false]

end

theorem Mod.cqDoorbell_of_inside (hen : (m.q! q).en = true) (h : v % 4096 ≤ (m.q! q).size) :
    m.cqDoorbell q v = m.onQ q fun x => { x with cqHead := v % 4096 } := by
  simp [Mod.cqDoorbell, hen, Nat.not_lt.2 h]

theorem Mod.writeQcfg_of_enabled (hen : (m.q! m.hif.qsel).en = true) : m.writeQcfg v =
    if bit v 31 then m else m.onQ m.hif.qsel fun x => { x with en := false, stopping := x.cmd.isSome } := by
  simp only [Mod.writeQcfg, hen, if_true]

theorem Mod.writeQcfg_of_busy (hen : (m.q! m.hif.qsel).en = false) (hbusy : (m.q! m.hif.qsel).cmd.isSome = true) :
    m.writeQcfg v = m := by
  simp [Mod.writeQcfg, hen, hbusy]

/-- The selected queue with the fields that HIF_QCFG configures (R531). -/
def Qp.configured (x : Qp) (v : Nat) : Qp :=
  { x with coalCount := fld v 24 7, vector := fld v 16 8, coalTime := fld v 12 4, size := fld v 0 12 }

/-- A stopped queue of which no command is in flight takes the fields; EN starts it where its bases and its size are good. -/
theorem Mod.writeQcfg_of_stopped {x : Qp} (hx : x = m.q! m.hif.qsel) (hen : x.en = false) (hidle : x.cmd = none) :
    m.writeQcfg v =
      if !bit v 31 then m.onQ m.hif.qsel fun _ => x.configured v
      else if x.sqBase % 4096 ≠ 0 ∨ x.cqBase % 4096 ≠ 0 ∨ fld v 0 12 < 1 then
        m.onQ m.hif.qsel fun _ => { x.configured v with cfgErr := true }
      else m.onQ m.hif.qsel fun _ => { x.configured v with
        en := true
        halted := false
        sqHead := 0
        sqTail := 0
        cqHead := 0
        cqTail := 0
        phase := true
        unsig := 0
        unsigFrom := 0 } := by
  subst hx
  have hbusy : ¬ (m.q! m.hif.qsel).cmd.isSome = true := by simp [hidle]
  unfold Mod.writeQcfg
  extract_lets q x x'
  rw [if_neg (ne_true_of_eq_false hen), if_neg hbusy]
  rfl

end

section
variable {s : State} {v : W32}

theorem execSqTailDoorbell_of_reachable {q : Queue} (hr : s.m.reachable = true) :
    execSqTailDoorbell q v s = .next (s.commit (s.m.sqDoorbell q v.toNat)) := by
  rw [execSqTailDoorbell, run, if_pos hr]

theorem execCqHeadDoorbell_of_reachable {q : Queue} (hr : s.m.reachable = true) :
    execCqHeadDoorbell q v s = .next (s.commit (s.m.cqDoorbell q v.toNat)) := by
  rw [execCqHeadDoorbell, run, if_pos hr]

theorem execQueueEnable_of_en (hr : s.m.reachable = true) (hb : bit v.toNat 31 = true) :
    execQueueEnable v s = .next (s.commit (s.m.writeQcfg v.toNat)) := by
  rw [execQueueEnable, run, if_pos (by rw [hr, hb]; rfl)]

theorem execQueueDisable_of_notEn (hr : s.m.reachable = true) (hb : bit v.toNat 31 = false) :
    execQueueDisable v s = .next (s.commit (s.m.writeQcfg v.toNat)) := by
  rw [execQueueDisable, run, if_pos (by rw [hr, hb]; rfl)]

end

/-! ### Fetching, failed reads and coalesced interrupts (R530, R534, R536, R538) -/

section
variable {mem : List Host.Cell} {m : Mod} {q : Nat}

theorem Mod.commandStart_of_known (hf : m.fetching = true) (hq : m.nextQueue mem = some q)
    (hop : hostOps.contains (pktOp (m.nextPkt mem q)) = true) : m.commandStart mem =
      { m with
        hif := { m.hif with rr := (q + 1) % 64 }
        orders := m.orders + 1 }.onQ q fun x => { x with
          sqHead := (x.sqHead + 1) % (x.size + 1)
          cmd := some { pkt := m.nextPkt mem q, order := m.orders + 1 } } := by
  simp only [Mod.commandStart, hf, hq, hop, Bool.not_true, Bool.false_eq_true, if_false, if_true]

theorem Mod.dmaError_of_fetch {addr : Nat} {kind : DmaError} (hf : m.fetching = true) (hq : m.nextQueue mem = some q) :
    m.dmaError mem q true addr kind = m.queueError q 3 (m.q! q).sqTail := by
  simp [Mod.dmaError, hf, hq]

theorem Mod.dmaError_of_reading {addr : Nat} {kind : DmaError} {c : Cmd} {m' : Mod} (hc : (m.q! q).cmd = some c)
    (hwaits : c.acting = false) (hr : m.readsHost c.pkt = true)
    (hm : m' = m.ev 0x9002 0 [(0, 1, q), (1, 1, pktOp c.pkt), (2, 8, addr), (10, 1, dmaCode kind)]) :
    m.dmaError mem q false addr kind = (if pktSigned c.pkt then m'.renewNonce else m').reply q (pktId c.pkt) stHostAccess := by
  simp only [Mod.dmaError, hc, hwaits, hr, ← hm, Bool.not_true, Bool.false_eq_true, if_false]

theorem Mod.coalesce_of_due (hn : (m.q! q).unsig ≠ 0) (ht : (m.q! q).unsigFrom + 1000 * (m.q! q).coalTime ≤ m.now) {m' : Mod}
    (hm : m' = m.onQ q fun x => { x with unsig := 0 }) :
    m.coalesce q = { m' with hif := { m'.hif with msix := (m.q! q).vector :: m'.hif.msix } } := by
  have hdue : ¬ ((m.q! q).unsig = 0 ∨ m.now < (m.q! q).unsigFrom + 1000 * (m.q! q).coalTime) := by omega
  simp only [Mod.coalesce, if_neg hdue, hm]

end

theorem execPcieDegraded_of_wellFormed {s : State} {w r : Nat} (hr : s.m.reachable = true)
    (hwf : (Instr.pcieDegraded w r).wellFormed = true) : execPcieDegraded w r s =
      .next (s.commit ({ s.m with hif := { s.m.hif with width := w, rate := r } }.ev 0x9005 0 [(0, 1, w), (1, 2, r)])) := by
  have hrange : ([1, 2, 4, 8].contains w && [1280, 640, 320, 160, 80, 50, 25].contains r && !(w == 8 && r == 1280)) = true :=
    (Bool.and_eq_true_iff.1 hwf).2
  obtain ⟨hknown, hfull⟩ := Bool.and_eq_true_iff.1 hrange
  have hfull' : (decide (w = 8) && decide (r = 1280)) = false := by simpa [imp_iff_not_or] using hfull
  rw [execPcieDegraded, run, if_neg (by rw [hr, hknown, hfull']; decide)]

/-! ### FLR (R617) -/

section
variable {m : Mod}

theorem Mod.async_q (b : Nat) : (m.async b).hif.q = m.hif.q := by unfold Mod.async; split <;> rfl

theorem Mod.async_qsel (b : Nat) : (m.async b).hif.qsel = m.hif.qsel := by unfold Mod.async; split <;> rfl

/-- What the end of a row adds to the module is asynchronous causes and counted traffic. -/
theorem State.commit_m_induction {s : State} {m : Mod} {P : Mod → Prop} (hasync : ∀ m b, P m → P (m.async b))
    (htraffic : ∀ m a b, P m → P (m.evrTraffic a b)) (h : P { m with out := {} }) : P (s.commit m).m := by
  unfold State.commit
  extract_lets evr mem m1 m2 m3 m4
  have h1 : P m1 := htraffic _ _ _ h
  have h2 : P m2 := by dsimp only [m2]; split; exacts [hasync _ _ h1, h1]
  have h3 : P m3 := by dsimp only [m3]; split; exacts [hasync _ _ h2, h2]
  show P m4
  dsimp only [m4]
  split
  exacts [hasync _ _ h3, h3]

theorem Mod.flr_reset (m : Mod) : m.flr.hif.q = [] ∧ m.flr.sec.dbgEnd = 0 ∧ m.flr.tb.joins = [] ∧ m.flr.hif.qsel = 0 := by
  unfold Mod.flr
  dsimp only
  split <;> exact ⟨rfl, rfl, rfl, rfl⟩

theorem State.commit_flr_reset (s : State) : (s.commit s.m.flr).m.hif.q = [] ∧ (s.commit s.m.flr).m.sec.dbgEnd = 0 ∧
    (s.commit s.m.flr).m.tb.joins = [] ∧ (s.commit s.m.flr).m.hif.qsel = 0 := by
  refine State.commit_m_induction (P := fun m => m.hif.q = [] ∧ m.sec.dbgEnd = 0 ∧ m.tb.joins = [] ∧ m.hif.qsel = 0)
    (fun m b h => ?_) (fun m a b h => ?_) (Mod.flr_reset s.m)
  · rwa [Mod.async_q, Mod.async_sec, Mod.async_tb, Mod.async_qsel]
  · rwa [Mod.evrTraffic_hif, Mod.evrTraffic_sec, Mod.evrTraffic_tb]

end

/-! ### Commands that answer from what the module holds (Tables 15.9, 15.13) -/

section
variable {m : Mod} {q : Nat} {p : Packet}

/-- An area whose oldest record is not below the index asked for is read from its first record on (R650). -/
theorem Mod.evrRead_of_oldest {e : Evr} {area : List Rec} {last : Rec} (harea : area = if pkt p 32 1 = 1 then e.pres else e.ring)
    (hhead : pkt p 24 4 < if pkt p 32 1 = 1 then e.presNext else e.next) (hall : ∀ r ∈ area, pkt p 24 4 ≤ r.index)
    (hlast : (area.take (pkt p 28 4)).getLast? = some last) : m.evrRead e q p =
      (m.hostWrite (pkt p 16 8) ((area.take (pkt p 28 4)).flatMap Rec.bytes)).reply q (pktId p) stOK 0
        [(16, 4, (area.take (pkt p 28 4)).length), (20, 4, last.index + 1)] := by
  have hheld : area.filter (fun r => decide (pkt p 24 4 ≤ r.index)) = area := List.filter_eq_self.2 (by simpa using hall)
  simp only [Mod.evrRead, if_neg (Nat.not_le.2 hhead), ← harea, hheld, hlast]

theorem Mod.metRead_of_valid {f : MetFrame} (hv : m.met.valid = true) (hf : m.met.held = some f) : m.metRead q p =
    m.reply q (pktId p) stOK 0 [(16, 8, f.energy.toNat), (24, 8, m.met.heldAt)] := by
  simp only [Mod.metRead, hv, hf, if_true]

theorem Mod.fwStage_of_inArea {mem : List Host.Cell} (hin : pkt p 28 4 + pkt p 24 4 ≤ 67117056) {sec0 : Sec}
    (hs : sec0 = (if pkt p 28 4 = 0 then { m.sec with stage := [], stageRanges := [], stageLen := none } else m.sec)) :
    m.fwStage mem q p = { m with
      sec := { sec0 with
        stage := stageBytes mem sec0.stage (pkt p 16 8) (pkt p 24 4) (pkt p 28 4)
        stageRanges := addRange sec0.stageRanges (pkt p 28 4) (pkt p 28 4 + pkt p 24 4)
        stageLen := if bit (pkt p 32 1) 0 then some (pkt p 28 4 + pkt p 24 4) else sec0.stageLen }
      nv := m.nv.setSlot m.nv.stageSlot fun (f : FwSlot) =>
        if pkt p 28 4 = 0 then ({} : FwSlot) else { f with
          valid := false
          st := if f.st = SlotState.pending then SlotState.pending else SlotState.empty } }.reply q (pktId p) stOK 0
            [(16, 4, pkt p 24 4)] := by
  simp only [Mod.fwStage, if_neg (Nat.not_lt.2 hin), hs]

theorem Mod.attest_eq {mem : List Host.Cell} {w : Nat} {x : Mod} {bs : List Byte}
    (hw : w = Memory.readN mem (pkt p 16 8) (min 8 (pkt p 24 4))) (hx : x = m.attestRequest w)
    (hbs : bs = Config.spdmFrame (byf w 1 1)
      (if x.conn .attest = m.conn .attest ∧ byf w 1 1 ≠ 0x84 then [] else (x.conn .attest).values)) : m.attest mem q p =
      ((x.spend 1).hostWrite (pkt p 32 8) (bs.take (pkt p 40 4))).reply q (pktId p) stOK 0 [(16, 4, bs.length)] := by
  simp only [Mod.attest, ← hw, ← hx, ← hbs]

theorem Mod.opSet_of_idle (hj : pktJob p = 0) (hpref : pkt p 20 1 ≠ 0xFF) : m.opSet q p =
    ({ m with pwr := { m.pwr with idlePref := pkt p 20 1 } }.power).reply q (pktId p) stOK := by
  simp only [Mod.opSet, if_pos hj, if_neg hpref]

theorem Mod.opSet_of_job {j : Job} (hj : pktJob p ≠ 0) (hopen : m.job? (pktJob p) = some j) : m.opSet q p =
    { m with jobs := Tab.put m.jobs (pktJob p) { j with
      ops := (List.range 4).map fun i => if pkt p (16 + i) 1 = 0xFF then j.ops.getD i 5 else pkt p (16 + i) 1 } }.reply q
        (pktId p) stOK := by
  simp only [Mod.opSet, if_neg hj, Mod.onJob, hopen]

end

end Sys2Proof.Machine
end

section
/-! PROOFS of 15_host_interface: the statements. -/
namespace Sys2Proof.Proofs
open Sys2Proof Sys2Proof.Machine

/-- Settles O49: `exec_of_checkPkt` for the first check that fails. -/
theorem failedChecksComplete : Obligations.FailedChecksComplete := by
  intro i q p op s h hu ht
  have hop := Mod.pktOp_of_takes ht
  have hmem : pktOp p ∈ hostOps := hop ▸ Instr.hostOpcode_mem h
  have hus : signedOps.contains (pktOp p) = false := by simpa [hop] using hu
  refine ⟨fun hs ha => exec_of_checkPkt h hu ht (Mod.checkPkt_of_notServing hmem hs (hop ▸ ha)),
    fun hs => ⟨fun hsig => exec_of_checkPkt h hu ht ?signature, fun hsig a hbad => exec_of_checkPkt h hu ht ?field,
      fun hsig hgood hjob hopen hnone => exec_of_checkPkt h hu ht ?job⟩⟩ <;>
    rw [Mod.checkPkt_of_taken hmem (hop ▸ hs), hus, hsig]
  case signature => rfl
  case field => simp [hbad]
  case job => simp [hgood, hjob, hop, hopen, hnone]

/-- Settles O50: the check of the state comes first, for a signed command too. -/
theorem stateAllowsTheOpcode : Obligations.StateAllowsTheOpcode := by
  intro i q p op s h ht hr hd
  have hop := Mod.pktOp_of_takes ht
  have hmem : pktOp p ∈ hostOps := hop ▸ Instr.hostOpcode_mem h
  have hs := Mod.serving_eq_false hr hd
  have hsigned : ([0x53, 0x59, 0x5B] : List Nat) = signedOps := rfl
  refine ⟨fun ha r hreply => ?_, fun ha => Mod.checkPkt_ne_deviceState hmem (.inr (hop ▸ ha))⟩
  rw [hsigned, hreply]
  by_cases hsig : op ∈ signedOps
  · rw [if_pos hsig]; exact exec_of_signed_notServing h hsig ht hs
  · rw [if_neg hsig]; exact exec_of_checkPkt h hsig ht (Mod.checkPkt_of_notServing hmem hs (hop ▸ ha))

/-- Settles O8: one lemma for each place of a doorbell's value, and one for HIF_QCFG of an enabled, a busy and a stopped queue. That a
tail which moves without going forward stops the queue as one that overruns is deduced (log entry 23). -/
theorem queueControlsComplete : Obligations.QueueControlsComplete := by
  intro q v s hr
  have hsq := execSqTailDoorbell_of_reachable (q := q) (v := v) hr
  have hcq := execCqHeadDoorbell_of_reachable (q := q) (v := v) hr
  refine ⟨fun hen hruns hin hforward => ?tail, fun hen hin => ?head, fun hen hruns hout => ⟨?tailOut, ?headOut⟩,
    fun hen hruns hin hmoves hback => ?overrun, fun hen => ⟨?tailOff, ?headOff⟩, fun x hx hb hen hidle hbad => ?cfgErr,
    fun hb hbusy => ?busy, fun x hx hb hen hidle => ?configures, fun x hx hb hen hidle hsqb hcqb hsize => ?starts,
    fun hb hen => ?stops⟩
  case tail => rw [exec_sqTailDoorbell, hsq, Mod.sqDoorbell_of_inside hen hruns hin, if_neg (by omega)]
  case head => rw [exec_cqHeadDoorbell, hcq, Mod.cqDoorbell_of_inside hen hin]
  case tailOut => rw [exec_sqTailDoorbell, hsq, Mod.sqDoorbell_of_outside hen hruns hout]
  case headOut => rw [exec_cqHeadDoorbell, hcq, Mod.cqDoorbell_of_outside hen hruns hout]
  case overrun => rw [exec_sqTailDoorbell, hsq, Mod.sqDoorbell_of_inside hen hruns hin, if_pos ⟨hmoves, hback⟩]
  case tailOff => rw [exec_sqTailDoorbell, hsq, Mod.sqDoorbell_of_notEnabled hen]
  case headOff => rw [exec_cqHeadDoorbell, hcq, Mod.cqDoorbell_of_notEnabled hen]
  case cfgErr =>
    rw [exec_queueEnable, execQueueEnable_of_en hr hb, Mod.writeQcfg_of_stopped hx hen hidle, if_neg (by simp [hb]),
      if_pos (by rwa [Nat.lt_one_iff])]
    rfl
  case busy =>
    rw [exec_queueEnable, execQueueEnable_of_en hr hb]
    cases hen : (s.m.q! s.m.hif.qsel).en with
    | true => rw [Mod.writeQcfg_of_enabled hen, if_pos hb]
    | false => rw [Mod.writeQcfg_of_busy hen (hbusy.resolve_left (by simp [hen]))]
  case configures =>
    rw [exec_queueDisable, execQueueDisable_of_notEn hr hb, Mod.writeQcfg_of_stopped hx hen hidle, if_pos (by simp [hb])]
    rfl
  case starts =>
    rw [exec_queueEnable, execQueueEnable_of_en hr hb, Mod.writeQcfg_of_stopped hx hen hidle, if_neg (by simp [hb]),
      if_neg (by omega)]
    rfl
  case stops =>
    rw [exec_queueDisable, execQueueDisable_of_notEn hr hb, Mod.writeQcfg_of_enabled hen, if_neg (by simp [hb])]

/-- Settles O9. -/
theorem commandStartFetchesInTurn : Obligations.CommandStartFetchesInTurn := by
  intro s q hf hq hop
  rw [exec_commandStart, execCommandStart, runH, Mod.commandStart_of_known hf hq hop]

/-- Settles O10: one lemma for each event that has conditions of its own. -/
theorem pciEventsComplete : Obligations.PciEventsComplete := by
  intro q addr kind st s hr
  refine ⟨fun hf hq => ?fetch, fun c m hc hwaits hreads hm => ?read, fun hn ht => ?coalesce, ?correctable, ?uncorrectable,
    fun w r hwf => ?degraded, ?ide, ?flr, State.commit_flr_reset s⟩
  case fetch => rw [exec_hostDmaError, execHostDmaError, runH, Mod.dmaError_of_fetch hf hq]
  case read => rw [exec_hostDmaError, execHostDmaError, runH, Mod.dmaError_of_reading hc hwaits hreads hm]
  case coalesce => rw [exec_interruptCoalesceTimeout, execInterruptCoalesceTimeout, run, Mod.coalesce_of_due hn ht rfl]
  case correctable => simp only [exec_pcieAerError, execPcieAerError, run, hr]; rfl
  case uncorrectable => simp only [exec_pcieAerError, execPcieAerError, run, hr]; rfl
  case degraded => rw [exec_pcieDegraded, execPcieDegraded_of_wellFormed hr hwf]
  case ide => rw [exec_ideError, execIdeError, run, if_pos hr]
  case flr => rw [exec_flr, execFlr, run, if_pos hr]

/-- Settles O1: the command of an accepted packet does its own work; one lemma for each that has conditions. What a chunk of FW_STAGE
leaves of its slot is deduced (log entry 38), and ATTEST's framing is left to the base standard (log entry 36). -/
theorem queryCommandsComplete : Obligations.QueryCommandsComplete := by
  intro q p s
  refine ⟨fun ha => ?query, fun ha => ?config, fun ha => ?cap, fun ha area last harea hhead hall hlast => ?read,
    fun ha f hv hf => ?met, fun ha hin sec0 hs => ?stage, fun ha w x bs hw hx hbs => ?attest, fun ha hj hpref => ?idle,
    fun ha j hj hopen => ?job⟩
  case query => rw [exec_devQuery, execDevQuery, run, ha.command_eq, Mod.devQuery]
  case config => rw [exec_devConfig, execDevConfig, run, ha.command_eq, Mod.devConfig]
  case cap => rw [exec_powerCap, execPowerCap, run, ha.command_eq, Mod.powerCap]
  case read => rw [exec_evrRead, execEvrRead, run, ha.command_eq, Mod.evrRead_of_oldest harea hhead hall hlast]
  case met => rw [exec_metRead, execMetRead, run, ha.command_eq, Mod.metRead_of_valid hv hf]
  case stage => rw [exec_fwStage, execFwStage, runH, ha.command_eq, Mod.fwStage_of_inArea hin hs]
  case attest => rw [exec_attest, execAttest, runH, ha.command_eq, Mod.attest_eq hw hx hbs]
  case idle => rw [exec_opSet, execOpSet, run, ha.command_eq, Mod.opSet_of_idle hj hpref]
  case job => rw [exec_opSet, execOpSet, run, ha.command_eq, Mod.opSet_of_job hj hopen]

end Sys2Proof.Proofs
end

section
/-! PROOFS of 16_power_and_thermal. The target point; the forced sources and their hold-off, ramps and droop; the power samples, the cap
loop, the sensors and the thermal ceiling, each where nothing stands in its way. -/
namespace Sys2Proof.Machine

/-! ### The target point (R571) -/

theorem Pwr.target_of_forced {p : Pwr} (h : p.acting ≠ []) : p.target = 0 := by
  simp [Pwr.target, Pwr.forced, h]

theorem Pwr.target_of_free {p : Pwr} (ha : p.acting = []) (hh : p.holdoff = none) :
    p.target = min p.opReq (min p.capOp p.thermOp) := by
  simp [Pwr.target, Pwr.forced, ha, hh]

section
variable {m : Mod}

/-! ### Forced sources (R574, R575, R578, R684) -/

theorem Mod.throttleIn_of_lasting {ns : Nat} {acts : Bool} (hrails : m.railsOn = true) (hfree : m.pins.throttle = false)
    (hlong : 50 ≤ ns) : m.throttleIn ns acts = { m with pins := { m.pins with throttle := true } }.throttleOn := by
  have hrails' : ({ m with pins := { m.pins with throttle := true } } : Mod).railsOn = true := hrails
  simp [Mod.throttleIn, hfree, hlong, hrails']

theorem execThrottleInRelease_of_acting {s : State} (h : s.m.pwr.acting.contains .throttle = true) :
    execThrottleInRelease s = .next (s.commit ({ s.m with
      pins := { s.m.pins with throttle := false }
      pwr := { s.m.pwr with throttleTicks := s.m.now - s.m.pwr.throttleFrom } }.forceOff .throttle)) := by
  rw [execThrottleInRelease, run]
  simp only [if_pos h]

/-- An alert whose condition holds, of a kind and die of which none stands, begins to act. -/
theorem Mod.regAlert_of_first {kind : AlertKind} {d v : Nat} {a : RegAlert} (hrails : m.railsOn = true)
    (hholds : alertHolds kind v = true) (hfirst : m.pwr.alerts.any (RegAlert.same kind d) = false) (hkind : kind ≠ .overCurrent)
    (ha : a = { kind := alertCode kind, die := if kind = .inputLow then 0 else d, value := v }) {m' : Mod}
    (hm : m' = { m with pwr := { m.pwr with
      alerts := m.pwr.alerts ++ [a]
      alertSeen := (m.pwr.alertSeen.filter fun x => !RegAlert.same kind d x) ++ [a] } }) :
    m.regAlert kind d v = (m'.forceOn .alert).ev 0xA012 0 [(0, 1, a.die), (1, 1, a.kind), (2, 2, v)] := by
  subst ha hm
  simp only [Mod.regAlert, hrails, hholds, hfirst, if_neg hkind, Bool.not_true, Bool.or_self, Bool.false_eq_true, if_false]

theorem execRegAlertClear_of_last {k : AlertAt} {s : State} {m' : Mod} (h : ∀ a ∈ s.m.pwr.alerts, RegAlert.same k.kind k.die a = true)
    (hm : m' = { s.m with pwr := { s.m.pwr with alerts := [] } }) : execRegAlertClear k s = .next (s.commit (m'.forceOff .alert)) := by
  have hnone : (s.m.pwr.alerts.filter fun a => !RegAlert.same k.kind k.die a) = [] := by simpa using h
  rw [execRegAlertClear, run]
  simp only [hnone, hm, List.isEmpty_nil, if_true]

theorem execRegAlertClear_of_more {k : AlertAt} {s : State} (h : ∃ a ∈ s.m.pwr.alerts, RegAlert.same k.kind k.die a = false) :
    execRegAlertClear k s = .next (s.commit { s.m with pwr := { s.m.pwr with
      alerts := s.m.pwr.alerts.filter fun a => !RegAlert.same k.kind k.die a } }) := by
  have hsome : (s.m.pwr.alerts.filter fun a => !RegAlert.same k.kind k.die a).isEmpty = false := by simpa using h
  rw [execRegAlertClear, run]
  simp only [hsome, Bool.false_eq_true, if_false]

theorem Mod.holdoffEnd_of_droop {t : Nat} (ht : m.pwr.holdoff = some t) (hdue : t + 10000 ≤ m.now) (hr : m.pwr.released = [.droop]) :
    m.holdoffEnd = { m with pwr := { m.pwr with
      holdoff := none
      released := []
      alertSeen := [] } }.power := by
  have hthrottle : ([.droop] : List Forced).contains .throttle = false := rfl
  have halert : ([.droop] : List Forced).contains .alert = false := rfl
  simp only [Mod.holdoffEnd, ht, if_neg (Nat.not_lt.2 hdue), hr, hthrottle, halert, Bool.false_eq_true, if_false]

/-! ### Ramps and droop (R573, R577) -/

theorem Mod.rampStep_of_below (hramp : m.pwr.ramping = true) (hwarn : m.pwr.anyWarn = false) (hdue : m.pwr.rampAt + 1000 ≤ m.now)
    (hbelow : m.pwr.setpoint + 10 < m.vtab m.pwr.target) : m.rampStep = { m with pwr := { m.pwr with
      setpoint := m.pwr.setpoint + 10
      rampAt := m.now } } := by
  simp [Mod.rampStep, hramp, hwarn, Nat.not_lt.2 hdue, Nat.not_le.2 hbelow]

theorem Mod.droopSample_of_warning {d mv : Nat} {m' : Mod} (hrails : m.railsOn = true) (hshallow : m.pwr.setpoint ≤ mv + 60)
    (hlow : mv + 25 < m.pwr.setpoint) (hfirst : (m.die! d).warn = false) (hsteady : m.pwr.ramping = false)
    (hm : m' = { m with free := m.free + 1 }.onDie d fun x => { x with
      mv := mv
      warnLow := mv
      amps := (Config.freeValue m.free).toNat % 65536 }) : m.droopSample d mv =
      (((m'.onDie d fun x => { x with warn := true, warnFrom := m'.now }).ev 0xA020 1
        [(0, 1, d), (1, 2, m'.pwr.setpoint), (3, 2, mv)]).pwrCnt 0x220 1).settleDroop := by
  have hdeep : ¬ mv + 60 < m.pwr.setpoint := Nat.not_lt.2 hshallow
  have hramp : (((m'.onDie d fun x => { x with warn := true, warnFrom := m'.now }).ev 0xA020 1
      [(0, 1, d), (1, 2, m'.pwr.setpoint), (3, 2, mv)]).pwrCnt 0x220 1).pwr.ramping = false := by subst hm; exact hsteady
  simp only [Mod.droopSample, hrails, hlow, hdeep, hfirst, ← hm, hramp, decide_true, decide_false, Bool.not_true, Bool.not_false,
    Bool.and_self, Bool.false_and, Bool.false_eq_true, if_true, if_false]

theorem Mod.droopTrip_of_first {d why : Nat} (h : m.pwr.acting.contains .droop = false) : m.droopTrip d why =
    (((m.ev 0xA021 0 [(0, 1, d), (1, 2, m.pwr.setpoint), (3, 2, (m.die! d).warnLow), (5, 1, why)]).pwrCnt 0x228 1).forceOn
      .droop).settleDroop := by
  simp only [Mod.droopTrip, h, Bool.false_eq_true, if_false]

/-! ### The cap loop (R580, R583) -/

theorem Mod.powerSample_of_alive {watts vin : Nat} {xs : List Nat} (ha : m.alive = true)
    (hx : xs = (m.pwr.samples ++ [watts]).drop (m.pwr.samples.length - 99)) : m.powerSample watts vin =
      { m with pwr := { m.pwr with
        samples := xs
        p1 := xs.foldl (· + ·) 0 / xs.length
        vin := vin % 65536
        energyUj := m.pwr.energyUj + 10 * watts
        belowFor := if xs.foldl (· + ·) 0 / xs.length + 250 ≤ m.pwr.capW then m.pwr.belowFor + 10 else 0 } } := by
  have hxs : (m.pwr.samples ++ [watts]).drop ((m.pwr.samples ++ [watts]).length - 100) = xs := by
    rw [hx, List.length_append, List.length_singleton, show m.pwr.samples.length + 1 - 100 = m.pwr.samples.length - 99 by omega]
  simp only [Mod.powerSample, ha, hxs, Bool.not_true, Bool.false_eq_true, if_false]

theorem Mod.capDecision_of_above (ha : m.alive = true) (h : m.pwr.capW < m.pwr.p1) (hop : 0 < m.pwr.capOp) :
    m.capDecision = { m with pwr := { m.pwr with capOp := m.pwr.capOp - 1, belowFor := 0 } }.power := by
  simp only [Mod.capDecision, ha, if_pos h, if_pos hop, Bool.not_true, Bool.false_eq_true, if_false]

theorem Mod.capDecision_of_room (ha : m.alive = true) (h : m.pwr.p1 ≤ m.pwr.capW) (hroom : 1000 ≤ m.pwr.belowFor)
    (hop : m.pwr.capOp < 7) : m.capDecision = { m with pwr := { m.pwr with
      capUnmet := false
      capUnmetFor := 0
      capOp := m.pwr.capOp + 1
      belowFor := 0 } }.power := by
  simp only [Mod.capDecision, ha, if_neg (Nat.not_lt.2 h), if_pos (And.intro hroom hop), Bool.not_true, Bool.false_eq_true, if_false]

/-! ### Temperature and rates (R567, R568, R584 to R586) -/

theorem foldl_eq_some_of_step {α β : Type} {g : Option β → α → Option β} {t : β} (l : List α) (a : Option β)
    (h : ∀ i ∈ l, g none i = some t ∧ g (some t) i = some t) (ha : a = some t ∨ (a = none ∧ l ≠ [])) : l.foldl g a = some t := by
  induction l generalizing a with
  | nil =>
    obtain rfl | ⟨-, hne⟩ := ha
    · rfl
    · exact absurd rfl hne
  | cons i l ih =>
    obtain ⟨hnone, hsome⟩ := h i List.mem_cons_self
    have hstep : g a i = some t := by
      obtain rfl | ⟨rfl, -⟩ := ha
      · exact hsome
      · exact hnone
    exact ih (g a i) (fun j hj => h j (List.mem_cons_of_mem _ hj)) (.inl hstep)

/-- Sixteen sensors that respond alike set their die's hottest reading. -/
theorem Mod.sensorRead_of_alike {d : Nat} {t : Int} (hlow : -40 ≤ t) (hhigh : t < 115) (hon : m.phase ≠ .off)
    (hrails : m.pins.coreRails = true) : m.sensorRead d (List.replicate 16 (some t)) =
      (m.onDie d fun x => { x with
        tjMax := t
        sensorsOk := 16
        rateLowFrom := if t ≤ 85 then x.rateLowFrom else none
        sensorFail := false }).coolant := by
  have hread : ∀ i ∈ List.range 16, (List.replicate 16 (some t)).getD i none = some t := fun i hi => by
    rw [List.getD_eq_getElem?_getD, List.getElem?_replicate, if_pos (List.mem_range.1 hi)]
    rfl
  have hworks : workingSensor (some t) = true := decide_eq_true ⟨hlow, by omega⟩
  unfold Mod.sensorRead
  rw [if_neg (by simp [hon, hrails])]
  extract_lets ok top few bad was m1 m2 m3 p3 m4
  have hok : ok = List.range 16 := List.filter_eq_self.2 fun i hi => by rw [hread i hi, hworks]
  have htop : top = some t := by
    refine foldl_eq_some_of_step ok none (fun i hi => ?_) (.inr ⟨rfl, by rw [hok]; decide⟩)
    rw [hok] at hi
    dsimp only
    rw [hread i hi]
    simp
  have hfew : few = false := by dsimp only [few]; rw [hok]; rfl
  have hm4 : m4 = m2 := by
    dsimp only [m4, m3]
    rw [hfew]
    rfl
  have hlen : ok.length = 16 := by rw [hok]; rfl
  simp only [htop, if_neg (Int.not_le.2 hhigh), hm4]
  dsimp only [m2, m1]
  rw [htop, hfew, hlen]
  rfl

theorem Mod.thermOpStep_of_hot {d : Die} (ha : m.alive = true) (hok : ∀ x ∈ m.pwr.die, x.2.sensorFail = false)
    (h : (m.die! d).tjMax > m.pwr.throtC) :
    m.thermOpStep = { m with pwr := { m.pwr with thermOp := m.pwr.thermOp - 1 } }.power := by
  have hsensors : (m.pwr.die.any fun (d : Nat × DieSt) => d.2.sensorFail) = false := by simpa using hok
  have hd : d.val ∈ cores := by fin_cases d <;> decide
  have hhot : (cores.any fun d => decide (m.pwr.throtC < (m.die! d).tjMax)) = true :=
    List.any_eq_true.2 ⟨d, hd, decide_eq_true h⟩
  simp only [Mod.thermOpStep, ha, hsensors, hhot, Bool.not_true, Bool.false_eq_true, if_false, if_true]

theorem Mod.thermOpStep_of_cool (ha : m.alive = true) (hok : ∀ x ∈ m.pwr.die, x.2.sensorFail = false)
    (h : ∀ d : Die, (m.die! d).tjMax ≤ m.pwr.throtC - 5) (ht : m.pwr.thermOp < 6) :
    m.thermOpStep = { m with pwr := { m.pwr with thermOp := m.pwr.thermOp + 1 } }.power := by
  have hsensors : (m.pwr.die.any fun (d : Nat × DieSt) => d.2.sensorFail) = false := by simpa using hok
  have hd : ∀ d ∈ cores, (m.die! d).tjMax ≤ m.pwr.throtC - 5 := fun d hd => h ⟨d, by simp [cores] at hd; omega⟩
  have hhot : (cores.any fun d => decide (m.pwr.throtC < (m.die! d).tjMax)) = false := by
    rw [List.any_eq_false]
    intro d hmem
    have := hd d hmem
    simp; omega
  have hcool : (cores.all fun d => decide ((m.die! d).tjMax ≤ m.pwr.throtC - 5)) = true := by
    rw [List.all_eq_true]
    exact fun d hmem => decide_eq_true (hd d hmem)
  have hlt : m.pwr.thermOp < 7 := by omega
  have hne : ¬ m.pwr.thermOp = 6 := by omega
  simp only [Mod.thermOpStep, ha, hsensors, hhot, hcool, hlt, if_neg hne, decide_true, Bool.not_true, Bool.and_self,
    Bool.false_eq_true, if_false, if_true]

theorem Mod.rateSample_of_nominal {d count : Nat} (ha : m.alive = true)
    (h : 95 * nominalRate m.pwr.opNow ≤ 100 * min 65535 (count / 10)) : m.rateSample d count = m.onDie d fun x => { x with
      rate := min 65535 (count / 10)
      rateLowFrom := none
      rateLowSeen := false } := by
  have hlow : ∀ t : Int, decide (100 * min 65535 (count / 10) < 95 * nominalRate m.pwr.opNow ∧ t ≤ 85) = false := fun t =>
    decide_eq_false fun hc => Nat.not_lt.2 h hc.1
  simp only [Mod.rateSample, ha, hlow, Bool.not_true, Bool.false_and, Bool.false_eq_true, if_false]

theorem execTripPerimeterOff_of_tripped {s : State} (htrip : s.m.pins.thermTrip = true) (hon : s.m.pins.perimRails = true)
    (hdue : s.m.pins.tripAt + 5000000 ≤ s.m.now) : execTripPerimeterOff s = .next (s.commit { s.m.survivors false with
      pins := { (s.m.survivors false).pins with perimRails := false, flushing := false } }) := by
  rw [execTripPerimeterOff, run, if_pos (by simp [htrip, hon, hdue])]

end

end Sys2Proof.Machine
end

section
/-! PROOFS of 16_power_and_thermal: the statements. -/
namespace Sys2Proof.Proofs
open Sys2Proof Sys2Proof.Machine

/-- Settles O56. -/
theorem targetIsTheLowestPoint : Obligations.TargetIsTheLowestPoint := by
  refine fun p => ⟨Pwr.target_of_forced, fun ha hh => ?_⟩
  rw [Pwr.target_of_free ha hh]
  omega

/-- Settles O32: one lemma for each event. That alerts stand per kind and die, the input's at die 0, and that a warning's lowest reading
is what its trip reports, is deduced (log entry 13). -/
theorem forcedSourcesComplete : Obligations.ForcedSourcesComplete := by
  intro d s hrails
  refine ⟨fun ns acts hfree hlong => ?throttle, fun h => ?release, fun v m hv hfirst hm => ?input, fun v m hv hfirst hm => ?hot,
    fun k m h hm => ?lastAlert, fun k h => ?oneAlert, fun t ht hdue hr => ?holdoff, fun hramp hwarn hdue hbelow => ?ramp,
    fun mv m hshallow hlow hfirst hsteady hm => ?droop, fun hwarn hfree hdue hfirst => ?trip⟩
  case throttle => rw [exec_throttleInAssert, execThrottleInAssert, run, Mod.throttleIn_of_lasting hrails hfree hlong]
  case release => rw [exec_throttleInRelease, execThrottleInRelease_of_acting h]
  case input =>
    have hnone : s.m.pwr.alerts.any (RegAlert.same .inputLow d) = false := by
      refine List.any_eq_false.2 fun a ha hsame => ?_
      obtain ⟨hkind, -⟩ := Bool.and_eq_true_iff.1 hsame
      exact hfirst a ha (of_decide_eq_true hkind)
    rw [exec_regAlert, execRegAlert, run, Mod.regAlert_of_first (kind := .inputLow) hrails (decide_eq_true hv) hnone (by decide) rfl hm]
    rfl
  case hot =>
    have hnone : s.m.pwr.alerts.any (RegAlert.same .hot d) = false := by
      refine List.any_eq_false.2 fun a ha hsame => ?_
      obtain ⟨hkind, hdie⟩ := Bool.and_eq_true_iff.1 hsame
      exact hfirst a ha (of_decide_eq_true hkind) (of_decide_eq_true hdie)
    rw [exec_regAlert, execRegAlert, run, Mod.regAlert_of_first (kind := .hot) hrails (decide_eq_true hv) hnone (by decide) rfl hm]
    rfl
  case lastAlert => rw [exec_regAlertClear, execRegAlertClear_of_last h hm]
  case oneAlert => rw [exec_regAlertClear, execRegAlertClear_of_more h]
  case holdoff => rw [exec_forcedHoldoffEnd, execForcedHoldoffEnd, run, Mod.holdoffEnd_of_droop ht hdue hr]
  case ramp => rw [exec_rampStep, execRampStep, run, Mod.rampStep_of_below hramp hwarn hdue hbelow]
  case droop =>
    rw [exec_droopSample, execDroopSample, run, Mod.droopSample_of_warning hrails hshallow hlow hfirst hsteady hm]
  case trip =>
    have hdroop : ((s.m.die! d).warn && !s.m.pwr.forced && decide ((s.m.die! d).warnFrom + 5000 < s.m.now)) = true := by
      simp [hwarn, hfree, hdue]
    rw [exec_droopWarnTimeout, execDroopWarnTimeout, run, if_pos hdroop, Mod.droopTrip_of_first hfirst]

/-- Settles O33: one lemma for each event. The energy and the averages of a sample are deduced (log entry 13). -/
theorem capAndThermalComplete : Obligations.CapAndThermalComplete := by
  intro d s ha
  refine ⟨fun w v xs hx => ?sample, fun h hop => ?capDown, fun h hroom hop => ?capUp, fun t hlow hhigh hon hrails => ?sensors,
    fun hok h => ?hot, fun hok h ht => ?cool, fun n h => ?rate, fun htrip hon hdue => ?off⟩
  case sample => rw [exec_powerSample, execPowerSample, run, Mod.powerSample_of_alive ha hx]
  case capDown => rw [exec_capDecision, execCapDecision, run, Mod.capDecision_of_above ha h hop]
  case capUp => rw [exec_capDecision, execCapDecision, run, Mod.capDecision_of_room ha h hroom hop]
  case sensors =>
    rw [exec_junctionSensorRead, execJunctionSensorRead, run, Mod.sensorRead_of_alike hlow hhigh hon hrails]
  case hot => rw [exec_thermOpStep, execThermOpStep, run, Mod.thermOpStep_of_hot ha hok h]
  case cool => rw [exec_thermOpStep, execThermOpStep, run, Mod.thermOpStep_of_cool ha hok h ht]
  case rate => rw [exec_rateMonitorSample, execRateMonitorSample, run, Mod.rateSample_of_nominal ha h]
  case off => rw [exec_tripPerimeterOff, execTripPerimeterOff_of_tripped htrip hon hdue]

end Sys2Proof.Proofs
end

section
/-! PROOFS of 17_faults_and_fencing. The faults of a powered core, the end of a fence, the begin of an attempt and the fatal causes. -/
namespace Sys2Proof.Machine

/-! ### Faults of a core (R589, R590) -/

section
variable {m : Mod} {c : Nat}

theorem Mod.coreFault_of_powered (hp : m.powered c = true) (code : Nat) (pay : List (Nat × Nat × Nat)) :
    m.coreFault c code pay = (m.ev code 2 pay).containCore c code := if_pos hp

theorem Mod.alive_of_powered (hp : m.powered c = true) : m.alive = true ∧ (m.core! c).fenced = false := by
  unfold Mod.powered at hp
  simp only [Bool.and_eq_true, Bool.not_eq_true'] at hp
  obtain ⟨⟨halive, hfenced⟩, -⟩ := hp
  exact ⟨halive, hfenced⟩

theorem Mod.synParity_of_syncObject {obj : Nat} (hp : m.powered c = true) (hc : c ≠ 4) (ho : obj < 48) : m.synParity c obj =
    (m.ev 0x6040 2 [(0, 1, c), (1, 1, obj), (2, 2, (m.sync! c obj).job)]).containCore c 0x6040 := by
  rw [Mod.synParity, if_neg hc, if_pos ho, Mod.coreFault_of_powered hp]

end

section
variable {c : Core} {a : Arr} {s : State} (hp : s.m.powered c = true)
include hp

theorem execSumpEccError_corrected (row : Fin 2048) (col : Fin 1024) : execSumpEccError c a row col true s =
    .next (s.commit (s.m.ev 0x1010 1 [(0, 1, c.val), (1, 1, a.val), (2, 2, row.val), (4, 2, col.val)])) := by
  simp only [execSumpEccError, run, if_true, hp]

theorem execSumpEccError_uncorrectable (row : Fin 2048) (col : Fin 1024) : execSumpEccError c a row col false s =
    .next (s.commit ((s.m.ev 0x1011 2 [(0, 1, c.val), (1, 1, a.val), (2, 2, row.val), (4, 2, col.val)]).containCore c 0x1011)) := by
  simp only [execSumpEccError, run, Bool.false_eq_true, if_false, Mod.coreFault_of_powered hp]

theorem execXposeParity_of_held {st : Bool} {id : Nat} {f : Infl} (hf : s.m.infl? c id = some f)
    (hid : id ∈ (if st then (s.m.arr! c a).statHalf else (s.m.arr! c a).moveHalf)) (band : Fin 16) :
    execXposeParity c a st band id s = .next (s.commit ((s.m.ev 0x1013 2
      [(0, 1, c.val), (1, 1, a.val), (2, 1, b2n st), (3, 1, band.val), (4, 2, f.job), (6, 4, dSeq f.d)]).containCore c 0x1013)) := by
  have hheld := List.contains_iff_mem.2 hid
  simp only [execXposeParity, run, hf, hheld, Bool.not_true, Bool.false_eq_true, if_false, Mod.coreFault_of_powered hp]

theorem execVecLaneParity_of_runs {f : Infl} (hf : s.m.vecRuns c = some f) (st : Fin 8) : execVecLaneParity c st s =
    .next (s.commit ((s.m.ev 0x1201 2 [(0, 1, c.val), (1, 1, st.val), (2, 2, f.job), (4, 4, dSeq f.d)]).containCore c 0x1201)) := by
  simp only [execVecLaneParity, run, hf, Mod.coreFault_of_powered hp]

theorem execPanEccError_corrected (bank : Fin 64) (w : W32) : execPanEccError c bank w true s =
    .next (s.commit ((s.m.panCnt c 0x40 1).ev 0x4801 1 [(0, 1, c.val), (1, 1, bank.val), (2, 4, w.toNat)])) := by
  obtain ⟨halive, hfenced⟩ := Mod.alive_of_powered hp
  simp only [execPanEccError, run, if_true, halive, hfenced, Bool.not_false, Bool.and_self]

theorem execPanEccError_uncorrectable (bank : Fin 64) (w : W32) : execPanEccError c bank w false s =
    .next (s.commit (((s.m.badWord c bank w.toNat).ev 0x4802 2
      [(0, 1, c.val), (1, 1, bank.val), (2, 4, w.toNat)]).containCore c 0x4802)) := by
  simp only [execPanEccError, run, Bool.false_eq_true, if_false, hp, if_true]

end

/-! ### Replay (R599, R606) -/

theorem Mod.replayBegin_of_drained {m m' : Mod} {job : Nat} {j : Job} {r : Run} {q : ReplayReq} {vs : List (Nat × Nat)}
    (hj : m.job? job = some j) (hr : j.run = some r) (hq : r.replay = some q) (hown : q.attempt = 0) (hdrained : m.inflLive job = false)
    (hfences : ∀ c ∈ cores, (m.core! c).fencing ≠ none → j.taskBinds r c = false) (hvs : m.variants j r r.tasks [] = .ok vs)
    (hm : m' = m.beginAttempt job q vs) : m.replayBegin job =
    ((m'.ev 0xD010 0 [(0, 2, job), (2, 8, r.step), (10, 1, m'.attemptOf job), (11, 1, q.point), (12, 2, q.code)]).sendNotice
      job 1 q.point (m'.attemptOf job) 0).power := by
  have hfencing : (cores.any fun c => (m.core! c).fencing.isSome && j.taskBinds r c) = false := by
    refine List.any_eq_false.2 fun c hc hboth => ?_
    obtain ⟨hsome, hbinds⟩ := Bool.and_eq_true_iff.1 hboth
    rw [hfences c hc (Option.isSome_iff_ne_none.1 hsome)] at hbinds
    contradiction
  subst hm
  simp only [Mod.replayBegin, hj, hr, hq, hdrained, hfencing, hvs, hown, Bool.or_self, Bool.false_eq_true, if_false, if_true]

end Sys2Proof.Machine
end

section
/-! PROOFS of 17_faults_and_fencing: the statements. -/
namespace Sys2Proof.Proofs
open Sys2Proof Sys2Proof.Machine

/-- Settles O18: one lemma for each fault. -/
theorem coreFaultsContain : Obligations.CoreFaultsContain := by
  intro c a s hp
  refine ⟨fun row col pay hpay => ⟨?sumpCorrected, ?sump⟩, fun row slot => ?chute, fun st band id f hf hid => ?xpose,
    fun st f hf => ?lane, fun r job hr => ?recipe, fun bank w pay hpay => ⟨?pantryCorrected, ?pantry⟩, fun obj ho => ?sync⟩
  case sumpCorrected => rw [exec_sumpEccError, execSumpEccError_corrected hp, hpay]
  case sump => rw [exec_sumpEccError, execSumpEccError_uncorrectable hp, hpay]
  case chute => rw [exec_chuteParity, execChuteParity, run, Mod.coreFault_of_powered hp]
  case xpose => rw [exec_xposeParity, execXposeParity_of_held hp hf hid]
  case lane => rw [exec_vecLaneParity, execVecLaneParity_of_runs hp hf]
  case recipe => rw [exec_vecRecipeParity, execVecRecipeParity, run, if_pos hr, Mod.coreFault_of_powered hp]
  case pantryCorrected => rw [exec_panEccError, execPanEccError_corrected hp, hpay]
  case pantry => rw [exec_panEccError, execPanEccError_uncorrectable hp, hpay]
  case sync => rw [exec_synParity, execSynParity, run, Mod.synParity_of_syncObject hp (by omega) ho]

/-- Settles O23. That the record of a fabric failure names the lower die is the model's choice (log entry 84). -/
theorem fenceReplayAndFatalComplete : Obligations.FenceReplayAndFatalComplete := by
  intro c job a b s
  refine ⟨fun k code bad hk => ?fenceEnd, fun j r q vs hj hr hq hown hdrained hfences hvs m hm => ?replay,
    fun hon => ⟨fun hne => ?fabric, ?watchdog, ?memory⟩⟩
  case fenceEnd => simp only [exec_fenceEvacuationDone, execFenceEvacuationDone, run, Mod.fenceEvacuated, hk]
  case replay =>
    rw [exec_replayBegin, execReplayBegin, run, Mod.replayBegin_of_drained hj hr hq hown hdrained hfences hvs hm]
  case fabric => rw [exec_fabricReplayFailure, execFabricReplayFailure, run, if_neg (not_or.2 ⟨hne, hon⟩)]
  case watchdog => rw [exec_watchdogExpiry, execWatchdogExpiry, run, if_neg hon]
  case memory => rw [exec_cpMemoryUncorrectable, execCpMemoryUncorrectable, run, if_neg hon]

end Sys2Proof.Proofs
end

section
/-! PROOFS of 18_startup_and_security. Start-up and its failures, recovery mode, debug; the signed commands; the responder's requests. -/
namespace Sys2Proof.Machine

/-! ### Start-up (R616 to R628, R640, R656) -/

section
variable {m m' : Mod}

/-- A start-up with every bank calibrated and the repair records read ends with the ports in training. -/
theorem Mod.memInit_of_repaired {r : MemInitReport} (hp : m.phase = .memInit) (hf : m.fatal = false) (hcalib : r.calibFail = [])
    (hbank : r.bankFail = []) (hread : r.recordsReadable = true)
    (hm : m' = ((m.startAttic r.atticCode).startRepairs true r.atticCode).startMapOuts.spareCheck) (hspares : m'.nv.exhausted = [])
    (hf' : m'.fatal = false) : m.memInit r = (((List.range 64).foldl (fun m p => m.onPort p fun x =>
      { x with link := .training }) m').setPhase .linkInit) := by
  have hgo : ¬ (decide (m.phase ≠ .memInit) || m.fatal) = true := by simp [hp, hf]
  rw [Mod.memInit, if_neg hgo]
  simp only [hread, ← hm, if_true, hspares, hbank, hcalib, List.foldl_nil, hf', Bool.false_eq_true, if_false]

theorem Mod.linkInitDone_of_done (hp : m.phase = .linkInit) (hf : m.fatal = false)
    (hdone : (∀ p : Port, (m.port! p).link = .up) ∨ m.phaseAt + 2000000000 ≤ m.now) :
    m.linkInitDone = (m.setPhase (if m.degradedCond then .degraded else .ready)).confirmTrial := by
  have hover : (((List.range 64).all fun p => decide ((m.port! p).link = .up)) || decide (m.phaseAt + 2000000000 ≤ m.now)) = true := by
    rcases hdone with hup | hlate
    · refine Bool.or_eq_true_iff.2 (.inl (List.all_eq_true.2 fun p hmem => decide_eq_true ?_))
      exact hup ⟨p, List.mem_range.1 hmem⟩
    · exact Bool.or_eq_true_iff.2 (.inr (decide_eq_true hlate))
  simp only [Mod.linkInitDone, hp, hf, hover, ne_eq, not_true_eq_false, decide_false, Bool.not_true, Bool.or_self, Bool.false_eq_true,
    if_false]

theorem Mod.overdue_of_linkInit (hp : m.phase = .linkInit) (hf : m.fatal = false) (hrec : m.sec.recovery = false)
    (hlate : m.phaseAt + 2000000000 < m.now) : m.overdue = some 4 := by
  simp [Mod.overdue, hp, hf, hrec, startLimit, hlate]

end

section
variable {s s1 : State}

theorem execBootComplete_of_image (hp : s.m.phase = .boot) (hrec : s.m.sec.recovery = false) (hs : s1 = s.commit s.m.bootWork)
    (hrec' : s1.m.sec.recovery = false) :
    execBootComplete s = .next ({ s1 with evr := s1.evr.start s1.m }.commit s1.m.enterMemInit) := by
  subst hs
  have hgo : ¬ (s.m.phase ≠ .boot ∨ s.m.sec.recovery = true) := by simp [hp, hrec]
  rw [execBootComplete, if_neg hgo]
  simp only [hrec', Bool.false_eq_true, if_false]

theorem execStartupFail_of_overdue {code : Nat} (hover : s.m.overdue = some code) (htrial : s.m.onTrial = false) :
    execStartupFail s = .next (s.commit (s.m.startupFail code)) := by
  simp only [execStartupFail, hover, htrial, Bool.false_eq_true, if_false]

theorem execStartupFail_of_trial {code : Nat} (hover : s.m.overdue = some code) (htrial : s.m.onTrial = true)
    (hs : s1 = s.commit (s.m.trialFails s.m.phase.code 2)) :
    execStartupFail s = .next ({ s1 with evr := s1.evr.boot }.commit s1.m.bootEntry) := by
  subst hs
  simp only [execStartupFail, hover, htrial, if_true]

theorem execFirmwareImageTransfer_of_valid {img : ImageFile} {a : ImageAuth} {t : Tab Nat} (ht : t = imgOf img.bytes)
    (hrec : s.m.sec.recovery = true) (hpass : s.m.nv.passes t img.len a = true) (htype : (imgHeader t).type = 1)
    (hfloor : s.m.nv.floor ≤ (imgHeader t).svn) : execFirmwareImageTransfer img a s =
      .next (s.commit { s.m with nv := { s.m.nv with slotA := pendingSlot t, slotB := {} } }) := by
  subst ht
  simp only [execFirmwareImageTransfer, run, hrec, hpass, htype, hfloor, decide_true, Bool.and_self, if_true]

theorem execDebugRelockExpiry_of_due (h : 0 < s.m.sec.dbgEnd) (hdue : s.m.sec.dbgEnd ≤ s.m.now) :
    execDebugRelockExpiry s = .next (s.commit ((s.m.relock 1).async 1)) := by
  rw [execDebugRelockExpiry, run, if_pos ⟨Nat.pos_iff_ne_zero.1 h, hdue⟩]

end

/-! ### The recorder's commands and the signed ones (R543, R627, R639, R651 to R653) -/

theorem Evr.append_cntLost (e : Evr) (r : Rec) : (e.append r).cntLost = e.cntLost := by
  simp only [Evr.append, apply_ite Evr.cntLost, Evr.preserve_cntLost, ite_self]

theorem Evr.own_cntLost (e : Evr) (m : Mod) (code : Nat) (fs : List (Nat × Nat × Nat)) : (e.own m code fs).cntLost = e.cntLost :=
  Evr.append_cntLost _ _

theorem Evr.foldl_append_cntLost (l : List Rec) (e : Evr) : (l.foldl Evr.append e).cntLost = e.cntLost := by
  induction l generalizing e with
  | nil => rfl
  | cons r l ih => rw [List.foldl_cons, ih, Evr.append_cntLost]

theorem Evr.foldl_reenter_cntLost (l : List Rec) (e : Evr) : (l.foldl Evr.reenter e).cntLost = e.cntLost := by
  induction l generalizing e with
  | nil => rfl
  | cons r l ih => rw [List.foldl_cons, ih, Evr.reenter]

/-- A thaw moves what staging holds, and loses nothing. -/
theorem Evr.thaw_cntLost (e : Evr) (m : Mod) : (e.thaw m).cntLost = e.cntLost := by
  simp only [Evr.thaw, Evr.foldl_append_cntLost]
  split
  · rfl
  · rw [Evr.own_cntLost]

theorem Evr.clear_cntLost (e : Evr) (m : Mod) : (e.clear m).cntLost = e.cntLost := by
  simp only [Evr.clear, Evr.thaw_cntLost, Evr.foldl_reenter_cntLost, Evr.own_cntLost]

theorem Evr.moved_of_same {a b : Evr} (hs : b.staging = a.staging) (hr : b.cntRecords = a.cntRecords) : a.moved b = 0 := by
  simp only [Evr.moved, hs, hr, Nat.sub_self, Nat.mul_zero]

/-- A row that moves and loses no record of the ring and of staging has no residency traffic. -/
theorem runE_of_records_same {f : Evr → Mod → Mod × Evr} {s : State} {m : Mod} {e : Evr} (hf : f s.evr s.m = (m, e))
    (hs : e.staging = s.evr.staging) (hr : e.cntRecords = s.evr.cntRecords) (hl : e.cntLost = s.evr.cntLost) :
    runE f s = .next ({ s with evr := e }.commit m) := by
  rw [runE_of_cntLost_le hf (Nat.le_of_eq hl), Mod.evrTraffic, if_pos (Evr.moved_of_same hs hr)]

theorem State.accepts.evrCommand_eq {s : State} {op : Nat} {q : Queue} {p : Packet} (ha : s.accepts op q p) (f : Evr → Evr) :
    s.m.evrCommand s.evr op q p f = (s.m.reply q (pktId p) stOK, f s.evr) := by
  obtain ⟨ht, hc⟩ := ha
  simp [Mod.evrCommand, Mod.command, ht, hc]

section
variable {s : State} {q : Queue} {p : Packet} {g : Sig}

theorem Evr.freeze_of_frozen {e : Evr} (h : e.frozenAt.isSome = true) (now : Nat) : e.freeze now = e := if_pos h

theorem Evr.freeze_of_running {e : Evr} (h : e.frozenAt = none) (now : Nat) :
    e.freeze now = { e with frozenAt := some now, lostInFreeze := 0 } := by
  rw [Evr.freeze, h]
  rfl

theorem exec_evrFreeze_of_running (ha : s.accepts 0x51 q p) (h : s.evr.frozenAt = none) : exec (.evrFreeze q p) s =
    .next ({ s with evr := { s.evr with frozenAt := some s.m.now, lostInFreeze := 0 } }.commit (s.m.reply q (pktId p) stOK)) := by
  rw [exec_evrFreeze, execEvrFreeze]
  exact runE_of_records_same ((ha.evrCommand_eq _).trans (by rw [Evr.freeze_of_running h])) rfl rfl rfl

theorem exec_evrFreeze_of_frozen (ha : s.accepts 0x51 q p) (h : s.evr.frozenAt.isSome = true) : exec (.evrFreeze q p) s =
    .next (s.commit (s.m.reply q (pktId p) stOK)) := by
  rw [exec_evrFreeze, execEvrFreeze]
  exact runE_of_evr_same ((ha.evrCommand_eq _).trans (by rw [Evr.freeze_of_frozen h]))

theorem exec_evrThaw_of_frozen (ha : s.accepts 0x52 q p) (h : s.evr.frozenAt.isSome = true) : exec (.evrThaw q p) s =
    .next ({ s with evr := s.evr.thaw s.m }.commit ((s.m.reply q (pktId p) stOK).evrTraffic s.evr (s.evr.thaw s.m))) := by
  rw [exec_evrThaw, execEvrThaw]
  exact runE_of_cntLost_le ((ha.evrCommand_eq _).trans (by rw [if_pos h])) (Nat.le_of_eq (Evr.thaw_cntLost _ _))

theorem exec_evrThaw_of_running (ha : s.accepts 0x52 q p) (h : s.evr.frozenAt = none) : exec (.evrThaw q p) s =
    .next (s.commit (s.m.reply q (pktId p) stOK)) := by
  rw [exec_evrThaw, execEvrThaw]
  exact runE_of_evr_same ((ha.evrCommand_eq _).trans (by rw [h]; rfl))

theorem Mod.evrClear_of_accepted (ha : s.acceptsSigned 0x53 q p g) :
    s.m.evrClear s.mem s.evr q p g = ((s.m.reply q (pktId p) stOK).renewNonce, s.evr.clear s.m) := by
  obtain ⟨ht, hsig⟩ := ha
  simp [Mod.evrClear, ht, hsig]

theorem Mod.fwActivate_of_accepted {a : ImageAuth} (ha : s.acceptsSigned 0x59 q p g) (hok : s.m.activateStatus p a = none) :
    s.m.fwActivate s.mem q p g a = ((s.m.activate a).reply q (pktId p) stOK).renewNonce := by
  obtain ⟨ht, hsig⟩ := ha
  simp [Mod.fwActivate, ht, hsig, hok]

theorem Mod.debugUnlock_of_accepted (ha : s.acceptsSigned 0x5B q p g) (hok : s.m.nv.dbgDisable = false) :
    s.m.debugUnlock s.mem q p g = (({ s.m with sec := { s.m.sec with dbgEnd := s.m.now + pkt p 16 4 * 1000000000 } }.ev 0xB020 0
      [(0, 4, pkt p 16 4), (4, 8, s.m.now + pkt p 16 4 * 1000000000)]).reply q (pktId p) stOK).renewNonce := by
  obtain ⟨ht, hsig⟩ := ha
  simp [Mod.debugUnlock, ht, hsig, hok]

end

/-! ### SPDM (R635 to R638) -/

section
variable {m : Mod} {t : Transport} {c : SpdmConn} {put : SpdmState → Nat → List Byte → Mod} {sig : Nat → List Byte → List Byte}

/-- A request that the transport carries, in a state that takes it, moves the connection, answers and extends the transcript. -/
theorem Mod.spdm1_of_taken (hup : m.spdmUp t = true) {code : Nat} {doeOnly : Bool} {from_ : List SpdmState} (hdoe : doeOnly = true → t = .doe)
    (hst : (m.conn t).st ∈ from_) (next : Option SpdmState) (vs : List Byte) : m.spdm1 t code doeOnly from_ next vs = m.setConn t {
      st := next.getD (m.conn t).st
      values := vs
      transcript := (if code = 0x84 then [] else (m.conn t).transcript) ++ BitVec.ofNat 8 code :: vs } := by
  have hgo : (!m.spdmUp t || (doeOnly && decide (t ≠ .doe)) || !from_.contains (m.conn t).st) = false := by
    rw [hup, List.contains_iff_mem.2 hst]
    cases doeOnly with
    | false => rfl
    | true => simp [hdoe rfl]
  rw [Mod.spdm1, if_neg (ne_true_of_eq_false hgo)]

/-- Every request but GET_VERSION goes on with the connection's transcript. -/
theorem Mod.spdm1_eq_put (hup : m.spdmUp t = true) (hc : c = m.conn t)
    (hput : ∀ st code vs, put st code vs = m.setConn t { st := st, values := vs, transcript := c.transcript ++ BitVec.ofNat 8 code :: vs })
    {code : Nat} (hcode : code ≠ 0x84) {doeOnly : Bool} {from_ : List SpdmState} (hdoe : doeOnly = true → t = .doe) (hst : c.st ∈ from_)
    (next : Option SpdmState) (vs : List Byte) : m.spdm1 t code doeOnly from_ next vs = put (next.getD c.st) code vs := by
  subst hc
  rw [Mod.spdm1_of_taken hup hdoe hst, hput, if_neg hcode]

theorem Mod.signed_eq_sig (hc : c = m.conn t)
    (hsig : ∀ code vs, sig code vs = vs ++ leBytes 4627 (Config.mldsaSign m.sec.aliasSeed (Config.spdmPrefix code ++
      leBytes 64 (Config.sha3 (c.transcript ++ BitVec.ofNat 8 code :: vs)).toNat) (Config.freeValue m.free)).toNat)
    (code : Nat) (vs : List Byte) : m.signed t code vs = sig code vs := by
  subst hc
  rw [hsig]
  rfl

theorem Mod.ideKm_of_secured (hup : m.spdmUp t = true) (ht : t = .doe) (hst : (m.conn t).st = .secured) (g : Bool) :
    m.ideKm t (some g) = { m with hif := { m.hif with ide := g } } := by
  have hgo : (m.spdmUp t && decide (t = .doe) && decide ((m.conn t).st = .secured)) = true := by
    simp only [hup, decide_eq_true ht, decide_eq_true hst, Bool.and_self]
  rw [Mod.ideKm, if_pos hgo, Option.getD_some]

end

theorem spdmAny_complete (st : SpdmState) : st ∈ spdmAny := by cases st <;> decide

theorem mem_spdmReady {st : SpdmState} (h : st = .negotiated ∨ st = .session ∨ st = .secured) : st ∈ spdmReady := by
  rcases h with rfl | rfl | rfl <;> decide

end Sys2Proof.Machine
end

section
/-! PROOFS of 18_startup_and_security: the statements. -/
namespace Sys2Proof.Proofs
open Sys2Proof Sys2Proof.Machine

/-- Settles O35: one lemma for each event. That the recorder starts its ring at the end of BOOT, and what of the start is volatile, is
deduced (log entries 14, 21); that a signature verifies is a standard outside the spec (log entry 88). -/
theorem startUpEventsComplete : Obligations.StartUpEventsComplete := by
  intro s
  refine ⟨fun s1 hp hrec hs hrec' => ?boot, fun r m hp hf hcalib hbank hread hm hspares hf' => ?memInit, fun hp hf hdone => ?linkInit,
    fun hp hf hrec htrial hlate m hm => ?late, fun code s1 hover htrial hs => ?trial,
    fun img t a i ht hi hrec hpass htype hfloor => ?image, fun hrec => ?activate, fun h hdue => ?relock⟩
  case boot => rw [exec_bootComplete, execBootComplete_of_image hp hrec hs hrec']
  case memInit =>
    rw [exec_memInitComplete, execMemInitComplete, run, Mod.memInit_of_repaired hp hf hcalib hbank hread hm hspares hf']
  case linkInit => rw [exec_linkInitComplete, execLinkInitComplete, run, Mod.linkInitDone_of_done hp hf hdone]
  case late =>
    rw [exec_startupFail, execStartupFail_of_overdue (Mod.overdue_of_linkInit hp hf hrec hlate) htrial, Mod.startupFail, hp, hm]
  case trial => rw [exec_startupFail, execStartupFail_of_trial hover htrial hs]
  case image =>
    subst hi
    rw [exec_firmwareImageTransfer, execFirmwareImageTransfer_of_valid ht hrec hpass htype hfloor]
    rfl
  case activate => rw [exec_activateFirmware, execActivateFirmware, run, if_pos hrec]
  case relock => rw [exec_debugRelockExpiry, execDebugRelockExpiry_of_due h hdue]; rfl

/-- Settles O3: one lemma for each command. What a thaw or the clearing moves of the ring is residency traffic (log entry 69). -/
theorem recorderAndSignedCommandsComplete : Obligations.RecorderAndSignedCommandsComplete := by
  intro q p g a s
  refine ⟨exec_evrFreeze_of_running, exec_evrThaw_of_frozen, fun ha => ?clear, fun ha hok => ?activate, fun ha hok => ?unlock⟩
  case clear =>
    rw [exec_evrClear, execEvrClear]
    exact runE_of_cntLost_le (Mod.evrClear_of_accepted ha) (Nat.le_of_eq (Evr.clear_cntLost _ _))
  case activate => rw [exec_fwActivate, execFwActivate, runH, Mod.fwActivate_of_accepted ha hok]
  case unlock => rw [exec_debugUnlock, execDebugUnlock, runH, Mod.debugUnlock_of_accepted ha hok]

/-- Settles O39: every request is `spdm1` with its code and states. The base standard's order of the requests and its codes are the
model's presumption (log entries 34, 92). -/
theorem spdmRequestsComplete : Obligations.SpdmRequestsComplete := by
  intro t s hup c put sig hc hput hsig
  have hsigned := Mod.signed_eq_sig hc hsig
  have hanswer := fun {code : Nat} (hcode : code ≠ 0x84) {from_ : List SpdmState} =>
    Mod.spdm1_eq_put (doeOnly := false) (from_ := from_) hup hc hput hcode fun hdoe => absurd hdoe (by decide)
  refine ⟨?version, fun hst => ?capabilities, fun hst => ?algorithms, fun hst => ?ready, fun ht => ?doe⟩
  case version =>
    rw [exec_getVersion, execGetVersion, run, Mod.getVersion, Mod.spdm1_of_taken hup (fun hdoe => absurd hdoe (by decide)) (spdmAny_complete _)]
    rfl
  case capabilities =>
    rw [exec_getCapabilities, execGetCapabilities, run, Mod.getCapabilities, hanswer (by decide) (by simp [hst])]
    rfl
  case algorithms =>
    rw [exec_negotiateAlgorithms, execNegotiateAlgorithms, run, Mod.negotiate, hanswer (by decide) (by simp [hst])]
    rfl
  case ready =>
    have hready := mem_spdmReady hst
    have hchunk : c.st ∈ [.capable, .negotiated, .session, .secured] := List.mem_cons_of_mem _ hready
    refine ⟨?digests, fun slot off len => ?certificate, ?challenge, fun i sign => ?measurements, fun last => ?chunkSend, ?chunkGet⟩
    case digests => rw [exec_getDigests, execGetDigests, run, Mod.getDigests, hanswer (by decide) hready]; rfl
    case certificate =>
      rw [exec_getCertificate, execGetCertificate, run, Mod.getCertificate, hanswer (by decide) hready]
      simp only [Option.getD_none, Fin.val_eq_zero_iff]
    case challenge => rw [exec_challenge, execChallenge, run, Mod.challenge, if_pos (Fin.val_zero _), hsigned, hanswer (by decide) hready]; rfl
    case measurements =>
      rw [exec_getMeasurements, execGetMeasurements, run, Mod.getMeasurements, hsigned, hanswer (by decide) hready]
      rfl
    case chunkSend => rw [exec_chunkSend, execChunkSend, run, Mod.chunk, ← hc, hanswer (by decide) hchunk]; rfl
    case chunkGet => rw [exec_chunkGet, execChunkGet, run, Mod.chunk, ← hc, hanswer (by decide) hchunk]; rfl
  case doe =>
    have hsession := fun {code : Nat} (hcode : code ≠ 0x84) {from_ : List SpdmState} =>
      Mod.spdm1_eq_put (doeOnly := true) (from_ := from_) hup hc hput hcode fun _ => ht
    refine ⟨fun hst => ?keyExchange, fun hst => ?finish, fun hst => ⟨?keyUpdate, ?endSession, fun g => ?ide⟩⟩
    case keyExchange => rw [exec_keyExchange, execKeyExchange, run, hsigned, hsession (by decide) (by simp [hst])]; rfl
    case finish => rw [exec_finish, execFinish, run, hsession (by decide) (by simp [hst])]; rfl
    case keyUpdate => rw [exec_keyUpdate, execKeyUpdate, run, hsession (by decide) (by simp [hst]), Option.getD_none, hst]
    case endSession => rw [exec_endSession, execEndSession, run, hsession (by decide) (by simp [hst])]; rfl
    case ide => rw [exec_ideKm, execIdeKm, run, Mod.ideKm_of_secured hup ht (hc ▸ hst)]

end Sys2Proof.Proofs
end

section
/-! PROOFS of 19_event_recorder. What the operations of the recorder do to its ring, staging and rate window; the thaw as one run of
appends; the recorder's events. -/
namespace Sys2Proof.Machine

/-! ### Appending (R646) -/

section
variable (e : Evr) (r : Rec) (l : List Rec)

theorem Evr.append_ring : (e.append r).ring = (e.ring ++ [{ r with index := e.next }]).drop (e.ring.length + 1 - 65536) := by
  simp only [Evr.append, Evr.preserve, apply_ite Evr.ring, ite_self]

theorem Evr.append_next : (e.append r).next = e.next + 1 := by
  simp only [Evr.append, Evr.preserve, apply_ite Evr.next, ite_self]

theorem Evr.append_staging : (e.append r).staging = e.staging := by
  simp only [Evr.append, Evr.preserve, apply_ite Evr.staging, ite_self]

theorem Evr.append_frozenAt : (e.append r).frozenAt = e.frozenAt := by
  simp only [Evr.append, Evr.preserve, apply_ite Evr.frozenAt, ite_self]

theorem Evr.append_opsec : (e.append r).opsec = e.opsec := by
  simp only [Evr.append, Evr.preserve, apply_ite Evr.opsec, ite_self]

theorem Evr.append_pcycles : (e.append r).pcycles = e.pcycles := by
  simp only [Evr.append, Evr.preserve, apply_ite Evr.pcycles, ite_self]

/-- A run of appends leaves staging and the freeze. -/
theorem Evr.foldl_append_same : (l.foldl Evr.append e).staging = e.staging ∧ (l.foldl Evr.append e).frozenAt = e.frozenAt := by
  induction l generalizing e with
  | nil => exact ⟨rfl, rfl⟩
  | cons r l ih => rw [List.foldl_cons, (ih _).1, (ih _).2, Evr.append_staging, Evr.append_frozenAt]; exact ⟨rfl, rfl⟩

end

/-- Records with the INDEX that each takes from `n` on. -/
def indexedFrom (l : List Rec) (n : Nat) : List Rec := (l.zipIdx n).map fun x => { x.1 with index := x.2 }

theorem indexedFrom_cons (r : Rec) (l : List Rec) (n : Nat) : indexedFrom (r :: l) n = { r with index := n } :: indexedFrom l (n + 1) := rfl

/-- To keep the last `n` elements before more follow, or only after, keeps the same. -/
theorem drop_append_drop {α : Type} (a b : List α) (n : Nat) :
    (a.drop (a.length - n) ++ b).drop ((a.drop (a.length - n) ++ b).length - n) = (a ++ b).drop ((a ++ b).length - n) := by
  rw [← List.drop_append_of_le_length (Nat.sub_le _ _), List.drop_drop, List.length_drop, List.length_append]
  congr 1
  omega

/-- A run of appends adds the records at the ring's end in their order; the lowest INDEXes give way (R646). -/
theorem Evr.foldl_append_ring (l : List Rec) (e : Evr) (h : e.ring.length ≤ 65536) : (l.foldl Evr.append e).ring =
    (e.ring ++ indexedFrom l e.next).drop ((e.ring ++ indexedFrom l e.next).length - 65536) := by
  induction l generalizing e with
  | nil => rw [List.foldl_nil, indexedFrom, List.zipIdx_nil, List.map_nil, List.append_nil, Nat.sub_eq_zero_of_le h, List.drop_zero]
  | cons r l ih =>
    have hone : (e.append r).ring = (e.ring ++ [{ r with index := e.next }]).drop
        ((e.ring ++ [{ r with index := e.next }]).length - 65536) := by
      rw [Evr.append_ring, List.length_append, List.length_singleton]
    have hbound : (e.append r).ring.length ≤ 65536 := by
      rw [hone, List.length_drop]
      omega
    rw [List.foldl_cons, ih _ hbound, hone, drop_append_drop, Evr.append_next, indexedFrom_cons, List.append_assoc, List.singleton_append]

/-! ### Freezing and thawing (R651) -/

section
variable (e : Evr) (r : Rec)

theorem Evr.stage_of_frozen (h : e.frozenAt ≠ none) : e.stage r = e.keep r := by
  rw [Evr.stage, if_neg]
  rwa [Option.isNone_iff_eq_none]

theorem Evr.keep_of_room (h : e.staging.length < 1024) : e.keep r = { e with staging := e.staging ++ [r] } :=
  if_neg (Nat.not_le.2 h)

theorem Evr.keep_of_full (h : 1024 ≤ e.staging.length) :
    e.keep r = { e with stgOvf := true, cntLost := e.cntLost + 1, lostInFreeze := e.lostInFreeze + 1 } := if_pos h

theorem Evr.keep_ring : (e.keep r).ring = e.ring := by
  unfold Evr.keep
  split <;> rfl

/-- What a thaw appends: STAGING_LOST where records were discarded, then the staged records. -/
def Evr.thawed (m : Mod) : List Rec :=
  (if e.lostInFreeze = 0 then [] else [e.mk' 0xE003 0 (pack [(0, 8, e.lostInFreeze)]) m.now m.unjoined]) ++ e.staging

theorem Evr.thaw_eq (m : Mod) :
    e.thaw m = (e.thawed m).foldl Evr.append { e with frozenAt := none, staging := [], lostInFreeze := 0 } := by
  unfold Evr.thaw Evr.thawed
  by_cases h : e.lostInFreeze = 0
  · simp only [if_pos h, List.nil_append]
  · simp only [if_neg h, List.singleton_append, List.foldl_cons]
    rfl

theorem Evr.thaw_staging (m : Mod) : (e.thaw m).staging = [] := by rw [Evr.thaw_eq, (Evr.foldl_append_same _ _).1]

theorem Evr.thaw_frozenAt (m : Mod) : (e.thaw m).frozenAt = none := by rw [Evr.thaw_eq, (Evr.foldl_append_same _ _).2]

theorem Evr.thaw_ring (m : Mod) (h : e.ring.length ≤ 65536) : (e.thaw m).ring =
    (e.ring ++ indexedFrom (e.thawed m) e.next).drop ((e.ring ++ indexedFrom (e.thawed m) e.next).length - 65536) := by
  rw [Evr.thaw_eq]
  exact Evr.foldl_append_ring _ { e with frozenAt := none, staging := [], lostInFreeze := 0 } h

end

section
variable {s : State} {m : Mod}

theorem Mod.reply_events (h : m.out = {}) (q : Queue) (id st : Nat) : (m.reply q id st).out.events = [] := by
  rw [Mod.reply_out m q id st 0 [] 0 q.isLt, h]

theorem State.commit_evr_of_withEvr {e : Evr} (h : m.out.events = []) : ({ s with evr := e }.commit m).evr = e :=
  State.commit_evr_of_no_events _ _ h

theorem State.commit_mem_of_withEvr (e : Evr) (m : Mod) : ({ s with evr := e }.commit m).mem = (s.commit m).mem := rfl

theorem State.commit_mem_of_evrTraffic (m : Mod) (a b : Evr) : (s.commit (m.evrTraffic a b)).mem = (s.commit m).mem := by
  rw [State.commit_mem, State.commit_mem, Mod.evrTraffic_out]

end

/-! ### The rate limit (R648, R649) -/

section
variable {e : Evr} {v : Ev}

theorem Evr.roll_of_within (h : e.opsec / 10 ≤ e.winNo) (t : Nat) (u : Bool) : e.roll t u = e := if_neg (Nat.not_lt.2 h)

theorem Evr.roll_of_past (h : e.winNo < e.opsec / 10) (t : Nat) (u : Bool) : e.roll t u = e.closeWindow t u := if_pos h

theorem Evr.stage_opsec (e : Evr) (r : Rec) : (e.stage r).opsec = e.opsec := by
  unfold Evr.stage Evr.keep
  split
  · exact Evr.append_opsec e r
  · split <;> rfl

theorem Evr.stage_pcycles (e : Evr) (r : Rec) : (e.stage r).pcycles = e.pcycles := by
  unfold Evr.stage Evr.keep
  split
  · exact Evr.append_pcycles e r
  · split <;> rfl

/-- A window that closes stages records alone: the counts of a record stay. -/
theorem Evr.closeWindow_counts (e : Evr) (t : Nat) (u : Bool) :
    (e.closeWindow t u).opsec = e.opsec ∧ (e.closeWindow t u).pcycles = e.pcycles := by
  unfold Evr.closeWindow
  refine List.foldlRecOn (motive := fun (x : Evr) => x.opsec = e.opsec ∧ x.pcycles = e.pcycles) e.win _ ⟨rfl, rfl⟩ fun x hx kw _ => ?_
  split
  · exact hx
  · rwa [Evr.stage_opsec, Evr.stage_pcycles]

theorem Evr.record_of_limited (hmode : v.mode = 0) (hlim : exempt v.code v.sev = false) (hwin : e.opsec / 10 ≤ e.winNo) {w : WinCnt}
    (hw : w = Tab.get {} e.win v.code) (h : w.n < 8) : e.record v =
      { e with win := Tab.put e.win v.code { w with n := w.n + 1 } }.stage (e.mk' v.code v.sev v.payload v.time v.unjoined) := by
  subst hw
  simp [Evr.record, hmode, hlim, Evr.roll_of_within hwin, h]

theorem Evr.record_of_suppressed (hmode : v.mode = 0) (hlim : exempt v.code v.sev = false) (hwin : e.opsec / 10 ≤ e.winNo) {w : WinCnt}
    (hw : w = Tab.get {} e.win v.code) (h : 8 ≤ w.n) : e.record v = { e with
      cntSupp := e.cntSupp + 1
      win := Tab.put e.win v.code { w with supp := w.supp + 1, first := if w.supp = 0 then v.time else w.first, last := v.time } } := by
  subst hw
  simp [Evr.record, hmode, hlim, Evr.roll_of_within hwin, Nat.not_lt.2 h]

/-- Past the window's end an occurrence is recorded as the first of the next window. -/
theorem Evr.record_of_past (hmode : v.mode = 0) (hlim : exempt v.code v.sev = false) (hwin : e.winNo < e.opsec / 10) :
    e.record v = (e.closeWindow v.time v.unjoined).record v := by
  obtain ⟨hopsec, hpcycles⟩ := Evr.closeWindow_counts e v.time v.unjoined
  have hroll : (e.closeWindow v.time v.unjoined).roll v.time v.unjoined = e.closeWindow v.time v.unjoined :=
    Evr.roll_of_within (Nat.le_of_eq (congrArg (· / 10) hopsec)) _ _
  have hrec : (e.closeWindow v.time v.unjoined).mk' v.code v.sev v.payload v.time v.unjoined =
      e.mk' v.code v.sev v.payload v.time v.unjoined := by
    rw [Evr.mk', Evr.mk', hopsec, hpcycles]
  simp [Evr.record, hmode, hlim, Evr.roll_of_past hwin, hroll, hrec]

end

/-! ### The recorder's events and the mailbox (R649, R652, R655, R669, R675) -/

section
variable {s : State} {m : Mod} {e : Evr}

theorem runE_eq {f : Evr → Mod → Mod × Evr} (hf : f s.evr s.m = (m, e)) : runE f s =
    .next ({ s with evr := e }.commit ((if s.evr.cntLost < e.cntLost then m.async 4 else m).evrTraffic s.evr e)) := by
  simp only [runE, hf]

theorem Mod.freezeExpired_of_due {t : Nat} (ht : e.frozenAt = some t) (hdue : t + 10000000000 ≤ m.now) :
    m.freezeExpired e = (e.own m 0xE004 [(0, 8, t)]).thaw m := by
  simp only [Mod.freezeExpired, ht, if_neg (Nat.not_lt.2 hdue)]

theorem exec_opsecPersist_of_due (ha : s.m.alive = true) (hdue : s.evr.opsecSaved + 60 ≤ s.evr.opsec) : exec .opsecPersist s =
    .next ({ s with evr := { s.evr with opsecSaved := s.evr.opsec, pcSaved := s.evr.pcycles } }.commit s.m) := by
  rw [exec_opsecPersist, execOpsecPersist]
  exact runE_of_records_same (by rw [if_pos (by rw [ha, decide_eq_true hdue]; rfl), Evr.persist]) rfl rfl rfl

theorem Mod.mailbox_of_good {f : MetFrame} (hon : m.phase ≠ .off) (hback : m.frameBack f = false) :
    m.mailbox f true = m.acceptFrame f := by
  simp only [Mod.mailbox, Mod.perimeterRuns, decide_eq_true hon, hback, Bool.not_true, Bool.false_eq_true, if_false]

theorem Mod.mailboxTimeout_of_due {f : MetFrame} (hf : m.met.held = some f) (hv : m.met.valid = true)
    (hdue : m.met.heldAt + 100000000 ≤ m.now) :
    m.mailboxTimeout = { m with met := { m.met with valid := false } }.ev 0xC001 0 [(0, 8, f.frame.toNat)] := by
  simp only [Mod.mailboxTimeout, hf, hv, decide_eq_true hdue, Bool.and_self, if_true]

end

end Sys2Proof.Machine
end

section
/-! PROOFS of 19_event_recorder: the statements. -/
namespace Sys2Proof.Proofs
open Sys2Proof Sys2Proof.Machine

/-- Settles O53: a thaw is one run of appends, of STAGING_LOST and the staged records. -/
theorem thawKeepsTheStagingOrder : Obligations.ThawKeepsTheStagingOrder := by
  intro q p s hout hring
  have hevents := Mod.reply_events hout q (pktId p) stOK
  have hsame : (s.commit (s.m.reply q (pktId p) stOK)).evr = s.evr := State.commit_evr_of_no_events _ _ hevents
  refine ⟨fun ha => ?freeze, fun r hf => ⟨?ring, fun hroom => ?kept, fun hfull => ?lost⟩, fun ha => ?thaw⟩
  case freeze =>
    cases hf : s.evr.frozenAt with
    | none => exact ⟨_, exec_evrFreeze_of_running ha hf, rfl, fun h => absurd rfl h, fun _ => State.commit_evr_of_withEvr hevents⟩
    | some t => exact ⟨_, exec_evrFreeze_of_frozen ha (by rw [hf]; rfl), rfl, fun _ => hsame, nofun⟩
  case ring => rw [Evr.stage_of_frozen _ _ hf, Evr.keep_ring]
  case kept => rw [Evr.stage_of_frozen _ _ hf, Evr.keep_of_room _ _ hroom]
  case lost => rw [Evr.stage_of_frozen _ _ hf, Evr.keep_of_full _ _ hfull]; exact ⟨rfl, rfl⟩
  case thaw =>
    cases hf : s.evr.frozenAt with
    | none => exact ⟨_, exec_evrThaw_of_running ha hf, rfl, fun _ => hsame, fun h => absurd rfl h⟩
    | some t =>
      refine ⟨_, exec_evrThaw_of_frozen ha (by rw [hf]; rfl), ?_, nofun, fun _ => ?_⟩
      · rw [State.commit_mem_of_evrTraffic, State.commit_mem_of_withEvr]
      · rw [State.commit_evr_of_withEvr (by rw [Mod.evrTraffic_out]; exact hevents)]
        refine ⟨Evr.thaw_frozenAt _ _, Evr.thaw_staging _ _, ?_⟩
        rintro l ring rfl rfl
        exact Evr.thaw_ring _ _ hring

/-- Settles O54. -/
theorem rateLimitCountsEachWindow : Obligations.RateLimitCountsEachWindow := by
  intro e v hmode hlim
  refine ⟨fun hwin w hw => ⟨Evr.record_of_limited hmode hlim hwin hw, fun h => ?suppressed⟩, fun hwin => ?next⟩
  case suppressed =>
    rw [Evr.record_of_suppressed hmode hlim hwin hw h]
    refine ⟨rfl, rfl, rfl, rfl, ?_⟩
    rw [Tab.get_put, if_pos rfl]
  case next =>
    exact ⟨_, Evr.record_of_past hmode hlim hwin, rfl, rfl, (Evr.closeWindow_counts _ _ _).1⟩

/-- Settles O36: one lemma for each event. That OPSEC_PERSIST saves the count of power cycles too is deduced (log entry 14). -/
theorem recorderAndMailboxEventsComplete : Obligations.RecorderAndMailboxEventsComplete := by
  intro s
  refine ⟨fun e hon hboot he => ?window, fun t e ht hdue he => ?freeze, exec_opsecPersist_of_due, fun f hon hback => ?frame,
    fun f hf hv hdue => ?timeout⟩
  case window =>
    rw [exec_rateWindowClose, execRateWindowClose]
    exact runE_eq (by rw [if_neg (not_or.2 ⟨hon, hboot⟩), he])
  case freeze =>
    rw [exec_freezeExpired, execFreezeExpired]
    exact runE_eq (by rw [Mod.freezeExpired_of_due ht hdue, he])
  case frame => rw [exec_mailboxFrame, execMailboxFrame, run, Mod.mailbox_of_good hon hback]
  case timeout => rw [exec_mailboxTimeout, execMailboxTimeout, run, Mod.mailboxTimeout_of_due hf hv hdue]

end Sys2Proof.Proofs
end

section
/-! PROOFS of 20_metrology and 21_module_interfaces. What the Strongbox's own rows do while it is supplied; the answers of the sideband
endpoint and of the test port. -/
namespace Sys2Proof.Machine

/-! ### The Strongbox (R661 to R668, R688) -/

section
variable {b : Strongbox} (h : b.supplied = true)
include h

theorem Strongbox.send_of_supplied (power : Nat) : b.send power = { b with
    sent := some { energy := BitVec.ofNat 64 b.energy, frame := BitVec.ofNat 64 b.frame, fwver := BitVec.ofNat 32 b.fwver,
                   pcnt := BitVec.ofNat 32 b.pcnt, tamper := b.tamper, nvmFault := b.nvmFault, power := power }
    frame := b.frame + 1 } := by
  rw [Strongbox.send, h]
  rfl

theorem Strongbox.after_energyAccumulate (microJ power : Nat) : b.after (.energyAccumulate microJ power) =
    { b with microJ := if b.params.startW ≤ power then b.microJ + microJ else b.microJ } := by
  by_cases hp : b.params.startW ≤ power
  · simp only [Strongbox.after, h, hp, decide_true, Bool.and_self, if_true]
  · simp only [Strongbox.after, hp, decide_false, Bool.and_false, Bool.false_eq_true, if_false]

theorem Strongbox.after_energyNvmWrite : b.after .energyNvmWrite = { b with nvmMilliJ := b.energy } := if_pos h

theorem Strongbox.supplyLost_of_supplied (holdUpOk : Bool) : b.supplyLost holdUpOk =
    if holdUpOk then { b with supplied := false, nvmMilliJ := b.energy, microJ := b.energy * 1000 }
    else { b with supplied := false, nvmFault := true, microJ := b.nvmMilliJ * 1000 } := by
  rw [Strongbox.supplyLost, h]
  rfl

theorem Strongbox.after_transfer (op : MetOp) : b.after (.metrologySignedTransfer true op) = b.transfer op := by
  rw [Strongbox.after, h]
  rfl

theorem Strongbox.after_refusedTransfer (op : MetOp) : b.after (.metrologySignedTransfer false op) = b := by
  rw [Strongbox.after, h]
  rfl

theorem Strongbox.after_sealLoopOpen : b.after .sealLoopOpen = { b with loopOpen := true, tamper := true } := by
  rw [Strongbox.after, h, Bool.or_true]

end

/-! ### The endpoint and the test port (R689 to R692, R696, R697) -/

section
variable {m : Mod}

theorem Mod.endpointUp_of_alive (h : m.alive = true) : m.endpointUp = true := by rw [Mod.endpointUp, h, Bool.true_or]

theorem Mod.answer_of_up (bs : List Byte) : m.answer true bs = { m with sb := { m.sb with reply := bs } } := rfl

end

end Sys2Proof.Machine
end

section
/-! PROOFS of 20_metrology and 21_module_interfaces: the statements. -/
namespace Sys2Proof.Proofs
open Sys2Proof Sys2Proof.Machine

/-- Settles O37: `Strongbox.after` says what each row does. That a hold-up which fails resumes from the last energy written is the
model's choice (log entry 29). -/
theorem strongboxRowsComplete : Obligations.StrongboxRowsComplete := by
  intro s h
  refine ⟨fun w => ?send, fun j w => ?accumulate, ?write, ?stored, ?holdUpFails, fun p => ?params, fun v => ?firmware, ?clearTamper,
    ?clearFault, fun op => ?refused, fun off len => ?read, ?sealOpen⟩
  case send => rw [exec_of_strongbox_after rfl, Strongbox.after, Strongbox.send_of_supplied h]; rfl
  case accumulate => rw [exec_of_strongbox_after rfl, Strongbox.after_energyAccumulate h]
  case write => rw [exec_of_strongbox_after rfl, Strongbox.after_energyNvmWrite h]; rfl
  case stored => rw [exec_of_strongbox_after rfl, Strongbox.after, Strongbox.supplyLost_of_supplied h]; rfl
  case holdUpFails => rw [exec_of_strongbox_after rfl, Strongbox.after, Strongbox.supplyLost_of_supplied h]; rfl
  case params => rw [exec_of_strongbox_after rfl, Strongbox.after_transfer h]; rfl
  case firmware => rw [exec_of_strongbox_after rfl, Strongbox.after_transfer h]; rfl
  case clearTamper => rw [exec_of_strongbox_after rfl, Strongbox.after_transfer h]; rfl
  case clearFault => rw [exec_of_strongbox_after rfl, Strongbox.after_transfer h]; rfl
  case refused => rw [exec_of_strongbox_after rfl, Strongbox.after_refusedTransfer h]
  case read => rw [exec_strongboxPrivateRead, execStrongboxPrivateRead, if_pos h, run]
  case sealOpen => rw [exec_of_strongbox_after rfl, Strongbox.after_sealLoopOpen h]

/-- Settles O38. The bytes of the discovery answers are the model's presumption (log entry 35). -/
theorem sidebandAndTestPortComplete : Obligations.SidebandAndTestPortComplete := by
  intro s
  refine ⟨fun ha hrec => ?endpoint, rfl, fun hp => ⟨?idcode, fun c => ?bypass⟩, rfl⟩
  case endpoint =>
    have hup := Mod.endpointUp_of_alive ha
    refine ⟨fun e => ?setId, ?getId, ?types, ?version, ?pldm, fun n v hv => ?sensor⟩
    case setId => rw [exec_setEndpointId, execSetEndpointId, run, if_pos hup]
    case getId => rw [exec_getEndpointId, execGetEndpointId, run, hup, Mod.answer_of_up]
    case types => rw [exec_mctpDiscovery, execMctpDiscovery, run, hup, Mod.answer_of_up, Mod.mctpTypes, hrec]; rfl
    case version => rw [exec_mctpDiscovery, execMctpDiscovery, run, hup, Mod.answer_of_up]; rfl
    case pldm => rw [exec_pldmDiscovery, execPldmDiscovery, run, hup, Mod.answer_of_up, hrec]; rfl
    case sensor =>
      simp only [exec_pldmSensorRead, execPldmSensorRead, run, hup, hrec, hv, Bool.not_false, Bool.and_self, Mod.answer_of_up]
  case idcode => rw [exec_idcode, execIdcode, run, if_pos (show s.m.testUp = true from hp)]
  case bypass => rw [exec_bypass, execBypass, run, if_pos (show s.m.testUp = true from hp)]

end Sys2Proof.Proofs
end
